-- ==== Sys2Proof/Word.lean ====
section
/-! DEFINITION. The word types of the module: bytes, instruction words, data words and code words (spec 00 R6), and the
type of a sparse table. -/

namespace Sys2Proof

/-- A byte. -/
abbrev Byte := BitVec 8

/-- A 32-bit register value (00 R11). -/
abbrev Reg := BitVec 32

/-- An instruction word of 64 bits (06 R164). -/
abbrev IWord := BitVec 64

/-- The 32 data bytes of a word; byte k holds bits [8k+7:8k] (00 R6). -/
abbrev Data := BitVec 256

/-- A code word: bits [255:0] are the 32 data bytes, bits [287:256] the check bytes p₀ to p₃, p₀ lowest (00 R6, 09 R261). -/
abbrev CodeWord := BitVec 288

/-- A sparse table: keys strictly rising, no entry equal to what an unlisted key reads as. -/
abbrev Sparse (α : Type) := List (Nat × α)

end Sys2Proof
end

