-- ==== Sys2Proof/Machine/Kinds.lean ====
section
/-! DEFINITION. The types of the commands' operands, and the stream instructions that instruction memory holds
(06 R164 to R203) with their fields. -/

namespace Sys2Proof

/-- A physical core number, die × 56 + row × 8 + column (04 R90). -/
abbrev CoreId := Fin 224

/-- The three streams of a core (05 R134). -/
inductive StreamId where
  | f | b | u
  deriving DecidableEq, Repr

/-- Where a command packet came from: a command queue (12 R360) or a mailbox (13 R392). -/
inductive CmdSrc where
  | queue (q : Fin 8)
  | mailbox (m : Fin 16)
  deriving DecidableEq, Repr

/-- The parties that may write a mailbox (12 R380). -/
inductive Agent where
  | host | mgmt | rmc | notar
  /-- The core controller of a logical core. -/
  | core (n : Nat)
  deriving DecidableEq, Repr

/-- The register windows that a write can reach (01 R24, 12 R357): the host's two with its PCIe configuration space (15 R459), and the
mailbox registers as an agent inside the module reaches them (12 R380). -/
inductive Bar where
  | bar0 | bar4 | config
  | mail (a : Agent)
  deriving DecidableEq, Repr

/-- The two SPDM transports (16 R481). -/
inductive Transport where
  | doe | mctp
  deriving DecidableEq, Repr

/-- The two readers of the Cairn registers and of BAR0's telemetry mirror (16 R493, 15 R453). -/
inductive Side where
  | host | rmc
  deriving DecidableEq, Repr

/-- The two patrol classes (09 R274). -/
inductive ScrubClass where
  | bonded | lpddr6
  deriving DecidableEq, Repr

/-- The 256 data bits of an Erg packet's header word, by field (10 R291). -/
structure ErgHdr where
  dst   : BitVec 12
  src   : BitVec 12
  gen   : BitVec 8
  opc   : BitVec 6
  vl    : BitVec 2
  plane : BitVec 4
  len   : BitVec 6
  space : Bool
  bopc  : BitVec 5
  epoch : BitVec 8
  seq   : BitVec 32
  addr  : BitVec 48
  rank  : BitVec 12
  rsv   : BitVec 4
  psn   : BitVec 32
  csum  : BitVec 64
  deriving DecidableEq, Repr

/-- An Erg packet: its header and its payload words as code words (10 R291). -/
structure ErgPacket where
  hdr     : ErgHdr
  payload : List CodeWord
  deriving DecidableEq, Repr

/-- The header word of a packet: its fields at their bits (10 R291). -/
def ErgHdr.word (h : ErgHdr) : Data :=
  h.csum ++ h.psn ++ h.rsv ++ h.rank ++ h.addr ++ h.seq ++ h.epoch ++ h.bopc ++ BitVec.ofBool h.space ++ h.len ++ h.plane ++ h.vl ++ h.opc
    ++ h.gen ++ h.src ++ h.dst

/-- The fields of a header word (10 R291). -/
def ErgHdr.ofWord (w : Data) : ErgHdr :=
  { dst := w.extractLsb' 0 12, src := w.extractLsb' 12 12, gen := w.extractLsb' 24 8, opc := w.extractLsb' 32 6, vl := w.extractLsb' 38 2,
    plane := w.extractLsb' 40 4, len := w.extractLsb' 44 6, space := w.getLsbD 50, bopc := w.extractLsb' 51 5, epoch := w.extractLsb' 56 8,
    seq := w.extractLsb' 64 32, addr := w.extractLsb' 96 48, rank := w.extractLsb' 144 12, rsv := w.extractLsb' 156 4,
    psn := w.extractLsb' 160 32, csum := w.extractLsb' 192 64 }

/-- Code words that a packet takes of a receive buffer (10 R288). -/
def ErgPacket.size (pkt : ErgPacket) : Nat := 1 + pkt.payload.length

/-- The virtual lane of a packet (10 R288). -/
def ErgPacket.lane (pkt : ErgPacket) : Fin 4 := pkt.hdr.vl.toFin

/-- Which bucket instance (11 R325). -/
structure InstId where
  cid    : BitVec 16
  bucket : BitVec 16
  step   : BitVec 32
  deriving DecidableEq, Repr

/-- A node's run on an instance: errors of the adders in its addition and in the repetition, by element; none in a sound engine (11
R342). -/
structure NodeRun where
  id     : InstId
  first  : List (Nat × Int)
  again  : List (Nat × Int)
  deriving DecidableEq, Repr

/-- What a port finds of a frame: whether its CRC-32 holds, and how many of its FEC code words were corrected and could not be (10
R286). -/
structure FrameCheck where
  crcOk  : Bool
  corr   : Nat
  uncorr : Nat
  deriving DecidableEq, Repr

/-- A transfer on I3C that has no row of its own: a private write of bytes with the private read of `regs` registers that follows it (0:
none follows), or a direct common command code (15 R450, R452). -/
inductive I3cTransfer where
  | priv (bytes : List Byte) (regs : Nat)
  | ccc (code : Byte)
  deriving DecidableEq, Repr

/-- A low of a filtered sideband input, PERST_N or PWR_BRAKE_N (`brake`), of a length in nanoseconds (17 R505). A low of PERST_N may last on; one
of PWR_BRAKE_N that is of a length ends with it, and one that lasts on is the row PWR_BRAKE_ASSERT. -/
structure Pulse where
  brake : Bool
  ns    : Nat
  deriving DecidableEq, Repr

/-- An SPDM request that is its code alone: GET_VERSION is 0x84 (16 R482). -/
structure SpdmAsk where
  t    : Transport
  code : Byte
  deriving DecidableEq, Repr

/-- Who releases a mailbox; `met`: the receiver's `CODE` falls in the same control cycle (12 R383). -/
structure Releaser where
  agent : Agent
  met   : Bool
  deriving DecidableEq, Repr

/-- One item of a patrol result or a sensor set is plain data below; readings are in the units of 15 R470. -/
structure Readings where
  /-- The readings of the sensors of each of the 12 sources, 0.125 °C, signed (15 R464; THERM_i order). -/
  temps  : List (List (BitVec 12))
  vin    : BitVec 16
  pin    : BitVec 16
  vaux   : BitVec 16
  paux   : BitVec 16
  /-- Main input energy since the last reading, in mJ. -/
  energy : Nat
  deriving DecidableEq, Repr

/-- An address term (06 R166). -/
structure AddrTerm where
  base  : BitVec 21
  ca    : BitVec 3
  ena   : Bool
  stepA : BitVec 16
  cb    : BitVec 3
  enb   : Bool
  stepB : BitVec 16
  deriving DecidableEq, Repr

/-- The logical context that LCTX sets (06 R172). -/
structure LogicalCtx where
  tid   : BitVec 64
  lrow0 : BitVec 32
  lcol0 : BitVec 32
  lcols : BitVec 32
  cr    : BitVec 3
  enr   : Bool
  stepR : BitVec 16
  cc    : BitVec 3
  enc   : Bool
  stepC : BitVec 8
  deriving DecidableEq, Repr

/-- The first word of a VU instruction (06 R195). -/
structure VuHead where
  fn  : BitVec 6
  vd  : BitVec 5
  va  : BitVec 5
  vb  : BitVec 5
  vc  : BitVec 5
  lm  : BitVec 3
  imm : BitVec 13
  deriving DecidableEq, Repr

/-- MATMUL's fields (06 R179). -/
structure MatmulF where
  swap   : Bool
  passes : BitVec 2
  tbSel  : Bool
  tbase  : BitVec 10
  cmode  : Bool
  chalf  : Bool
  trans  : Bool
  mm1    : BitVec 7
  row0   : BitVec 7
  desc   : BitVec 10
  deriving DecidableEq, Repr

/-- DRAIN's fields (06 R189). -/
structure DrainF where
  round   : BitVec 2
  topk    : BitVec 5
  tkmode  : Bool
  tkmerge : Bool
  tokenEn : Bool
  token   : BitVec 5
  rows    : BitVec 7
  desc    : BitVec 10
  deriving DecidableEq, Repr

/-- VCVT's second word (06 R200). -/
structure CvtF where
  sc    : BitVec 8
  dc    : BitVec 8
  q     : BitVec 16
  round : BitVec 2
  deriving DecidableEq, Repr

/-- A stream instruction with its fields (06 R165). -/
inductive Insn where
  | nop
  | halt
  | event (code : BitVec 16)
  | cset (ctr : BitVec 3) (value : BitVec 24)
  | cinc (ctr : BitVec 3) (step : BitVec 24)
  | cmpset (cmp : BitVec 2) (ctr : BitVec 3) (mode : BitVec 2) (limit : BitVec 24)
  | br (target : BitVec 12)
  | brc (target : BitVec 12) (cmp : BitVec 2)
  | brn (target : BitVec 12) (cmp : BitVec 2)
  | hswitch (target : BitVec 12) (tag : BitVec 16)
  | twait (token : BitVec 5) (count : BitVec 8)
  | tpost (token : BitVec 5) (count : BitVec 8) (remote : Bool) (core : BitVec 8)
  | qpush (ch : BitVec 2) (cadj : BitVec 3) (adjen : Bool) (adjstep : BitVec 16) (addr : AddrTerm)
  | lctx (ctx : LogicalCtx)
  | matmul (m : MatmulF)
  | wload (plane : BitVec 2) (trans : Bool) (desc : BitVec 10)
  | wswap
  | drain (d : DrainF)
  | bfill (desc : BitVec 10)
  | vfp (h : VuHead)
  | vint (h : VuHead)
  | vxl (h : VuHead)
  | vcvt (h : VuHead) (w : CvtF)
  | vnacc (h : VuHead)
  | vmask (h : VuHead) (w : BitVec 64)
  | vld (h : VuHead) (addr : AddrTerm)
  | vst (h : VuHead) (addr : AddrTerm)
  deriving DecidableEq, Repr

end Sys2Proof
end

