-- ==== Sys2Proof/Syntax.lean ====
section
/-! DEFINITION. The commands of the block: one constructor of `Instr` for each row of spec/opcode_table.json, in the
table's order. The rows give no bits, so an operand is what the row's rule names. -/

namespace Sys2Proof

/-- The commands of the block. -/
inductive Instr where
  -- stream instructions: the instruction at the stream's program counter issues
  | nop (c : CoreId) (s : StreamId)
  | halt (c : CoreId) (s : StreamId)
  | event (c : CoreId) (s : StreamId)
  | cset (c : CoreId) (s : StreamId)
  | cinc (c : CoreId) (s : StreamId)
  | cmpset (c : CoreId) (s : StreamId)
  | br (c : CoreId) (s : StreamId)
  | brc (c : CoreId) (s : StreamId)
  | brn (c : CoreId) (s : StreamId)
  | hswitch (c : CoreId) (s : StreamId)
  | twait (c : CoreId) (s : StreamId)
  | twaitGrant (c : CoreId) (s : StreamId)
  | tpost (c : CoreId) (s : StreamId)
  /-- The `i`-th post in flight to core `c` reaches its token unit. -/
  | tokenPost (c : CoreId) (i : Nat)
  | qpush (c : CoreId) (s : StreamId)
  | lctx (c : CoreId) (s : StreamId)
  | matmul (c : CoreId) (s : StreamId)
  | p96Accumulate (c : CoreId)
  | wload (c : CoreId) (s : StreamId)
  | wloadComplete (c : CoreId)
  | wswap (c : CoreId) (s : StreamId)
  | drain (c : CoreId) (s : StreamId)
  | bankTailEnd (c : CoreId)
  | bankDrainEnd (c : CoreId)
  | bfill (c : CoreId) (s : StreamId)
  | bfillComplete (c : CoreId)
  | vfp (c : CoreId) (s : StreamId)
  | vint (c : CoreId) (s : StreamId)
  | vxl (c : CoreId) (s : StreamId)
  | vcvt (c : CoreId) (s : StreamId)
  | nopen (c : CoreId) (s : StreamId)
  | nacc (c : CoreId) (s : StreamId)
  | nsq (c : CoreId) (s : StreamId)
  | ndot (c : CoreId) (s : StreamId)
  | nread (c : CoreId) (s : StreamId)
  | mwadd (c : CoreId) (s : StreamId)
  | mwaddn (c : CoreId) (s : StreamId)
  | mwrite (c : CoreId) (s : StreamId)
  | mread (c : CoreId) (s : StreamId)
  | drop (c : CoreId) (s : StreamId)
  | vld (c : CoreId) (s : StreamId)
  | vst (c : CoreId) (s : StreamId)
  | scratchpadWriteEffect (c : CoreId)
  | vuResultWriteback (c : CoreId)
  | progressWatchdogExpiry (c : CoreId) (s : StreamId)
  | eventCompletionPost (c : CoreId) (s : StreamId)
  | halfLoaded (c : CoreId) (s : StreamId) (half : Bool)
  | launchComplete (src : CmdSrc)
  -- Qanat
  | qanatDescriptorStart (c : CoreId) (ch : Fin 4)
  | qanatReadDone (c : CoreId) (ch : Fin 4)
  | qanatDescriptorRetire (c : CoreId) (ch : Fin 4)
  -- memory
  | patrolScrubRead (k : ScrubClass)
  | scrubPeriodExpiry (k : ScrubClass)
  | fillComplete
  -- Erg links
  | linkFrame (p : Fin 16) (seq : BitVec 12) (check : FrameCheck)
  | linkNak (p : Fin 16) (seq : BitVec 12)
  | linkTrainingComplete (p : Fin 16)
  | retrainBudgetExpiry (p : Fin 16)
  -- Erg packets
  | write (p : Fin 16) (pkt : ErgPacket)
  | read (p : Fin 16) (pkt : ErgPacket)
  | readData (p : Fin 16) (pkt : ErgPacket)
  | status (p : Fin 16) (pkt : ErgPacket)
  | ack (p : Fin 16) (pkt : ErgPacket)
  | quiet (p : Fin 16) (pkt : ErgPacket)
  | bounce (p : Fin 16) (pkt : ErgPacket)
  | ackTimerExpiry (src : BitVec 12) (sid : BitVec 16)
  | resendTimerExpiry (dst : BitVec 12) (sid : BitVec 16) (seq : BitVec 32)
  | nrHoldExpiry (i : Nat)
  | quietToExpiry
  -- reduction engine
  | contribution
  | instanceAdmit (i : InstId)
  | upData (p : Fin 16) (pkt : ErgPacket)
  | upMeta (p : Fin 16) (pkt : ErgPacket)
  | nodeOutput (r : NodeRun)
  | downData (p : Fin 16) (pkt : ErgPacket)
  | downMeta (p : Fin 16) (pkt : ErgPacket)
  | back (p : Fin 16) (pkt : ErgPacket)
  | resendReq (p : Fin 16) (pkt : ErgPacket)
  | redo (p : Fin 16) (pkt : ErgPacket)
  | arriveData (p : Fin 16) (pkt : ErgPacket)
  | arriveMeta (p : Fin 16) (pkt : ErgPacket)
  | bucketTimeout (i : InstId)
  -- host window, queues
  | hostWindowRead (off len : Nat)
  | hostWindowWrite (off : Nat) (bytes : List Byte) (ep : Bool)
  | cmdTailDoorbell (q : Fin 8) (value : Reg)
  | cplHeadDoorbell (q : Fin 8) (value : Reg)
  | commandFetch (q : Fin 8)
  | commandTimeout (src : CmdSrc) (i : Nat)
  | queueEnable (q : Fin 8) (value : Reg)
  | queueDisable (q : Fin 8) (value : Reg)
  -- host commands: the next command of the source starts
  | nopEcho (src : CmdSrc)
  | moduleInfo (src : CmdSrc)
  | memCopy (src : CmdSrc)
  | memFill (src : CmdSrc)
  | pageMap (src : CmdSrc)
  | pageUnmap (src : CmdSrc)
  | pageResident (src : CmdSrc)
  | windowOwn (src : CmdSrc)
  | imemLoad (src : CmdSrc)
  | launch (src : CmdSrc)
  | streamResume (src : CmdSrc)
  | streamResumeDiscardHead (src : CmdSrc)
  | streamResumeDiscardAll (src : CmdSrc)
  | coreHalt (src : CmdSrc)
  | collSetup (src : CmdSrc)
  | exchange (src : CmdSrc)
  | scaleSet (src : CmdSrc)
  | jobOpen (src : CmdSrc)
  | jobClose (src : CmdSrc)
  | teardownToExpiry
  | jobCloseScrubDone
  | modeSet (src : CmdSrc)
  | stepCloseRequest (src : CmdSrc)
  | stepClose (step : BitVec 32)
  | stepCommit (src : CmdSrc)
  | stepAbort (src : CmdSrc)
  | stepAbortFenceClear (src : CmdSrc)
  | checkpoint (src : CmdSrc)
  | restore (src : CmdSrc)
  | rankRemap (src : CmdSrc)
  | routeSwap (src : CmdSrc)
  | diagPatrol (src : CmdSrc)
  | diagPatrolEnd
  | replay (src : CmdSrc)
  | replayDisarm (src : CmdSrc)
  | marginSet (src : CmdSrc)
  | marginRailSettled (die : Fin 4)
  | linkPattern (src : CmdSrc)
  /-- The pattern test ends: bits compared, bit errors, lanes that lost lock. -/
  | linkPatternEnd (bits : BitVec 64) (errors : BitVec 32) (lanes : BitVec 8)
  | computeReset (src : CmdSrc)
  | dumpSample (src : CmdSrc)
  /-- The dump read of word `j` (0 to 127) of bank `b` of core `c` returns nothing within 10 µs. -/
  | dumpAccessTimeout (c : CoreId) (b : Fin 16) (j : Fin 128)
  | attest (src : CmdSrc)
  | fwUpdateStage (src : CmdSrc)
  | fwUpdateChunk (src : CmdSrc)
  | fwUpdateVerify (src : CmdSrc)
  | fwUpdateActivate (src : CmdSrc)
  | fwUpdateBurn (src : CmdSrc)
  | cairnRead (src : CmdSrc)
  | cairnReadStatus (src : CmdSrc)
  -- mailboxes
  | claim (m : Fin 16) (by_ : Agent)
  | go (m : Fin 16) (by_ : Agent)
  | release (m : Fin 16) (by_ : Releaser)
  | code (m : Fin 16) (by_ : Agent) (value : BitVec 16)
  | mailboxDelivery (m : Fin 16)
  -- register writes with a row of their own
  | tokenSet (c : CoreId) (value : Reg)
  | qstepWrite (q : Fin 8) (value : Reg)
  | resetKey (value : Reg)
  | rmcResetKey (value : Byte)
  | lock (value : Reg)
  /-- A `MAIN_ON` write of 1, with the main input in mV and the REFCLK error in ppm (`none`: absent) at that moment. -/
  | mainOn (milliVolts : Nat) (refPpm : Option Nat)
  | orderlyPowerOff
  | mainPowerOffComplete
  | portEn (value : BitVec 16)
  | retrain (p : Fin 16)
  | forceDown (p : Fin 16) (hold : Bool)
  | ergCntClr
  | collCntClr
  | hcCntClr
  | codeClrCounts (s : Fin 20)
  | spClrCounts (c : CoreId)
  | peakClr
  | scrubCtrlWrite (value : Reg)
  | budgetLoRead (c : CoreId) (b : Bool)
  | energyLoRead
  | selLoad (side : Side) (high : Reg)
  | txGo (len : Byte)
  | rxDone
  /-- Any other register write: window, offset, width in bytes, value. -/
  | registerWrite (bar : Bar) (off : Nat) (width : Nat) (value : BitVec 64)
  /-- A private write with the read that follows it; a direct code that has no row takes the same row. -/
  | i3cPrivateWrite (x : I3cTransfer)
  -- I3C common command codes
  | entdaa (addr : BitVec 7)
  | rstdaa
  | enec (mask : Byte)
  | disec (mask : Byte)
  | setmwl (value : BitVec 16)
  | setmrl (value : BitVec 16)
  | getmwl
  | getmrl
  | getpid
  | getbcr
  | getdcr
  | getstatus
  -- power
  | auxPowerOn (straps : BitVec 6)
  | oscStable (straps : BitVec 6)
  | firmwareReady
  | auxLost
  | mainRailsGood
  | memoryTrainingDone
  | startupStepFailed (unit : Nat)
  | inputUndervoltage (milliVolts : Nat)
  | inputOvervoltage (milliVolts : Nat)
  | overCurrent (milliAmps : Nat)
  | refclkLost
  | sensorRead (r : Readings)
  | throttleEvaluation
  | powerFastPath
  | pwrBrakeAssert
  | pwrBrakeRelease
  /-- PERST_N goes low for a pulse of this many ns so far. -/
  | perstNAssert (x : Pulse)
  | perstNHoldExpiry
  | perstNRelease
  | doeDiscovery (index : Byte)
  -- SPDM requests: the transport, whether inside the secure session, and the request's bytes
  /-- GET_VERSION; a request code that Notar does not list takes the same row. -/
  | getVersion (r : SpdmAsk)
  | getCapabilities (t : Transport)
  | negotiateAlgorithms (t : Transport) (req : List Byte)
  | getDigests (t : Transport)
  | getCertificate (t : Transport) (slot off len : Nat)
  | challenge (t : Transport) (slot : Nat) (req : List Byte)
  | getMeasurements (t : Transport) (index : Nat) (req : List Byte)
  | keyExchange (t : Transport) (slot : Nat) (req : List Byte)
  | finish (t : Transport) (req : List Byte)
  | heartbeat (t : Transport)
  | keyUpdate (t : Transport) (op : Byte)
  | endSession (t : Transport)
  | respondIfReady (t : Transport) (token : Byte)
  -- MCTP control messages
  | setEndpointId (eid : Byte)
  | getEndpointId
  | getMctpVersionSupport
  | getMessageTypeSupport
  -- Cairn
  | cairnRecordWrite
  | sealTimerExpiry
  | sealSigned
  | suppressionSecondEnd
  -- the rest of the table
  | matmulFeedEnd (c : CoreId)
  | internalFault (status : BitVec 16) (unit : BitVec 16) (info : List Byte)
  | badPkt (p : Fin 16) (pkt : ErgPacket)
  | hdrUe (p : Fin 16) (syndrome : BitVec 32)
  | railLeavesRegulation
  | endpointReady
  deriving DecidableEq, Repr

end Sys2Proof
end

