-- ==== Sys2Proof/Decode.lean ====
section
/-! DEFINITION. Decoding. The table gives its rows no bits, so no word spells a command (`decodeTableWord`). The words
that instruction memory holds are decoded here, once, by 06 R164 to R203, and encoded by the same tables. -/

namespace Sys2Proof

/-- The command that a word spells by the table's bits: the table gives no row bits. -/
def decodeTableWord (_nbits _w : Nat) : Option Instr := none

/-- Field of `n` bits from bit `lo` up. -/
def fld (w : IWord) (lo n : Nat) : BitVec n := w.extractLsb' lo n

/-- One bit as a Bool. -/
def flag (w : IWord) (i : Nat) : Bool := w.getLsbD i

/-- Words of an instruction by opcode (06 R165); 0 for an opcode not listed. -/
def wordsOf (opc : BitVec 8) : Nat :=
  match opc.toNat with
  | 0x01 => 1 | 0x02 => 1 | 0x03 => 1 | 0x04 => 1 | 0x05 => 1 | 0x06 => 1 | 0x07 => 1 | 0x08 => 1 | 0x09 => 1
  | 0x0A => 1 | 0x0B => 1 | 0x0C => 1 | 0x0D => 2 | 0x0E => 4
  | 0x10 => 1 | 0x11 => 1 | 0x12 => 1 | 0x13 => 1 | 0x14 => 1
  | 0x20 => 1 | 0x21 => 1 | 0x22 => 1 | 0x23 => 2 | 0x24 => 1 | 0x25 => 2 | 0x26 => 2 | 0x27 => 2
  | _ => 0

/-- `LEN` of a word count (06 R164). -/
def lenCode (words : Nat) : BitVec 2 :=
  match words with
  | 1 => 0
  | 2 => 1
  | 4 => 2
  | _ => 3

/-- An address term; none when a reserved bit is set (06 R166). -/
def decodeAddr (w : IWord) : Option AddrTerm :=
  if fld w 61 3 = 0 then
    some { base := fld w 0 21, ca := fld w 21 3, ena := flag w 24, stepA := fld w 25 16,
           cb := fld w 41 3, enb := flag w 44, stepB := fld w 45 16 }
  else none

/-- The first word of a VU instruction (06 R195). -/
def decodeVuHead (w : IWord) : VuHead :=
  { fn := fld w 22 6, vd := fld w 28 5, va := fld w 33 5, vb := fld w 38 5, vc := fld w 43 5, lm := fld w 48 3,
    imm := fld w 51 13 }

/-- VFP functions that exist, and the compare's `VD`[4:3] (06 R197). A compare writes L[`VD`[2:0]], and a write to L0 is
illegal (06 R195). -/
def vfpLegal (h : VuHead) : Bool :=
  let fn := h.fn.toNat
  if fn ≤ 7 then true
  else if fn ≤ 11 then h.vd.toNat / 8 == 0 && h.vd.toNat % 8 != 0
  else fn == 16 || fn == 17 || fn == 18 || fn == 19

/-- VMASK functions and their fields (06 R202): the mask format and the element offset of `IMM`, the reserved bits of word 1;
a mask register destination is not L0 (06 R195). -/
def vmaskLegal (h : VuHead) (w : IWord) : Bool :=
  let fn := h.fn.toNat
  let m := h.imm.toNat % 4
  let off := h.imm.toNat / 4 % 256
  let count := if m = 1 then 256 else if m = 2 then 128 else 64
  m != 0 && off % 64 == 0 && off < count &&
    (if fn = 2 then fld w 32 32 = 0 && h.vd.toNat % 8 != 0
     else if fn ≤ 1 then fld w 61 3 = 0 && (fn != 1 || m != 1 || h.vd.toNat % 8 != 0)
     else false)

/-- VCVT's format fields: the other bits of `VB` and `FN` are reserved, and so is word 1 from bit 34 up (06 R200). -/
def vcvtLegal (h : VuHead) (w : IWord) : Bool :=
  h.vb.toNat / 16 == 0 && h.fn.toNat / 16 == 0 && fld w 34 30 = 0 && fld w 32 2 != 3

/-- The fields of an instruction whose opcode and length are known; `w1` to `w3` are the words after the first. None: a
reserved bit, a reserved value or a field combination that is illegal whatever the state (06 R164, R165, R176). -/
def decodeFields (w w1 w2 w3 : IWord) : Option Insn :=
  match (fld w 0 8).toNat with
  | 0x01 => if fld w 22 42 = 0 then some .nop else none
  | 0x02 => if fld w 22 42 = 0 then some .halt else none
  | 0x03 => if fld w 38 26 = 0 then some (.event (fld w 22 16)) else none
  | 0x04 => if fld w 49 15 = 0 then some (.cset (fld w 22 3) (fld w 25 24)) else none
  | 0x05 => if fld w 49 15 = 0 then some (.cinc (fld w 22 3) (fld w 25 24)) else none
  | 0x06 => if fld w 53 11 = 0 then some (.cmpset (fld w 22 2) (fld w 24 3) (fld w 27 2) (fld w 29 24)) else none
  | 0x07 => if fld w 34 30 = 0 then some (.br (fld w 22 12)) else none
  | 0x08 => if fld w 36 28 = 0 then some (.brc (fld w 22 12) (fld w 34 2)) else none
  | 0x09 => if fld w 36 28 = 0 then some (.brn (fld w 22 12) (fld w 34 2)) else none
  | 0x0A => if fld w 50 14 = 0 then some (.hswitch (fld w 22 12) (fld w 34 16)) else none
  | 0x0B => if fld w 35 29 = 0 ∧ fld w 27 8 ≠ 0 then some (.twait (fld w 22 5) (fld w 27 8)) else none
  | 0x0C =>
    if fld w 44 20 = 0 ∧ fld w 27 8 ≠ 0 ∧ (flag w 35 = true ∨ fld w 36 8 = 0) then
      some (.tpost (fld w 22 5) (fld w 27 8) (flag w 35) (fld w 36 8)) else none
  | 0x0D =>
    if fld w 44 20 = 0 then
      (decodeAddr w1).map fun a => .qpush (fld w 22 2) (fld w 24 3) (flag w 27) (fld w 28 16) a
    else none
  | 0x0E =>
    if fld w 22 42 = 0 then
      some (.lctx { tid := w1, lrow0 := fld w2 0 32, lcol0 := fld w2 32 32, lcols := fld w3 0 32, cr := fld w3 32 3,
                    enr := flag w3 35, stepR := fld w3 36 16, cc := fld w3 52 3, enc := flag w3 55, stepC := fld w3 56 8 })
    else none
  | 0x10 =>
    if flag w 63 = false ∧ (flag w 25 = true ∨ fld w 26 10 = 0) then
      some (.matmul { swap := flag w 22, passes := fld w 23 2, tbSel := flag w 25, tbase := fld w 26 10, cmode := flag w 36,
                      chalf := flag w 37, trans := flag w 38, mm1 := fld w 39 7, row0 := fld w 46 7, desc := fld w 53 10 })
    else none
  | 0x11 => if fld w 35 29 = 0 ∧ fld w 22 2 ≠ 3 then some (.wload (fld w 22 2) (flag w 24) (fld w 25 10)) else none
  | 0x12 => if fld w 22 42 = 0 then some .wswap else none
  | 0x13 =>
    if fld w 54 10 = 0 ∧ fld w 22 2 ≠ 3 then
      some (.drain { round := fld w 22 2, topk := fld w 24 5, tkmode := flag w 29, tkmerge := flag w 30, tokenEn := flag w 31,
                     token := fld w 32 5, rows := fld w 37 7, desc := fld w 44 10 })
    else none
  | 0x14 => if fld w 32 32 = 0 then some (.bfill (fld w 22 10)) else none
  | 0x20 => if vfpLegal (decodeVuHead w) then some (.vfp (decodeVuHead w)) else none
  | 0x21 => if (fld w 22 6).toNat ≤ 13 then some (.vint (decodeVuHead w)) else none
  | 0x22 => if (fld w 22 6).toNat ≤ 2 then some (.vxl (decodeVuHead w)) else none
  | 0x23 =>
    if vcvtLegal (decodeVuHead w) w1 then
      some (.vcvt (decodeVuHead w) { sc := fld w1 0 8, dc := fld w1 8 8, q := fld w1 16 16, round := fld w1 32 2 })
    else none
  | 0x24 => if (fld w 22 6).toNat ≤ 6 then some (.vnacc (decodeVuHead w)) else none
  | 0x25 => if vmaskLegal (decodeVuHead w) w1 then some (.vmask (decodeVuHead w) w1) else none
  | 0x26 =>
    if fld w 38 10 = 0 ∧ fld w 51 13 = 0 then (decodeAddr w1).map fun a => .vld (decodeVuHead w) a else none
  | 0x27 =>
    if fld w 28 5 = 0 ∧ fld w 51 13 = 0 then (decodeAddr w1).map fun a => .vst (decodeVuHead w) a else none
  | _ => none

/-- A decoded instruction: its `GAP`, its length in words and its fields. -/
abbrev Decoded := BitVec 12 × Nat × Insn

/-- The instruction that starts at word index `pc` with word `w` and the three words after it: an `OPC` not listed, a `LEN`
other than the listed one, a start that breaks the alignment of 05 R137, or illegal fields give none. -/
def decodeInsn (pc : Nat) (w w1 w2 w3 : IWord) : Option Decoded :=
  let n := wordsOf (fld w 0 8)
  if n = 0 then none
  else if fld w 8 2 ≠ lenCode n then none
  else if pc % n ≠ 0 then none
  else (decodeFields w w1 w2 w3).map fun i => (fld w 10 12, n, i)

/-- The header's low 22 bits (06 R164). -/
def encodeHeader (gap : BitVec 12) (len : BitVec 2) (opc : BitVec 8) : BitVec 22 := gap ++ len ++ opc

/-- The one-bit vector of a Bool. -/
def bit (b : Bool) : BitVec 1 := BitVec.ofBool b

/-- The word of an address term (06 R166). -/
def encodeAddr (a : AddrTerm) : IWord :=
  (0 : BitVec 3) ++ a.stepB ++ bit a.enb ++ a.cb ++ a.stepA ++ bit a.ena ++ a.ca ++ a.base

/-- Bits [63:22] of a VU instruction's first word (06 R195). -/
def encodeVuHead (h : VuHead) : BitVec 42 := h.imm ++ h.lm ++ h.vc ++ h.vb ++ h.va ++ h.vd ++ h.fn

/-- The words of an instruction with its `GAP` (06 R164 to R203). -/
def encodeInsn (gap : BitVec 12) (i : Insn) : List IWord :=
  match i with
  | .nop => [(0 : BitVec 42) ++ encodeHeader gap 0 0x01]
  | .halt => [(0 : BitVec 42) ++ encodeHeader gap 0 0x02]
  | .event code => [(0 : BitVec 26) ++ code ++ encodeHeader gap 0 0x03]
  | .cset ctr value => [(0 : BitVec 15) ++ value ++ ctr ++ encodeHeader gap 0 0x04]
  | .cinc ctr step => [(0 : BitVec 15) ++ step ++ ctr ++ encodeHeader gap 0 0x05]
  | .cmpset cmp ctr mode limit => [(0 : BitVec 11) ++ limit ++ mode ++ ctr ++ cmp ++ encodeHeader gap 0 0x06]
  | .br target => [(0 : BitVec 30) ++ target ++ encodeHeader gap 0 0x07]
  | .brc target cmp => [(0 : BitVec 28) ++ cmp ++ target ++ encodeHeader gap 0 0x08]
  | .brn target cmp => [(0 : BitVec 28) ++ cmp ++ target ++ encodeHeader gap 0 0x09]
  | .hswitch target tag => [(0 : BitVec 14) ++ tag ++ target ++ encodeHeader gap 0 0x0A]
  | .twait token count => [(0 : BitVec 29) ++ count ++ token ++ encodeHeader gap 0 0x0B]
  | .tpost token count remote core =>
    [(0 : BitVec 20) ++ core ++ bit remote ++ count ++ token ++ encodeHeader gap 0 0x0C]
  | .qpush ch cadj adjen adjstep addr =>
    [(0 : BitVec 20) ++ adjstep ++ bit adjen ++ cadj ++ ch ++ encodeHeader gap 1 0x0D, encodeAddr addr]
  | .lctx c =>
    [(0 : BitVec 42) ++ encodeHeader gap 2 0x0E, c.tid, c.lcol0 ++ c.lrow0,
     c.stepC ++ bit c.enc ++ c.cc ++ c.stepR ++ bit c.enr ++ c.cr ++ c.lcols]
  | .matmul m =>
    [(0 : BitVec 1) ++ m.desc ++ m.row0 ++ m.mm1 ++ bit m.trans ++ bit m.chalf ++ bit m.cmode ++ m.tbase ++ bit m.tbSel
      ++ m.passes ++ bit m.swap ++ encodeHeader gap 0 0x10]
  | .wload plane tr desc => [(0 : BitVec 29) ++ desc ++ bit tr ++ plane ++ encodeHeader gap 0 0x11]
  | .wswap => [(0 : BitVec 42) ++ encodeHeader gap 0 0x12]
  | .drain d =>
    [(0 : BitVec 10) ++ d.desc ++ d.rows ++ d.token ++ bit d.tokenEn ++ bit d.tkmerge ++ bit d.tkmode ++ d.topk ++ d.round
      ++ encodeHeader gap 0 0x13]
  | .bfill desc => [(0 : BitVec 32) ++ desc ++ encodeHeader gap 0 0x14]
  | .vfp h => [encodeVuHead h ++ encodeHeader gap 0 0x20]
  | .vint h => [encodeVuHead h ++ encodeHeader gap 0 0x21]
  | .vxl h => [encodeVuHead h ++ encodeHeader gap 0 0x22]
  | .vcvt h w => [encodeVuHead h ++ encodeHeader gap 1 0x23, (0 : BitVec 30) ++ w.round ++ w.q ++ w.dc ++ w.sc]
  | .vnacc h => [encodeVuHead h ++ encodeHeader gap 0 0x24]
  | .vmask h w => [encodeVuHead h ++ encodeHeader gap 1 0x25, w]
  | .vld h a => [encodeVuHead h ++ encodeHeader gap 1 0x26, encodeAddr a]
  | .vst h a => [encodeVuHead h ++ encodeHeader gap 1 0x27, encodeAddr a]

/-- Well-formed instruction fields: the combinations that 06 R165, R176, R184, R195 to R203 allow whatever the state. -/
def insnWf (i : Insn) : Bool :=
  match i with
  | .twait _ count => count != 0
  | .tpost _ count remote core => count != 0 && (remote || core == 0)
  | .matmul m => m.tbSel || m.tbase == 0
  | .wload plane _ _ => plane != 3
  | .drain d => d.round != 3
  | .vfp h => vfpLegal h
  | .vint h => h.fn.toNat ≤ 13
  | .vxl h => h.fn.toNat ≤ 2
  | .vcvt h w => h.vb.toNat / 16 == 0 && h.fn.toNat / 16 == 0 && w.round != 3
  | .vnacc h => h.fn.toNat ≤ 6
  | .vmask h w => vmaskLegal h w
  | .vld h _ => h.vb == 0 && h.vc == 0 && h.imm == 0
  | .vst h _ => h.vd == 0 && h.imm == 0
  | _ => true

/-- Words of an instruction. -/
def insnWords (i : Insn) : Nat :=
  match i with
  | .lctx _ => 4
  | .qpush .. | .vcvt .. | .vmask .. | .vld .. | .vst .. => 2
  | _ => 1

end Sys2Proof
end

