-- ==== Sys2Proof/Config.lean ====
section
/-! DEFINITION. What an implementation fixes and the values the spec leaves open. Every opaque constant here is a FREE
VALUE: nothing in Lean can evaluate it, and a statement about it holds whatever it is. -/

namespace Sys2Proof.Config

/-- Physical cores of the module (00 R4, 04 R90). -/
def cores : Nat := 224

/-- Free bits, one for each number drawn: the old or new word of a read inside a write window (04 R119, R120), a PERST_N
pulse of 1 to 2 µs taken or ignored (17 R506). -/
opaque freeBit : Nat → Bool

/-- Which admissible result a VU function returns: RCP, RSQRT, EXP2 and LOG2 are fixed functions within 1 unit in the last
place (04 R125), so the choice depends on the function code and the operand alone. -/
opaque vuChoice : Nat → BitVec 32 → Nat

/-- Whether a collective carries the scale observations of 07 R224: the spec gives its results to the scale controller and does not
say which collective id it has (log 32). -/
opaque observes : Nat → Bool

/-- Free 64-bit values by place and number: what a value is that the spec does not state. -/
opaque freeValue : Nat → Nat → Nat

/-- SHA-384 over bytes (16 R472). The spec names the function and does not write it out. -/
opaque sha384 : List Byte → BitVec 384

/-- HMAC-SHA-384 of a key and a message (16 R472). -/
opaque hmac384 : BitVec 384 → BitVec 384 → BitVec 384

/-- HKDF-SHA-384 to 56 bytes, of a compound device identifier and a layer number (16 R472). -/
opaque hkdf384 : BitVec 384 → Nat → Nat

/-- The order of the P-384 group (16 R472). -/
opaque orderP384 : Nat

/-- The unique device secret (16 R471). -/
opaque uds : BitVec 384

/-- The Notar ROM's digest, M₀ (16 R472). -/
opaque romDigest : BitVec 384

/-- ECDSA P-384 signature (r then s) of a digest by a private key; the last argument is the drawn nonce's number (16 R472). -/
opaque ecdsaSign : Nat → BitVec 384 → Nat → BitVec 768

/-- The public key (x then y) of a private key (16 R473). -/
opaque publicKey : Nat → BitVec 768

/-- Whether an ECDSA P-384 signature over a digest verifies with a public key (16 R476). -/
opaque ecdsaVerify : BitVec 768 → BitVec 384 → BitVec 768 → Bool

/-- The fused key hash of a signing key slot (16 R476). -/
opaque keyHash : Nat → BitVec 384

/-- Whether a signing key slot is revoked by fuse (16 R476). -/
opaque keyRevoked : Nat → Bool

/-- The images that a module is shipped with, by kind, 32 bytes to a word (17 R512). -/
opaque shippedImage : Nat → Sparse Data

/-- The measured digests of the shipped images (16 R472). -/
opaque shippedDigest : Nat → BitVec 384

/-- The private keys of the Iluannis Root CA and of the Iluannis Device CA, which sign the stored certificates (16 R473). -/
opaque rootCaKey : Nat
opaque deviceCaKey : Nat

/-- The own serial numbers of the stored certificates, 0 the Device CA's, 1 the IDevID's, and the Device CA's validity "as issued"
(16 R473). -/
opaque issuedSerial : Nat → BitVec 128
opaque caValidity : List Byte × List Byte

/-- The TCG DICE TcbInfo extension of an alias certificate: vendor, model, layer, SVN and FWID (16 R473). -/
structure TcbInfo where
  vendor : List Byte
  model  : List Byte
  layer  : Nat
  svn    : Byte
  fwid   : BitVec 384
  deriving DecidableEq, Repr

/-- What a certificate says (16 R473): subject and issuer names, its own serial number, the subject's public key, the path length
of its basic constraints (none: not a CA), its validity, and the TcbInfo extension of an alias certificate. -/
structure CertInfo where
  subject   : List Byte
  issuer    : List Byte
  serial    : BitVec 128
  key       : BitVec 768
  pathLen   : Option Nat
  notBefore : List Byte
  notAfter  : List Byte
  tcb       : Option TcbInfo
  deriving DecidableEq, Repr

/-- An X.509 v3 certificate of a content, signed by a private key with ECDSA P-384 over SHA-384 (16 R473; the encoding is X.509's). -/
opaque x509 : CertInfo → Nat → List Byte

/-- The time of manufacture as the IDevID certificate gives it (16 R473). -/
opaque manufactured : List Byte

/-- The digest of the Iluannis Root CA certificate, which SPDM carries (16 R473). -/
opaque rootDigest : BitVec 384

/-- A secured message: the plain bytes, the session's number and its key updates (16 R481; the cipher is SPDM's). -/
opaque secured : List Byte → Nat → Nat → List Byte

/-- The rest of an SPDM response's body beside what the model states: the request code, the request's bytes, a number (16 R482:
the message layouts are those of the SPDM specification, which the spec names). -/
opaque spdmBody : Nat → List Byte → Nat → List Byte

/-- Whether an SPDM request's algorithms hold those of R482 (the layout is the SPDM specification's). -/
opaque spdmOffersAlgorithms : List Byte → Bool

/-- Whether a test item of a patrol package fails (14 R440): the package's image, the physical core, its clock setting and voltage steps,
the item, a number drawn for the run. -/
opaque patrolFails : Sparse Data → Nat → Nat × Nat → Nat → Nat → Bool

/-- The test items of a patrol package image (14 R439). -/
opaque patrolItems : Sparse Data → List Nat

end Sys2Proof.Config
end

