-- ==== Sys2Proof/Machine/Sparse.lean ====
section
/-! DEFINITION. Sparse tables: reading, writing, and the canonical form (keys strictly rising, no entry equal to the
default). -/

namespace Sys2Proof.Machine

/-- The value under a key; the default where the key is not listed. -/
def spGet {α : Type} (d : α) (l : Sparse α) (k : Nat) : α :=
  match l with
  | [] => d
  | (k', v) :: r => if k' = k then v else spGet d r k

/-- The table with a value written under a key, in canonical form again: writing the default removes the entry. -/
def spSet {α : Type} [DecidableEq α] (d : α) (l : Sparse α) (k : Nat) (v : α) : Sparse α :=
  match l with
  | [] => if v = d then [] else [(k, v)]
  | (k', v') :: r =>
    if k' < k then (k', v') :: spSet d r k v
    else if k' = k then (if v = d then r else (k, v) :: r)
    else if v = d then (k', v') :: r else (k, v) :: (k', v') :: r

/-- Every listed key is above `lo`, keys rise strictly, and no entry equals the default. -/
def spAbove {α : Type} [DecidableEq α] (d : α) (lo : Nat) (l : Sparse α) : Bool :=
  match l with
  | [] => true
  | (k, v) :: r => decide (lo ≤ k) && decide (v ≠ d) && spAbove d (k + 1) r

/-- The canonical form. -/
def spWf {α : Type} [DecidableEq α] (d : α) (l : Sparse α) : Bool := spAbove d 0 l

/-- The table with the value under a key changed. -/
def spMod {α : Type} [DecidableEq α] (d : α) (l : Sparse α) (k : Nat) (f : α → α) : Sparse α := spSet d l k (f (spGet d l k))

/-- Entries whose keys are not in the range from `lo` up, `n` keys long: what is left when a range is set to the default. -/
def spDrop {α : Type} (l : Sparse α) (lo n : Nat) : Sparse α := l.filter fun e => e.1 < lo || lo + n ≤ e.1

end Sys2Proof.Machine
end

