-- ==== Sys2Proof/Machine/AonState.lean ====
section
/-! DEFINITION. The state of the always-on domain and of the management island: power, clocks and the I3C target (15), Notar, the
firmware store, SPDM and MCTP, and Cairn (16). Plain data. -/

namespace Sys2Proof.Machine

/-- Where the module stands between AUX off and main power on (15 R456, R458, R462). -/
inductive PowerStage where
  /-- AUX is off. -/
  | auxOff
  /-- AUX is within range; the oscillator is not yet stable. -/
  | auxRising
  /-- PD1 comes up; Notar verifies the management firmware. -/
  | island
  /-- The island waits for the RMC with main power off. -/
  | standby
  /-- Main power comes up: rails. -/
  | rails
  /-- `STATE` 0x1: links and memories train. -/
  | training
  /-- `STATE` 0x1: the fill of 09 R272 runs. -/
  | filling
  /-- Main power on, the cores released. -/
  | on
  /-- Main power goes off. -/
  | goingOff
  deriving DecidableEq, Repr

/-- The PCIe endpoint (15 R457). -/
inductive Endpoint where
  /-- Held by PERST_N, or without power. -/
  | held
  /-- Training, or answering with Request Retry Status. -/
  | starting
  | ready
  deriving DecidableEq, Repr

/-- Power, clocks, thermal registers, the I3C target and the pins (15 R453, R470, 17 R497). -/
structure Power where
  stage    : PowerStage
  /-- Main power comes up for the first time since it was off; otherwise a module reset runs (15 R461). -/
  comingUp : Bool
  /-- Cause that the running power-off will report (15 R463). -/
  offReason : BitVec 4
  endpoint : Endpoint
  /-- Memory Space and Bus Master of the PCIe configuration space (15 R459). -/
  memSpace : Bool
  busMaster : Bool
  /-- PERST_N is low; the filter has taken the low (17 R505, R506). -/
  perstLow : Bool
  perstTaken : Bool
  pwrGood  : Bool
  thermTripN : Bool
  auxGood  : Bool
  mainGood : Bool
  refclkOk : Bool
  refSrc   : Bool
  /-- The reference is being switched: the clocks of the management island stand still (15 R447). -/
  clocksStopped : Bool
  pllLock  : BitVec 7
  brake    : Bool
  pdOn     : BitVec 20
  vin      : BitVec 16
  pin      : BitVec 16
  vaux     : BitVec 16
  paux     : BitVec 16
  hostLimit : BitVec 12
  /-- The effective limit in force: that of the last evaluation (15 R467, R469). -/
  effLimit : BitVec 12
  energy   : BitVec 64
  energyHi : BitVec 32
  temp     : Vector (BitVec 12) 12
  peak     : Vector (BitVec 12) 12
  /-- The source's last reading was at or above its trip temperature (15 R465). -/
  nearTrip : Vector Bool 12
  /-- Sources whose present trip has been recorded (16 R492). -/
  tripped : Vector Bool 12
  /-- Sources within 5 °C of their trip temperature at the last reading. -/
  warned   : Vector Bool 12
  /-- Input power was above the effective limit at the last reading. -/
  overLimit : Bool
  level    : Vector (BitVec 3) 4
  /-- Evaluations in a row at which the release condition of 15 R467 held, by die. -/
  calm     : Vector Nat 4
  byTemp   : Bool
  byPower  : Bool
  byBrake  : Bool
  throttleMs : BitVec 32
  pmEvent  : BitVec 6
  pmEventEn : BitVec 6
  -- I3C
  i3cOn    : Bool
  ibiOn    : Bool
  hotJoinOn : Bool
  dynAddr  : BitVec 7
  mwl      : BitVec 16
  mrl      : BitVec 16
  i3cErr   : BitVec 16
  i3cOffset : BitVec 16
  slot     : BitVec 6
  rack     : BitVec 6
  hall     : BitVec 8
  mainOn   : Bool
  slotStrap : BitVec 6
  coordErr : Bool
  mainErr  : Bool
  resetIgn : Bool
  offCause : BitVec 4
  rmcLimit : BitVec 12
  deriving DecidableEq, Repr

/-- States of a firmware slot (16 R474). -/
inductive SlotState where
  | empty | written | verified
  deriving DecidableEq, Repr

/-- A firmware slot: its state and its bytes, 32 to a word (16 R474). -/
structure FwSlot where
  state : SlotState
  words : Sparse Data
  deriving DecidableEq, Repr

/-- Connection states of an SPDM transport (16 R481, R482). -/
inductive SpdmPhase where
  | idle | versioned | capable | negotiated
  deriving DecidableEq, Repr

/-- Session states of an SPDM transport (16 R481). -/
inductive SpdmSession where
  | none | handshake | established
  deriving DecidableEq, Repr

/-- One SPDM transport. -/
structure SpdmConn where
  phase   : SpdmPhase
  session : SpdmSession
  /-- Sessions opened so far on the transport (the number of the present one). -/
  opened  : Nat
  /-- Key updates done in the session. -/
  keys    : Nat
  /-- A delayed response, with its token (16 R482). -/
  delayed : Option (Byte × List Byte)
  deriving DecidableEq, Repr

/-- Notar: firmware store, measurements, keys' existence, SPDM and MCTP (16 R471 to R485). -/
structure Notar where
  udsLocked : Bool
  /-- Slots by bank × 4 + kind; bank 0 A, bank 1 B. -/
  slots   : Sparse FwSlot
  /-- Active bank of kinds 1 to 3: false bank A. -/
  active1 : Bool
  active2 : Bool
  active3 : Bool
  /-- Fused security versions. -/
  svn1    : BitVec 6
  svn2    : BitVec 6
  svn3    : BitVec 6
  /-- Measured digests M₁ and M₂, while their layers exist (16 R472). -/
  m1      : Option (BitVec 384)
  m2      : Option (BitVec 384)
  /-- `SVN` of the images that were measured (16 R473). -/
  svnM1   : Byte
  svnM2   : Byte
  /-- A verified patrol package is loaded (16 R477). -/
  patrolOk : Bool
  /-- The management firmware runs; otherwise, once the island is up, Notar serves the recovery set (16 R477). -/
  fwRuns  : Bool
  /-- Nonces drawn for signatures so far (the model's own). -/
  nonces  : Nat
  doe     : SpdmConn
  mctp    : SpdmConn
  eid     : Byte
  tx      : Vector Reg 17
  txBusy  : Bool
  rx      : Vector Reg 17
  rxReady : Bool
  rxLen   : Byte
  /-- Packets that wait for RX (16 R484). -/
  rxWaiting : List (List Byte)
  deriving DecidableEq, Repr

/-- A submission to Cairn (16 R487, R488). -/
structure CairnEntry where
  type   : BitVec 16
  origin : Byte
  payload : List Byte
  deriving DecidableEq, Repr

/-- A seal whose signature is being made: bytes 0 to 159 of its record (16 R490). -/
structure Sealing where
  body : BitVec 1280
  deriving DecidableEq, Repr

/-- A reader's window on the record store (16 R493). -/
structure CairnSel where
  sel    : BitVec 64
  valid  : Bool
  record : BitVec 2048
  deriving DecidableEq, Repr

/-- Cairn (16 R486 to R494). -/
structure Cairn where
  slots   : Sparse (Option (BitVec 2048))
  next    : BitVec 64
  sealed_ : BitVec 64
  lost    : BitVec 16
  queue   : List CairnEntry
  /-- Records of each type written in the present second of `TIME`, and submissions not written (16 R489). -/
  second  : Sparse Nat
  suppressed : Sparse Nat
  /-- Records since the last seal, and the serial of the first of them. -/
  unsealed : Nat
  firstUnsealed : BitVec 64
  sealing : Option Sealing
  boot    : BitVec 32
  /-- µs since this AUX power-on. -/
  time    : BitVec 64
  host    : CairnSel
  rmc     : CairnSel
  deriving DecidableEq, Repr

/-- Power after reset: the registers at their Reset columns (15 R453, R470). DESIGN CHOICE (log 7): the stage is main power coming
up, PERST_N is held low, the endpoint is held, and the straps are open (17 R504). DESIGN CHOICE (log 8): interrupts and Hot-Join
are enabled, the maximum lengths are 0. -/
def Power.reset : Power :=
  { stage := .rails, comingUp := true, offReason := 0, endpoint := .held, memSpace := false, busMaster := false, perstLow := true, perstTaken := true, pwrGood := false,
    thermTripN := true, auxGood := true, mainGood := false, refclkOk := false, refSrc := false, clocksStopped := false, pllLock := 0, brake := false,
    pdOn := 0x3, vin := 0, pin := 0, vaux := 0, paux := 0, hostLimit := 2200, effLimit := 2200, energy := 0, energyHi := 0,
    temp := Vector.replicate 12 0, peak := Vector.replicate 12 0, nearTrip := Vector.replicate 12 false, tripped := Vector.replicate 12 false,
    warned := Vector.replicate 12 false, overLimit := false, level := Vector.replicate 4 0, calm := Vector.replicate 4 0,
    byTemp := false, byPower := false, byBrake := false, throttleMs := 0, pmEvent := 0, pmEventEn := 0, i3cOn := true,
    ibiOn := true, hotJoinOn := true, dynAddr := 0, mwl := 0, mrl := 0, i3cErr := 0, i3cOffset := 0, slot := 0, rack := 0,
    hall := 0, mainOn := false, slotStrap := 0x3F, coordErr := false, mainErr := false, resetIgn := false, offCause := 0,
    rmcLimit := 2200 }

/-- An SPDM transport after reset (16 R481). -/
def SpdmConn.reset : SpdmConn := { phase := .idle, session := .none, opened := 0, keys := 0, delayed := none }

/-- An empty firmware slot (16 R474). -/
def FwSlot.reset : FwSlot := { state := .empty, words := [] }

/-- Notar after reset (16 R471, R472, R484, 17 R512). DESIGN CHOICE (log 9): the images as shipped are free values; fused security
versions 0. -/
def Notar.reset : Notar :=
  { udsLocked := true,
    slots := [(1, { state := .verified, words := Config.shippedImage 1 }), (2, { state := .verified, words := Config.shippedImage 2 })],
    active1 := false, active2 := false, active3 := false, svn1 := 0, svn2 := 0, svn3 := 0, m1 := some (Config.shippedDigest 1),
    m2 := none, svnM1 := (spGet 0 (Config.shippedImage 1) 0).extractLsb' 96 8, svnM2 := 0, patrolOk := false, fwRuns := true, nonces := 0,
    doe := SpdmConn.reset, mctp := SpdmConn.reset, eid := 0,
    tx := Vector.replicate 17 0, txBusy := false, rx := Vector.replicate 17 0, rxReady := false, rxLen := 0, rxWaiting := [] }

/-- Cairn after reset (16 R493). DESIGN CHOICE (log 10): the stored values are those of a store that holds no record. -/
def Cairn.reset : Cairn :=
  { slots := [], next := 0, sealed_ := 0, lost := 0, queue := [], second := [], suppressed := [], unsealed := 0,
    firstUnsealed := 0, sealing := none, boot := 0, time := 0, host := { sel := 0, valid := false, record := 0 },
    rmc := { sel := 0, valid := false, record := 0 } }

end Sys2Proof.Machine
end

