-- ==== Sys2Proof/Machine/CoreState.lean ====
section
/-! DEFINITION. The state of one core: its streams, token unit, accumulator banks, weight tiles, Barchan, scratchpad, vector
unit and Qanat channels (04, 05, 06, 08), with the work its engines have in hand. Plain data. -/

namespace Sys2Proof.Machine

/-- A delivered word: its data and its poison mark (09 R263, R276). -/
structure RWord where
  data   : Data
  poison : Bool
  deriving DecidableEq, Repr

/-- State of a stream (05 R134). -/
inductive StreamState where
  | idle | running | waiting | halted
  deriving DecidableEq, Repr

/-- State of an instruction memory half (05 R141). -/
inductive HalfState where
  | empty | loading | loaded
  deriving DecidableEq, Repr

/-- An instruction memory half: lines of 4 instruction words (05 R137, R141, R144). -/
structure Half where
  state : HalfState
  tag   : BitVec 16
  lines : Sparse CodeWord
  deriving DecidableEq, Repr

/-- A comparator (05 R146). -/
structure Cmp where
  limit   : BitVec 24
  counter : BitVec 3
  mode    : BitVec 2
  deriving DecidableEq, Repr

/-- A stream's mask buffer while it holds a word: the word's index, the mask format, the elements entered (06 R202). -/
structure MaskBuf where
  word   : Nat
  fmt    : BitVec 2
  data   : Data
  filled : BitVec 256
  poison : Bool
  deriving DecidableEq, Repr

/-- A logical context with its counter terms evaluated (06 R173). -/
structure EvalCtx where
  l     : BitVec 32
  k     : BitVec 32
  lcols : BitVec 32
  tid   : BitVec 64
  deriving DecidableEq, Repr

/-- One stream of a core (05 R134, R162). -/
structure Stream where
  state     : StreamState
  half      : Bool
  pc        : BitVec 12
  haltCause : Byte
  waitToken : BitVec 5
  /-- Count n of the TWAIT waited at, its `GAP`, and the cycle from which the watchdog counts (05 R150, R159). -/
  waitCount : BitVec 8
  waitGap   : BitVec 12
  waitFrom  : Nat
  /-- Array cycle in which the next instruction issues (05 R136). -/
  nextIssue : Nat
  flags     : Byte
  wdogLimit : BitVec 24
  wdogCount : BitVec 24
  /-- Event queue: each code with the LAUNCH under which it was issued (05 R160). -/
  events    : List (BitVec 16 × Option Nat)
  lastCode  : BitVec 16
  lost      : Byte
  h0        : Half
  h1        : Half
  counters  : Vector (BitVec 24) 8
  cmps      : Vector Cmp 4
  ctx       : LogicalCtx
  maskBuf   : Option MaskBuf
  /-- EVENT codes 0x8000 to 0xFFFF issued since the LAUNCH, saturating (13 R400). -/
  nwatch    : BitVec 16
  /-- Step in force for the stream (13 R396) and the launch that started it. -/
  step      : BitVec 32
  launch    : Option Nat
  deriving DecidableEq, Repr

/-- A post on its way to visibility (05 R148). -/
structure TokenPost where
  due   : Nat
  token : BitVec 5
  count : BitVec 8
  deriving DecidableEq, Repr

/-- A vector register: lane i in bits [32i + 31 : 32i], one poison bit per word of 8 lanes (06 R195, 09 R276). -/
structure VReg where
  data   : BitVec 2048
  poison : BitVec 8
  deriving DecidableEq, Repr

/-- An N256 accumulator (02 R45, 04 R133). -/
structure NAcc where
  value  : BitVec 256
  exp    : BitVec 12
  flags  : Byte
  poison : Bool
  deriving DecidableEq, Repr

/-- What a VU instruction writes when its latency has passed (06 R196). -/
inductive VuWrite where
  /-- Lanes of a register named by the mask; the poison bits of the words named. -/
  | reg (r : BitVec 5) (lanes : BitVec 64) (data : BitVec 2048) (words : BitVec 8) (poison : BitVec 8)
  /-- Bits of a lane mask register named by the mask. -/
  | lane (r : BitVec 3) (lanes : BitVec 64) (bits : BitVec 64)
  /-- 16-bit halves of a register's lanes named by the mask, half i at bits [16i + 15 : 16i]; the poison bits of the words named:
  MWADD's ext values (06 R200, R201). -/
  | halves (r : BitVec 5) (mask : BitVec 128) (data : BitVec 2048) (poison : BitVec 8)
  /-- An accumulator is opened with base exponent `e`. -/
  | nopen (a : BitVec 3) (e : BitVec 12)
  /-- Terms are added to an accumulator: each is a sign, a magnitude and an exponent; flags and poison come with them. -/
  | nadd (a : BitVec 3) (terms : List (Bool × Nat × Int)) (flags : Byte) (poison : Bool)
  deriving DecidableEq, Repr

/-- A VU result not yet in place. -/
structure VuPending where
  due    : Nat
  stream : StreamId
  what   : VuWrite
  deriving DecidableEq, Repr

/-- A row of 128 weight codes, or of 128 fine-scale bytes, with its poison mark (04 R96, R106). -/
structure WRow where
  data   : BitVec 1024
  poison : Bool
  deriving DecidableEq, Repr

/-- A weight tile: format, coarse scale, stored rows by K position (for B16 the high and the low plane), fine-scale rows by
block, and the planes written since the previous swap (06 R183, R184). -/
structure WTile where
  fmt     : BitVec 4
  coarse  : Byte
  hi      : Sparse WRow
  lo      : Sparse WRow
  scales  : Sparse WRow
  planes  : BitVec 2
  deriving DecidableEq, Repr

/-- A Barchan slab: shape, format, coarse scale, its words, its square-scale bytes, and its poison (06 R187, R188). -/
structure Slab where
  shape   : BitVec 2
  fmt     : BitVec 4
  coarse  : Byte
  words   : Sparse CodeWord
  squares : BitVec 512
  sqPoison : Bool
  deriving DecidableEq, Repr

/-- Bank states (04 R100). -/
inductive BankState where
  | cleared | filling | tail | reading
  deriving DecidableEq, Repr

/-- An accumulator bank: entry (m, j) under key m × 256 + j, a compact entry in the low 64 bits; tile status; row exponents
and row event numbers by row (04 R100 to R105, R133, 03 R82, R83). -/
structure Bank where
  entries : Sparse (BitVec 128)
  tbase   : BitVec 10
  flags   : Byte
  state   : BankState
  compact : Bool
  poison  : Bool
  owner   : Bool
  budget  : BitVec 41
  rowExp  : Sparse (BitVec 10)
  rowEv   : Sparse Nat
  deriving DecidableEq, Repr

/-- Which instruction an engine works for: its stream, half and program counter (05 R157, R161). -/
structure Who where
  stream : StreamId
  half   : Bool
  pc     : BitVec 12
  deriving DecidableEq, Repr

/-- One pass of a feed: which part of A (0 whole, 1 high, 2 low) and of B, and its coarse scale sum beside c_A + c_B. -/
structure PassPart where
  a  : Nat
  b  : Nat
  up : Nat
  deriving DecidableEq, Repr

/-- A feed in progress (04 R93, R95, 06 R180). -/
structure Feed where
  who     : Who
  start   : Nat
  beat    : Nat
  bank    : Bool
  m       : Nat
  row0    : Nat
  parts   : List PassPart
  beats   : Nat
  fmt     : BitVec 4
  ca      : Byte
  cb      : Byte
  pri     : Nat
  sec     : Nat
  pitch   : Nat
  spitch  : Nat
  sq      : Bool
  slab    : Option Slab
  compact : Bool
  chalf   : Bool
  ctx     : EvalCtx
  step    : BitVec 32
  /-- Words and scale bytes of the row in hand, and the tile each of its beats met. -/
  words   : List RWord
  scales  : List (Byte × Bool)
  tiles   : List WTile
  deriving DecidableEq, Repr

/-- A row's column partials on their way to the filling bank (04 R93). -/
structure RowFlight where
  due     : Nat
  stream  : StreamId
  bank    : Bool
  row     : Nat
  compact : Bool
  chalf   : Bool
  /-- Base exponent e of the pass (03 R71). -/
  e       : Int
  /-- First row of its pass: it carries the pass's budget (03 R74, R75). -/
  first   : Bool
  cells   : List Int
  flags   : Byte
  poison  : Bool
  ctx     : EvalCtx
  step    : BitVec 32
  deriving DecidableEq, Repr

/-- A weight load in progress (04 R96). -/
structure WLoad where
  who    : Who
  start  : Nat
  row    : Nat
  plane  : BitVec 2
  fmt    : BitVec 4
  pri    : Nat
  sec    : Nat
  pitch  : Nat
  spitch : Nat
  sq     : Bool
  slab   : Option Slab
  deriving DecidableEq, Repr

/-- A Barchan fill in progress, with the slab as filled so far (04 R113, 06 R187). -/
structure BFill where
  who    : Who
  start  : Nat
  cyc    : Nat
  pri    : Nat
  sec    : Nat
  pitch  : Nat
  spitch : Nat
  slab   : Slab
  deriving DecidableEq, Repr

/-- A drain in its tail or its read (04 R101, R102, 06 R189, R190). -/
structure DrainJob where
  who    : Who
  start  : Nat
  bank   : Bool
  f      : DrainF
  fmt    : BitVec 4
  coarse : Byte
  sq     : Bool
  pitch  : Nat
  spitch : Nat
  pri    : Nat
  sec    : Nat
  q      : BitVec 16
  nbase  : BitVec 32
  ctx    : EvalCtx
  step   : BitVec 32
  /-- Partial fingerprint of the rows written so far, and whether a word carries poison (14 R427). -/
  fp     : Nat
  fpPoison : Bool
  deriving DecidableEq, Repr

/-- A scratchpad write of a word: the bytes named by the mask, or the poison code word. With a mask that leaves a byte out it is
a narrow write (04 R120), poisoned or not. -/
structure WriteReq where
  word   : Nat
  data   : Data
  mask   : BitVec 32
  poison : Bool
  deriving DecidableEq, Repr

/-- A write issued and not yet in effect (04 R119, R120). -/
structure PendingWrite where
  issued : Nat
  due    : Nat
  stream : StreamId
  req    : WriteReq
  deriving DecidableEq, Repr

/-- A Qanat descriptor's two words with what QPUSH adds: the adjustment in bytes, the pushing stream and its context, and the first
cycle in which a write of its may take effect (06 R178, 08 R242, R244). -/
structure QDesc where
  w0     : CodeWord
  w1     : CodeWord
  adjust : Option Int
  stream : StreamId
  step   : BitVec 32
  launch : Option Nat
  ctx    : EvalCtx
  earliest : Nat
  deriving DecidableEq, Repr

/-- What a group of static accesses is for. -/
inductive AccessAct where
  /-- Writes only (VST, drain rows, mask words). -/
  | none
  | vld (due : Nat) (vd : BitVec 5) (lanes : BitVec 64)
  | mread (due : Nat) (vd : BitVec 5) (fmt : BitVec 2) (off : Nat) (lanes : BitVec 64)
  | qpush (ch : BitVec 2) (adjust : Option Int) (ctx : EvalCtx) (step : BitVec 32) (launch : Option Nat)
  | feed
  | wload
  | bfill
  /-- A drain row's top-k list: row, with the prior list read (04 R112). -/
  | topk (row : Nat)
  deriving DecidableEq, Repr

/-- A group of static accesses of one cycle: words read, words read for fine-scale bytes, words written. -/
structure Access where
  cycle  : Nat
  who    : Who
  reads  : List Nat
  scales : List Nat
  writes : List WriteReq
  /-- Writes of fine-scale bytes. -/
  scaleW : List WriteReq
  act    : AccessAct
  deriving DecidableEq, Repr

/-- A descriptor on its way into a channel queue (06 R178). -/
structure QEntry where
  due  : Nat
  ch   : BitVec 2
  desc : QDesc
  deriving DecidableEq, Repr

/-- Channel states (08 R229). -/
inductive ChanState where
  | idle | active | paged | fault
  deriving DecidableEq, Repr

/-- Progress of the descriptor at the head of a channel's queue. -/
inductive HeadPhase where
  /-- Not started since it reached the head. -/
  | waiting
  /-- Started; its reads have not all returned. -/
  | reading
  /-- All reads have returned; writes are outstanding. -/
  | writing
  deriving DecidableEq, Repr

/-- A Qanat channel (08 R229, R260). -/
structure Channel where
  queue   : List QDesc
  state   : ChanState
  phase   : HeadPhase
  lastStatus : BitVec 16
  flags   : Byte
  posI1   : BitVec 12
  posI2   : BitVec 12
  posI3   : BitVec 12
  page    : BitVec 64
  retired : BitVec 32
  poisonWords : BitVec 16
  /-- Row from which the head moves: the saved position (08 R251), and its flags so far (R243). -/
  moved   : Nat
  headFlags : Byte
  /-- Accesses still out for the head: number, row; and data that Erg reads have returned: byte address, word. -/
  waitingOn : List (Nat × Nat)
  fetched : List (Nat × RWord)
  /-- Refusals of the head's accesses, oldest first: the row concerned, the status, the refused address (08 R251, R257). -/
  refused : List (Nat × BitVec 16 × BitVec 64)
  /-- Fingerprint sums of the rows written, by row (14 R427), and buckets contributed (11 R322) with the words at the exchange port of
  the next one, not yet whole (08 R251). -/
  sums    : List (Nat × Nat × Bool)
  buckets : Nat
  held    : List CodeWord
  deriving DecidableEq, Repr

/-- The core's code log and its first-error latch (09 R281). -/
structure CoreLog where
  ce        : BitVec 32
  ue        : BitVec 16
  psn       : BitVec 16
  addr      : BitVec 21
  valid     : Bool
  decoupled : Bool
  imem      : Bool
  stream    : BitVec 2
  syn       : BitVec 32
  /-- Cycle in which the latch took its word (ties of R281). -/
  at_       : Option Nat
  deriving DecidableEq, Repr

/-- Hazard watch registers (05 R161, R162). -/
structure Hazard where
  enable : Bool
  haltOnHit : Bool
  hit    : Bool
  stream : BitVec 2
  half   : Bool
  pc     : BitVec 12
  count  : BitVec 16
  addr   : BitVec 21
  narrow : Bool
  deriving DecidableEq, Repr

/-- An uncorrectable word that the core found and the module has not yet reported (09 R280): address, syndrome, whether a
narrow write found it, whether it lies in instruction memory. -/
structure FoundUe where
  addr : BitVec 21
  syn  : BitVec 32
  rmw  : Bool
  imem : Bool
  deriving DecidableEq, Repr

/-- A partial fingerprint that a tap sends to the module's table (14 R427, R428). -/
structure Tap where
  tid    : BitVec 64
  step   : BitVec 32
  sum    : Nat
  poison : Bool
  deriving DecidableEq, Repr

/-- A post for another core, not yet sent (05 R148): logical core, counter, count. -/
structure RemotePost where
  core  : Nat
  token : BitVec 5
  count : BitVec 8
  deriving DecidableEq, Repr

/-- One core. -/
structure Core where
  /-- Array-cycle counter (04 R121). -/
  cycle    : Nat
  f        : Stream
  b        : Stream
  u        : Stream
  tokens   : Vector (BitVec 8) 32
  /-- Posts of the core on their way to visibility, in order of their cycle (05 R148). -/
  posts    : List TokenPost
  /-- Posts of other cores, Qanat and engines on their way to the token unit. -/
  inbound  : List (BitVec 5 × BitVec 8)
  tovf     : Bool
  hostWrRefused : Bool
  ovfIndex : BitVec 5
  hazard   : Hazard
  -- accumulators
  bank0    : Bank
  bank1    : Bank
  /-- The filling bank: false bank 0. -/
  filling  : Bool
  budgetHi0 : BitVec 9
  budgetHi1 : BitVec 9
  drain    : Option DrainJob
  -- array
  active   : WTile
  shadow   : WTile
  feed     : Option Feed
  rows     : List RowFlight
  wload    : Option WLoad
  slabs    : List Slab
  bfill    : Option BFill
  /-- Last array instruction and last VU instruction of F or B: stream and cycle (04 R99, R122). -/
  lastArray : Option (StreamId × Nat)
  lastVu   : Option (StreamId × Nat)
  -- scratchpad
  spad     : Sparse CodeWord
  writes   : List PendingWrite
  accesses : List Access
  log      : CoreLog
  -- vector unit
  v        : Vector VReg 32
  lanes    : Vector (BitVec 64) 8
  n        : Vector NAcc 8
  vuPending : List VuPending
  -- Qanat
  ch       : Vector Channel 4
  qEntries : List QEntry
  /-- Cycle from which some channel has been Paged (08 R253). -/
  pagedFrom : Nat
  -- to the module
  ues      : List FoundUe
  remote   : List RemotePost
  taps     : List Tap
  /-- Free bits drawn so far (the model's own). -/
  draws    : Nat
  deriving DecidableEq, Repr

/-- A stream after reset (05 R162, 06 R174). -/
def Stream.reset : Stream :=
  { state := .idle, half := false, pc := 0, haltCause := 0, waitToken := 0, waitCount := 0, waitGap := 0, waitFrom := 0,
    nextIssue := 0, flags := 0, wdogLimit := 0x0A0000, wdogCount := 0, events := [], lastCode := 0, lost := 0,
    h0 := { state := .empty, tag := 0, lines := [] }, h1 := { state := .empty, tag := 0, lines := [] },
    counters := Vector.replicate 8 0, cmps := Vector.replicate 4 { limit := 0, counter := 0, mode := 0 },
    ctx := { tid := 0, lrow0 := 0, lcol0 := 0, lcols := 0, cr := 0, enr := false, stepR := 0, cc := 0, enc := false,
             stepC := 0 },
    maskBuf := none, nwatch := 0, step := 0, launch := none }

/-- A weight tile after reset: a complete B4S tile with every code and every fine scale 0 (04 R133). -/
def WTile.reset : WTile :=
  { fmt := 0, coarse := 0, hi := [], lo := [], scales := [], planes := 0 }

/-- A cleared bank (04 R102, R133). -/
def Bank.reset : Bank :=
  { entries := [], tbase := 0, flags := 0, state := .cleared, compact := false, poison := false, owner := false, budget := 0,
    rowExp := [], rowEv := [] }

/-- A channel after reset (08 R260). -/
def Channel.reset : Channel :=
  { queue := [], state := .idle, phase := .waiting, lastStatus := 0, flags := 0, posI1 := 0, posI2 := 0, posI3 := 0,
    page := 0, retired := 0, poisonWords := 0, moved := 0, headFlags := 0, waitingOn := [], fetched := [], refused := [], held := [],
    sums := [], buckets := 0 }

/-- The hazard watch after reset (05 R162). -/
def Hazard.reset : Hazard :=
  { enable := false, haltOnHit := false, hit := false, stream := 0, half := false, pc := 0, count := 0, addr := 0,
    narrow := false }

/-- The core's code log after reset (09 R281). -/
def CoreLog.reset : CoreLog :=
  { ce := 0, ue := 0, psn := 0, addr := 0, valid := false, decoupled := false, imem := false, stream := 0, syn := 0, at_ := none }

/-- A core after reset (04 R133, 05 R162, 08 R260, 09 R272). DESIGN CHOICE (log 3, 4): cycle counter 0; V registers, L1 to
L7 and mask buffers empty. -/
def Core.reset : Core :=
  { cycle := 0, f := Stream.reset, b := Stream.reset, u := Stream.reset, tokens := Vector.replicate 32 0, posts := [],
    inbound := [], tovf := false, hostWrRefused := false, ovfIndex := 0, hazard := Hazard.reset, bank0 := Bank.reset,
    bank1 := Bank.reset, filling := false, budgetHi0 := 0, budgetHi1 := 0, drain := none, active := WTile.reset,
    shadow := WTile.reset, feed := none, rows := [], wload := none, slabs := [], bfill := none, lastArray := none,
    lastVu := none, spad := [], writes := [], accesses := [], log := CoreLog.reset,
    v := Vector.replicate 32 { data := 0, poison := 0 },
    lanes := #v[0xFFFFFFFFFFFFFFFF, 0, 0, 0, 0, 0, 0, 0],
    n := Vector.replicate 8 { value := 0, exp := 0, flags := 0, poison := false }, vuPending := [],
    ch := Vector.replicate 4 Channel.reset, qEntries := [], pagedFrom := 0, ues := [], remote := [], taps := [], draws := 0 }

end Sys2Proof.Machine
end

