-- ==== Sys2Proof/Machine/FabricState.lean ====
section
/-! DEFINITION. The state of the memories and their logs (09), of the Erg router and its links (10), and of the reduction engine
(11). Plain data. -/

namespace Sys2Proof.Machine

/-- A source log block (09 R280). -/
structure SrcLog where
  ce     : BitVec 32
  ue     : BitVec 16
  psn    : BitVec 16
  addr   : BitVec 64
  syn    : BitVec 32
  valid  : Bool
  patrol : Bool
  rmw    : Bool
  lane   : Byte
  deriving DecidableEq, Repr

/-- Bonded DRAM (word index die × 2²⁹ + offset / 32), LPDDR6 (offset / 32), fill and scrub registers, source logs (09). -/
structure Mem where
  bonded : Sparse CodeWord
  lpddr  : Sparse CodeWord
  fillDone : Bool
  fillActive : Bool
  fillProgress : Byte
  bdPeriod : BitVec 16
  lpPeriod : BitVec 16
  bdPasses : BitVec 16
  lpPasses : BitVec 16
  bdLate : Bool
  lpLate : Bool
  /-- Next word that a pass of each class reads, and whether the period has expired in the pass (09 R274, R275). -/
  bdPos  : Nat
  lpPos  : Nat
  bdOver : Bool
  lpOver : Bool
  logs   : Sparse SrcLog
  deriving DecidableEq, Repr

/-- Who waits for the answer to an Erg request. -/
inductive Issuer where
  /-- A Qanat channel of a physical core. -/
  | qanat (core : Nat) (ch : Nat)
  /-- A host command or engine of the data path, by its number. -/
  | command (id : Nat)
  /-- The reduction engine's result writes of an instance. -/
  | result (inst : InstId)
  /-- The fingerprint record of a step that closes (14 R429). -/
  | record (step : BitVec 32)
  deriving DecidableEq, Repr

/-- What comes back for an Erg request: the write is complete, words read, or a refusal with its status (10 R311, R312). -/
inductive Answer where
  | wrote
  | data (ws : List RWord)
  | refused (st : BitVec 16)
  deriving DecidableEq, Repr

/-- An access that the router has been handed: issuer, request number (its `TAG`), the step of the work that sends it
(13 R402), the packet's target by Erg address, and its payload. -/
structure ErgAccess where
  issuer : Issuer
  tag    : Nat
  step   : Option (BitVec 32)
  opc    : BitVec 6
  addr   : BitVec 64
  rlen   : BitVec 6
  fbyte  : BitVec 5
  lbyte  : BitVec 5
  payload : List CodeWord
  deriving DecidableEq, Repr

/-- A retained packet not yet acknowledged (10 R305, R310). -/
structure Retained where
  pkt     : ErgPacket
  access  : Option ErgAccess
  resends : Nat
  deriving DecidableEq, Repr

/-- A send stream, keyed by destination and stream id (10 R305). -/
structure TxStream where
  dst     : BitVec 12
  sid     : BitVec 16
  next    : BitVec 32
  unacked : List Retained
  /-- Packets stamped later: the sender holds at most 512 unacknowledged (10 R307). -/
  waiting : List Retained
  deriving DecidableEq, Repr

/-- A receive stream, keyed by source and stream id (10 R306). -/
structure RxStream where
  src      : BitVec 12
  sid      : BitVec 16
  x        : BitVec 32
  /-- Sequence numbers beyond x received, in the order of arrival, with the plane each came on. -/
  received : List (BitVec 32 × Nat)
  /-- Request packets beyond x, with the plane each came on. -/
  held     : List (Nat × ErgPacket)
  /-- Packets applied or delivered since the last ACK. -/
  sinceAck : Nat
  /-- Plane of the first packet that no ACK covers yet (10 R309). -/
  plane    : Option Nat
  deriving DecidableEq, Repr

/-- Link states (10 R287). -/
inductive LinkState where
  | off | training | up | recovery | down
  deriving DecidableEq, Repr

/-- A port and its link (10 R286, R316). -/
structure Port where
  lstate    : LinkState
  laneLock  : BitVec 8
  fecCorr   : BitVec 32
  fecUncorr : BitVec 16
  crcFail   : BitVec 16
  replays   : BitVec 16
  recoveries : BitVec 8
  forceDown : Bool
  txSeq     : BitVec 12
  rxSeq     : BitVec 12
  /-- Frames not yet known to be received, oldest first, and the replays of the oldest. -/
  replayBuf : List (BitVec 12 × ErgPacket)
  fails     : Nat
  failSeq   : BitVec 12
  /-- Frames are discarded until the failed one comes again. -/
  discarding : Bool
  /-- Packets that wait to be sent, by virtual lane, and the code words that the receiver's buffer of each lane still takes (10 R288). -/
  lanes     : Vector (List ErgPacket) 4
  credits   : Vector Nat 4
  /-- It is the collective lane's turn where both it and the request lane are ready (10 R289). -/
  collTurn  : Bool
  deriving DecidableEq, Repr

/-- The Erg router (10). -/
structure Fabric where
  ports  : Vector Port 16
  portEn : BitVec 16
  /-- The active bank: false bank 0. -/
  active : Bool
  swapPending : Bool
  copyback : Bool
  /-- Planes whose quiet probe is out, and whether a probe set is being waited for. -/
  probes : BitVec 16
  quietBusy : Bool
  shadowLocked : Bool
  resend : BitVec 8
  resendMax : BitVec 4
  nrHold : BitVec 8
  quietTo : BitVec 8
  retrain : BitVec 4
  trunkRate : BitVec 16
  /-- The control cycle in which `COORD_LOCK` became 1 has not ended (10 R315). -/
  lockCycle : Bool
  cnt    : Vector (BitVec 32) 8
  rank0  : Sparse (BitVec 32)
  rank1  : Sparse (BitVec 32)
  route0 : Sparse (BitVec 32)
  route1 : Sparse (BitVec 32)
  bounced : Sparse (BitVec 16)
  pages  : Sparse (BitVec 32)
  tx     : List TxStream
  rx     : List RxStream
  parked : List ErgAccess
  /-- Requests out: their accesses by tag; the next tag (the model's own numbering of 10 R293's tags). -/
  reqs   : List ErgAccess
  nextTag : Nat
  deriving DecidableEq, Repr

/-- A collective table entry (11 R319). -/
structure CollEntry where
  cid     : BitVec 16
  kind    : BitVec 2
  fmt     : BitVec 4
  staged  : Bool
  nbkt    : BitVec 16
  ownerOnly : Bool
  arrival : Bool
  headroom : BitVec 3
  rfirst  : BitVec 12
  rstep   : BitVec 12
  rcount  : BitVec 13
  sbase   : BitVec 21
  result  : BitVec 64
  rhdr    : BitVec 64
  tokCore0 : BitVec 8
  tokBpc  : BitVec 16
  tokCtr  : BitVec 5
  frows   : BitVec 24
  frank   : BitVec 7
  /-- Generation of the COLL_SETUP that wrote the entry (12 R375). -/
  gen     : Byte
  deriving DecidableEq, Repr

/-- A bucket's data in the engine: element codes by index (a sign bucket's magnitude sum is element 16,384), the indices of a
top-k list, poison by pairs of elements, and what its header carries (11 R328, R344, R345). -/
structure Bucket where
  elems   : Sparse Int
  /-- Elements that occur in a top-k list, rising. -/
  present : List Nat
  /-- Entries of a top-k list that lie in words with poison, so that their indices are not known. -/
  lost    : Nat
  /-- Pairs of elements that lie in words with poison. -/
  poison  : List Nat
  /-- Every word carries poison. -/
  dead    : Bool
  /-- The header's `POISON`: some input word carried poison. -/
  hurt    : Bool
  flags   : Byte
  budget  : Nat
  e       : Int
  /-- Peak exponent L; none while every value is 0 (11 R330). -/
  peak    : Option Int
  csum    : Nat
  bstat   : Nat
  ncontrib : Nat
  stage   : Nat
  fmt     : Nat
  deriving DecidableEq, Repr

/-- A contribution handed to the engine (11 R322 to R325): raw code words as read, the tile summary of an X128 bucket. -/
structure Contrib where
  id      : InstId
  words   : List CodeWord
  summary : Option CodeWord
  epoch   : Byte
  /-- Where it came from: the descriptor or command that waits for it, and its number. -/
  issuer  : Issuer
  tag     : Nat
  deriving DecidableEq, Repr

/-- A bucket in the engine's buffers, whole or in part: who made it, the code words of its data packets by packet index, those of its META
(11 R318). -/
structure NodeInput where
  src     : BitVec 12
  pkts    : Sparse (List CodeWord)
  header  : Option (List CodeWord)
  deriving DecidableEq, Repr

/-- Phase of an admitted instance on this module. -/
inductive InstPhase where
  /-- Inputs are awaited. -/
  | gather
  /-- The output has gone to the parent; the result is awaited. -/
  | sent
  /-- Completed: retained buckets await BACK. -/
  | done
  deriving DecidableEq, Repr

/-- A bucket instance that the engine has admitted (11 R325, R334, R350). A completed one stays listed, without slots, until a
commit or an abort passes its step, so that late packets are known as such. -/
structure Inst where
  id      : InstId
  phase   : InstPhase
  attempt : Bool
  q       : Int
  /-- The scale entry gave no Q (11 R329). -/
  noScale : Bool
  own     : Option Contrib
  /-- Sender of the first packet whose epoch differs (11 R347). -/
  badEpoch : Option (BitVec 12)
  /-- Sender of the input that gave the sum its `BSTAT` 2 or 3 (11 R355). -/
  fault    : Option (BitVec 12)
  inputs  : List NodeInput
  /-- Rack results at the hall root of an arrival-mode stage, in order of completion (11 R338). -/
  arrived : List NodeInput
  /-- A rack root's rack result, while the hall stage goes on. -/
  rack    : Option NodeInput
  /-- DOWN data received so far, and whether a RESEND_REQ has been sent for it (11 R343). -/
  down    : Option NodeInput
  resent  : Bool
  /-- DOWN data kept for members that still owe BACK (11 R335). -/
  kept    : Option NodeInput
  owed    : List (BitVec 12)
  /-- The output still awaits BACK from the parent. -/
  upOwed  : Bool
  /-- The tree's DOWN META of an owner-only collective has been forwarded (11 R334). -/
  fwd     : Bool
  slots   : Nat
  delivered : Bool
  /-- Result writes outstanding at other modules, and the token that follows them (11 R327). -/
  writes  : List Nat
  tokenDue : Bool
  deriving DecidableEq, Repr

/-- An instance that the engine knows and has not admitted, with this module's contribution if that has come. -/
structure Known where
  id  : InstId
  own : Option Contrib
  deriving DecidableEq, Repr

/-- The reduction engine (11). -/
structure Coll where
  table   : Sparse (Option CollEntry)
  insts   : List Inst
  /-- Contributions that stand at the exchange port, oldest first. -/
  contribs : List Contrib
  /-- Instances not yet admitted, in the order in which the engine first learned of them (11 R325). -/
  known   : List Known
  /-- Collective packets that wait in the virtual lane's buffer of a port (11 R326, R354). -/
  waiting : List (Fin 16 × ErgPacket)
  bktTo   : BitVec 24
  cnt     : Vector (BitVec 32) 12
  errCid  : BitVec 16
  errBucket : BitVec 16
  errStep : BitVec 32
  errValid : Bool
  errBstat : BitVec 4
  errAttempt : Bool
  errStage : BitVec 2
  errSrc  : BitVec 12
  deriving DecidableEq, Repr

/-- A source log after reset (09 R280). -/
def SrcLog.reset : SrcLog :=
  { ce := 0, ue := 0, psn := 0, addr := 0, syn := 0, valid := false, patrol := false, rmw := false, lane := 0 }

/-- The memories after reset: the fill of R272 has not ended (09 R272, R280). -/
def Mem.reset : Mem :=
  { bonded := [], lpddr := [], fillDone := false, fillActive := false, fillProgress := 0, bdPeriod := 60, lpPeriod := 60,
    bdPasses := 0, lpPasses := 0, bdLate := false, lpLate := false, bdPos := 0, lpPos := 0, bdOver := false, lpOver := false,
    logs := [] }

/-- Receive buffers of a link by virtual lane, in code words (10 R288). -/
def laneBuffers : Vector Nat 4 := #v[2048, 2048, 4096, 256]

/-- A port after reset (10 R288, R316). DESIGN CHOICE (log 111): where both lanes are ready, the request lane sends first. -/
def Port.reset : Port :=
  { lstate := .off, laneLock := 0, fecCorr := 0, fecUncorr := 0, crcFail := 0, replays := 0, recoveries := 0,
    forceDown := false, txSeq := 0, rxSeq := 0, replayBuf := [], fails := 0, failSeq := 0, discarding := false,
    lanes := Vector.replicate 4 [], credits := laneBuffers, collTurn := false }

/-- The router after reset (10 R301, R316). -/
def Fabric.reset : Fabric :=
  { ports := Vector.replicate 16 Port.reset, portEn := 0, active := false, swapPending := false, copyback := false, probes := 0,
    quietBusy := false, shadowLocked := false, resend := 20, resendMax := 8, nrHold := 20, quietTo := 10, retrain := 1,
    trunkRate := 0, lockCycle := false, cnt := Vector.replicate 8 0, rank0 := [], rank1 := [], route0 := [], route1 := [], bounced := [],
    pages := [], tx := [], rx := [], parked := [], reqs := [], nextTag := 0 }

/-- The reduction engine after reset (11 R355). -/
def Coll.reset : Coll :=
  { table := [], insts := [], contribs := [], known := [], waiting := [], bktTo := 0xF4240, cnt := Vector.replicate 12 0, errCid := 0,
    errBucket := 0, errStep := 0, errValid := false, errBstat := 0, errAttempt := false, errStage := 0, errSrc := 0 }

end Sys2Proof.Machine
end

