-- ==== Sys2Proof/Machine/HostState.lean ====
section
/-! DEFINITION. The state of the host interface (12), of jobs, steps and recovery (13) and of the silent-error tools (14). Plain
data. -/

namespace Sys2Proof.Machine

/-- States of a command queue, in the encoding of `QSTATE` (12 R365). -/
inductive QueueState where
  | disabled | running | stalled | error
  deriving DecidableEq, Repr

/-- A completion entry that is ready and not yet in its ring: its 256 bits, and whether its vector follows (12 R364, R367). -/
structure HeldEntry where
  entry : BitVec 256
  irq   : Bool
  deriving DecidableEq, Repr

/-- A command queue with its registers (12 R360 to R365) and its step register (13 R396). -/
structure Queue where
  enable  : Bool
  cmdSize : BitVec 4
  cplSize : BitVec 4
  irqAll  : Bool
  state   : QueueState
  dbErr   : Bool
  err     : BitVec 16
  cmdBase : BitVec 64
  cplBase : BitVec 64
  cmdHead : BitVec 16
  cplTail : BitVec 16
  /-- The doorbell mirrors. -/
  cmdTail : BitVec 16
  cplHead : BitVec 16
  /-- The completion phase. -/
  phase   : Bool
  held    : List HeldEntry
  qstep   : BitVec 32
  deriving DecidableEq, Repr

/-- An access that a command waits for: its number, and the index at which the words it returns are kept. -/
structure CmdWait where
  tag   : Nat
  index : Nat
  deriving DecidableEq, Repr

/-- A command that has been fetched and has not ended (12 R363). -/
structure Cmd where
  id      : Nat
  src     : CmdSrc
  /-- Code of the sender (12 R380): 0x001 for a queue. -/
  sender  : BitVec 12
  raw     : BitVec 512
  poison  : Bool
  /-- The step of 13 R396; none for a mailbox command (13 R392). -/
  step    : Option (BitVec 32)
  /-- Refused at its fetch, for check 8 of R374 (13 R398, R407). -/
  refused : Bool
  started : Bool
  /-- T of R377, in µs. -/
  limit   : Nat
  /-- The reply has been written (a timeout); the command's work goes on to its end (12 R379). -/
  replied : Bool
  /-- Its mailbox has been released: its reply will be ignored (12 R383). -/
  orphan  : Bool
  /-- First refusal of one of its accesses; 0 none. -/
  failed  : BitVec 16
  flags   : Byte
  progress : Byte
  /-- What the command waits for, in its own numbering. -/
  phase   : Nat
  waits   : List CmdWait
  /-- Words read for it, by index, and running values of its own. -/
  got     : List (Nat × RWord)
  accA    : Nat
  accB    : Nat
  /-- The header word that a RESTORE has read. -/
  kept    : Nat
  deriving DecidableEq, Repr

/-- What a LAUNCH keeps of a stream that it started and that another LAUNCH has started since: physical core and stream, how its run
ended, its flags and its watch codes (05 R158, 13 R399, R400). -/
structure StreamEnd where
  core   : Nat
  stream : StreamId
  cause  : Byte
  half   : Bool
  pc     : BitVec 12
  flags  : Byte
  nwatch : BitVec 16
  deriving DecidableEq, Repr

/-- Where a stream's events and reports go: the LAUNCH that started it (05 R160, 08 R252). -/
structure LaunchRec where
  id    : Nat
  queue : Fin 8
  seq   : BitVec 32
  /-- Logical cores and streams named; `live` until the LAUNCH has ended (05 R158). -/
  cores : List Nat
  smask : BitVec 3
  live  : Bool
  /-- Streams of the LAUNCH that have been started again. -/
  ended : List StreamEnd
  deriving DecidableEq, Repr

/-- Mailbox states, in the encoding of `MSTATE` (12 R381). -/
inductive MailState where
  | free | claimed | sent | acked
  deriving DecidableEq, Repr

/-- A mailbox (12 R380 to R384). -/
structure Mailbox where
  data    : Vector Reg 16
  state   : MailState
  sender  : BitVec 12
  refused : Bool
  code    : BitVec 16
  target  : Byte
  /-- The message has been delivered to its receiver (12 R382). -/
  taken   : Bool
  deriving DecidableEq, Repr

/-- A window page entry (12 R388). -/
structure WinEntry where
  owner  : BitVec 2
  region : BitVec 4
  ppn    : BitVec 18
  deriving DecidableEq, Repr

/-- An MSI-X table entry: message address and data, and its mask bit (12 R358, R359). -/
structure MsixEntry where
  addr   : BitVec 64
  data   : Reg
  masked : Bool
  deriving DecidableEq, Repr

/-- The host interface (12). -/
structure HostIf where
  queues : Vector Queue 8
  /-- Commands fetched and not ended, in the order of their fetch. -/
  cmds   : List Cmd
  nextId : Nat
  launches : List LaunchRec
  mail   : Vector Mailbox 16
  window : Sparse WinEntry
  /-- Window pages that the BAR2 size reaches (12 R357). -/
  winPages : Nat
  margin : Byte
  floor_ : BitVec 16
  late   : BitVec 32
  ownValid : Bool
  ownWrite : Bool
  ownMod : Bool
  ownPage : BitVec 15
  hostRefused : BitVec 16
  modRefused : BitVec 16
  msix   : Sparse MsixEntry
  pba    : BitVec 64
  deriving DecidableEq, Repr

/-- What the module keeps of a step for its report (13 R398 to R400). -/
structure StepInfo where
  /-- A close has been asked for; the report has been written; its status allows a commit. -/
  asked     : Bool
  reported  : Bool
  committable : Bool
  status    : BitVec 16
  flags     : Byte
  poisonHalt : Bool
  bstat1    : Bool
  bstat2    : Bool
  bstat3    : Bool
  bstat4    : Bool
  timeout   : Bool
  hung      : Bool
  other     : Bool
  hallExact : Bool
  hallArrival : Bool
  nbad      : BitVec 16
  nwatch    : BitVec 16
  nhalt     : BitVec 16
  /-- A U stream of the step has been launched (13 R407). -/
  launchedU : Bool
  deriving DecidableEq, Repr

/-- A close that has been accepted and whose report is owed (13 R398): `sent` once the step's fingerprint record has been written out,
`tags` the writes of it that are still out (14 R429). -/
structure Closing where
  step : BitVec 32
  src  : CmdSrc
  seq  : BitVec 32
  sent : Bool
  tags : List Nat
  deriving DecidableEq, Repr

/-- The job registers and what JOB_OPEN loads (13 R393, R423). -/
structure JobRegs where
  jobId   : BitVec 32
  rank    : BitVec 12
  nranks  : BitVec 13
  committed : BitVec 32
  begun   : BitVec 32
  /-- A stepped work command has been fetched since JOB_OPEN or the last STEP_ABORT (13 R397). -/
  worked  : Bool
  epoch   : Byte
  inplace : Bool
  pendValid : Bool
  pendEpoch : Byte
  pendInplace : Bool
  pendStep : BitVec 32
  /-- Trunk rate of the pending change, until it applies (13 R402). -/
  pendTrunk : Option (BitVec 16)
  fence   : Bool
  fenceStep : BitVec 32
  jbase   : BitVec 19
  jcount  : BitVec 20
  qstepRefused : Bool
  teardownTo : BitVec 16
  scaleTab : BitVec 64
  nscale  : BitVec 14
  xscale  : BitVec 64
  nxscale : BitVec 22
  trail   : BitVec 64
  /-- The key store (02 R52). -/
  key     : BitVec 256
  steps   : Sparse StepInfo
  /-- Observations of scale records (07 R225), by step × 8,192 + record: the highest nonzero element, and the coarse scale that the
  record gave the step. -/
  observed : Sparse (Option (Nat × Int))
  closing : List Closing
  /-- From action 2 of JOB_CLOSE requests and collective packets that arrive are dropped (13 R415). -/
  closingDown : Bool
  deriving DecidableEq, Repr

/-- An armed REPLAY (14 R431). -/
structure Replay where
  cmd   : Cmd
  step  : BitVec 32
  ref   : BitVec 64
  kmask : BitVec 4
  deriving DecidableEq, Repr

/-- A patrol in progress (14 R440): the command that started it and the physical cores tested. -/
structure PatrolRun where
  cmd   : Nat
  cores : List Nat
  test  : BitVec 16
  reps  : Byte
  deriving DecidableEq, Repr

/-- A sample dump in progress (13 R420 to R422). -/
structure DumpRun where
  cmd    : Nat
  dst    : BitVec 64
  slice  : BitVec 5
  cores  : List Nat
  unread : List Nat
  poisoned : List Nat
  deriving DecidableEq, Repr

/-- Silent-error tools (14 R443). -/
structure Silent where
  layers  : BitVec 13
  dropped : BitVec 16
  badKind : Byte
  replay  : Option Replay
  replayStep : BitVec 32
  /-- Fingerprint entries by step, layer and kind: value in [60:0], poison in 62, touched in 63 (14 R428, R429). -/
  table   : Sparse (BitVec 64)
  /-- Requested voltage steps [2:0] and clock setting [4:3] by physical core. -/
  margins : Sparse (BitVec 5)
  voff    : Vector (BitVec 3) 4
  settled : Vector Bool 4
  lpState : BitVec 2
  lpClass : BitVec 4
  lpIndex : Byte
  lpLock  : Bool
  lpErrors : BitVec 32
  /-- The command that holds a link under test, and the port state to return to. -/
  lpCmd   : Option Nat
  patrol  : Option PatrolRun
  dump    : Option DumpRun
  deriving DecidableEq, Repr

/-- A command queue after reset (12 R365, 13 R423). DESIGN CHOICE (log 5): the phase is 0 before the first enable. -/
def Queue.reset : Queue :=
  { enable := false, cmdSize := 0, cplSize := 0, irqAll := false, state := .disabled, dbErr := false, err := 0, cmdBase := 0,
    cplBase := 0, cmdHead := 0, cplTail := 0, cmdTail := 0, cplHead := 0, phase := false, held := [], qstep := 0 }

/-- A mailbox after reset (12 R384). -/
def Mailbox.reset : Mailbox :=
  { data := Vector.replicate 16 0, state := .free, sender := 0, refused := false, code := 0, target := 0, taken := false }

/-- A window page entry after reset: FREE (12 R388). -/
def WinEntry.reset : WinEntry := { owner := 0, region := 0, ppn := 0 }

/-- An MSI-X table entry after reset: masked (15 R459; PRESUMED (log 6): the other fields 0). -/
def MsixEntry.reset : MsixEntry := { addr := 0, data := 0, masked := true }

/-- The host interface after reset (12 R357, R384, R388, R389). -/
def HostIf.reset : HostIf :=
  { queues := Vector.replicate 8 Queue.reset, cmds := [], nextId := 0, launches := [], mail := Vector.replicate 16 Mailbox.reset,
    window := [], winPages := 32768, margin := 0x20, floor_ := 100, late := 0, ownValid := false, ownWrite := false,
    ownMod := false, ownPage := 0, hostRefused := 0, modRefused := 0, msix := [], pba := 0 }

/-- Nothing known of a step. -/
def StepInfo.reset : StepInfo :=
  { asked := false, reported := false, committable := false, status := 0, flags := 0, poisonHalt := false, bstat1 := false,
    bstat2 := false, bstat3 := false, bstat4 := false, timeout := false, hung := false, other := false, hallExact := false,
    hallArrival := false, nbad := 0, nwatch := 0, nhalt := 0, launchedU := false }

/-- The job registers after reset (13 R423). -/
def JobRegs.reset : JobRegs :=
  { jobId := 0, rank := 0, nranks := 0, committed := 0, begun := 0, worked := false, epoch := 0, inplace := false, pendValid := false,
    pendEpoch := 0, pendInplace := false, pendStep := 0, pendTrunk := none, fence := false, fenceStep := 0, jbase := 0,
    jcount := 0, qstepRefused := false, teardownTo := 100, scaleTab := 0, nscale := 0, xscale := 0, nxscale := 0, trail := 0,
    key := 0, steps := [], observed := [], closing := [], closingDown := false }

/-- The silent-error tools after reset (14 R443). -/
def Silent.reset : Silent :=
  { layers := 256, dropped := 0, badKind := 0, replay := none, replayStep := 0, table := [], margins := [],
    voff := Vector.replicate 4 0, settled := Vector.replicate 4 true, lpState := 0, lpClass := 0, lpIndex := 0, lpLock := false,
    lpErrors := 0, lpCmd := none, patrol := none, dump := none }

end Sys2Proof.Machine
end

