-- ==== Sys2Proof/Machine/State.lean ====
section
/-! DEFINITION. The state of the module, its reset, and the reasons why a step can stop. -/

namespace Sys2Proof.Machine

/-- Why the machine stops. -/
inductive Fault where
  /-- Raised by INPUT_OVERVOLTAGE above 75 V: beyond the absolute maximum ratings the module carries no guarantee of behaviour
  (17 R499). Safe: no statement is made about what follows. -/
  | beyondAbsoluteMaximum
  deriving DecidableEq, Repr

/-- Why a command is refused. -/
inductive Refusal where
  /-- Raised by the dispatch for a command that has no meaning yet. Safe: nothing is claimed of it. -/
  | notModelled (mnemonic : String)
  deriving DecidableEq, Repr

/-- Output pins (17 R497). `PRESENT_N` is tied to ground: it is low in every state, powered or not, so that it needs no field of the state and
never changes. -/
inductive Pin where
  | pwrGood | thermTripN | presentN
  deriving DecidableEq, Repr

/-- What the module sends to its surroundings, in order. -/
inductive Out where
  /-- An MSI-X message of a vector (12 R359). -/
  | msix (v : Nat)
  /-- A write to host memory: bus address, bytes, EP (09 R279). -/
  | hostWrite (addr : Nat) (bytes : List Byte) (ep : Bool)
  /-- The completion of a host read: bytes, EP (12 R386). -/
  | hostReply (bytes : List Byte) (ep : Bool)
  /-- A host access completes with Unsupported Request (00 R11, 01 R25, 09 R273). -/
  | unsupported
  /-- An error is reported in AER (12 R358, R365). -/
  | aer
  /-- A link frame: port, frame sequence number, packet; its CRC is `frameCrc` of the two (10 R286). -/
  | frame (p : Nat) (seq : BitVec 12) (pkt : ErgPacket)
  /-- The credits of a packet go back to the transmitter of a link: port, virtual lane, code words (10 R288, R290). -/
  | credits (p : Nat) (vl : BitVec 2) (words : Nat)
  /-- A configuration access completes with Request Retry Status (15 R457). -/
  | retryStatus
  /-- A negative acknowledgement of a frame (10 R286). -/
  | nak (p : Nat) (seq : BitVec 12)
  /-- An output pin takes a level. -/
  | pin (p : Pin) (high : Bool)
  /-- An I3C in-band interrupt with its byte (15 R451). -/
  | ibi (b : Byte)
  | hotJoin
  /-- Bytes returned on I3C (15 R450, R452). -/
  | i3cReply (bytes : List Byte)
  /-- An I3C address or code that is not acknowledged. -/
  | i3cNack
  /-- An SPDM response or error as Notar makes it: transport, plain bytes (16 R482). -/
  | spdm (t : Transport) (bytes : List Byte)
  /-- A DOE data object: a Discovery response (12 R358), or an SPDM message, plain or secured (16 R481). -/
  | doe (bytes : List Byte)
  deriving DecidableEq, Repr

/-- Identity, grade and module state (01 R26). -/
structure Ident where
  /-- Enabled physical cores, fused (00 R5). -/
  enabled : BitVec 224
  lpddrGib : BitVec 16
  stepping : Byte
  serial  : BitVec 64
  slot    : BitVec 6
  rack    : BitVec 6
  hall    : Byte
  coordLock : Bool
  id      : BitVec 12
  state   : BitVec 4
  generation : Byte
  jobOpen : Bool
  deriving DecidableEq, Repr

/-- What has happened in the control cycle that several commands share (the model's own, log 82). -/
structure CycleMarks where
  /-- Sources whose first-error latch took its word in this cycle (09 R280). -/
  ues   : List Nat
  /-- Instances whose last input came in this cycle (11 R352). -/
  ready : List InstId
  /-- Rack results that became complete at the hall root in this cycle (11 R338). -/
  arrived : List (InstId × BitVec 12)
  /-- Steps that closed in this cycle (14 R433). -/
  closed : List (BitVec 32)
  /-- Ports whose link left Up for Down in this cycle (10 R310). -/
  downs : List Nat
  /-- Main power began to go off in this cycle (15 R463). -/
  off   : Bool
  /-- Records that entered Cairn's queue in this cycle (16 R488). -/
  records : Nat
  deriving DecidableEq, Repr

/-- The module. -/
structure State where
  /-- Commands that wait, first in, first out. -/
  pending : List Instr
  ident   : Ident
  /-- Cores by physical number; an unlisted core is as after reset. -/
  cores   : Sparse Core
  mem     : Mem
  erg     : Fabric
  coll    : Coll
  host    : HostIf
  job     : JobRegs
  silent  : Silent
  power   : Power
  notar   : Notar
  cairn   : Cairn
  /-- What has been sent so far, oldest first. -/
  out     : List Out
  /-- Free values drawn so far (the model's own). -/
  free    : Nat
  /-- The control cycle that commands share; none while each command has one of its own (the model's own, log 82). -/
  cycle   : Option CycleMarks
  deriving DecidableEq, Repr

/-- Identity after reset (01 R26). DESIGN CHOICE (log 2): the fuses are those of AXD-SZ9-224-512, stepping 0x10, serial number 0. -/
def Ident.reset : Ident :=
  { enabled := BitVec.allOnes 224, lpddrGib := 512, stepping := 0x10, serial := 0, slot := 0, rack := 0, hall := 0,
    coordLock := false, id := 0, state := 0x1, generation := 0, jobOpen := false }

/-- The module right after reset: every register at its Reset column (00 R8). -/
def State.reset : State :=
  { pending := [], ident := Ident.reset, cores := [], mem := Mem.reset, erg := Fabric.reset, coll := Coll.reset,
    host := HostIf.reset, job := JobRegs.reset, silent := Silent.reset, power := Power.reset, notar := Notar.reset,
    cairn := Cairn.reset, out := [], free := 0, cycle := none }

end Sys2Proof.Machine
end

