-- ==== Sys2Proof/Machine/Code.lean ====
section
/-! DEFINITION. The word code RS(36,32) (09 R261 to R264): encoding, syndromes, decoding, and words by bytes. -/

namespace Sys2Proof.Machine

/-- Doubling in GF(2⁸) with field polynomial 0x11D (09 R261). -/
def gfDouble (a : Nat) : Nat := if a < 128 then 2 * a else (2 * a) ^^^ 0x11D

/-- Product in GF(2⁸), over the bits of the second factor. -/
def gfMulBits (n a b : Nat) : Nat :=
  match n with
  | 0 => 0
  | k + 1 => (if b % 2 = 1 then a else 0) ^^^ gfMulBits k (gfDouble a) (b / 2)

/-- Product in GF(2⁸). -/
def gfMul (a b : Nat) : Nat := gfMulBits 8 a b

/-- Byte k of a number. -/
def byteOf (x k : Nat) : Nat := x / 256 ^ k % 256

/-- The polynomial's coefficients of a code word from position 35 down: data bytes 31 to 0, then p₃ to p₀ (09 R261). -/
def codeCoeffs (w : CodeWord) : List Nat :=
  (List.range 32).reverse.map (byteOf w.toNat) ++ [byteOf w.toNat 35, byteOf w.toNat 34, byteOf w.toNat 33, byteOf w.toNat 32]

/-- Value of a polynomial, highest coefficient first, at a point (Horner). -/
def polyAt (cs : List Nat) (x : Nat) : Nat := cs.foldl (fun acc c => gfMul acc x ^^^ c) 0

/-- The syndrome (S₀, S₁, S₂, S₃) of a received word (09 R263). -/
def syndrome (w : CodeWord) : Nat × Nat × Nat × Nat :=
  let cs := codeCoeffs w
  (polyAt cs 1, polyAt cs 2, polyAt cs 4, polyAt cs 8)

/-- The syndrome as logged: S₀ in [7:0] to S₃ in [31:24] (09 R280). -/
def synWord (s : Nat × Nat × Nat × Nat) : BitVec 32 :=
  BitVec.ofNat 32 (s.1 + 256 * s.2.1 + 65536 * s.2.2.1 + 16777216 * s.2.2.2)

/-- One step of division by g(x) = (x+1)(x+α)(x+α²)(x+α³) = x⁴ + 0x0F x³ + 0x36 x² + 0x78 x + 0x40: the remainder so far and
the next data byte (09 R261). -/
def parityStep (p : Nat × Nat × Nat × Nat) (d : Nat) : Nat × Nat × Nat × Nat :=
  let t := d ^^^ p.2.2.2
  (gfMul t 0x40, p.1 ^^^ gfMul t 0x78, p.2.1 ^^^ gfMul t 0x36, p.2.2.1 ^^^ gfMul t 0x0F)

/-- Check bytes p₀ to p₃ of 32 data bytes (09 R261). -/
def parity (d : Data) : Nat × Nat × Nat × Nat :=
  if d = 0 then (0, 0, 0, 0) else (List.range 32).reverse.foldl (fun p k => parityStep p (byteOf d.toNat k)) (0, 0, 0, 0)

/-- The code word of a word's data (09 R261). -/
def encodeWord (d : Data) : CodeWord :=
  let p := parity d
  BitVec.ofNat 32 (p.1 + 256 * p.2.1 + 65536 * p.2.2.1 + 16777216 * p.2.2.2) ++ d

/-- The poison code word (09 R262). -/
def poisonWord : CodeWord := (0x00005AA5 : BitVec 32) ++ (0 : BitVec 256)

/-- The code word that carries a delivered word on. -/
def codeOfWord (w : RWord) : CodeWord := if w.poison then poisonWord else encodeWord w.data

/-- Outcome of decoding (09 R263). -/
inductive DecodeOutcome where
  | clean | poison | corrected | uncorrectable
  deriving DecidableEq, Repr

/-- Powers of α from position i up. -/
def alphaPos (n i p x : Nat) : Option Nat :=
  match n with
  | 0 => none
  | k + 1 => if p = x then some i else alphaPos k (i + 1) (gfDouble p) x

/-- The error position i of a single-byte error: S₁ = S₀ α^i with i from 0 to 35 (09 R263). -/
def errorPos (s0 s1 : Nat) : Option Nat := alphaPos 36 0 s0 s1

/-- The code word with the byte at polynomial position i XORed (09 R261: data byte k has position k + 4, check byte j j). -/
def fixByte (w : CodeWord) (i x : Nat) : CodeWord :=
  w ^^^ BitVec.ofNat 288 (x * 256 ^ (if i < 4 then 32 + i else i - 4))

/-- Decoding of a received code word: outcome, the code word that stands afterwards, and the word delivered (09 R263). -/
def decodeWord (w : CodeWord) : DecodeOutcome × CodeWord × RWord :=
  let psn : RWord := { data := 0, poison := true }
  if w = 0 then (.clean, w, { data := 0, poison := false })
  else
    let s := syndrome w
    if s = (0, 0, 0, 0) then (.clean, w, { data := w.extractLsb' 0 256, poison := false })
    else if s = (0xFF, 0x11, 0xD0, 0x4F) then (.poison, w, psn)
    else if s = (0xA5, 0xA5, 0xA5, 0xA5) ∨ s = (0x5A, 0xB4, 0x75, 0xEA) then (.poison, poisonWord, psn)
    else
      let (s0, s1, s2, s3) := s
      if s0 ≠ 0 ∧ s1 ≠ 0 ∧ gfMul s1 s1 = gfMul s0 s2 ∧ gfMul s2 s2 = gfMul s1 s3 then
        match errorPos s0 s1 with
        | some i => (.corrected, fixByte w i s0, { data := (fixByte w i s0).extractLsb' 0 256, poison := false })
        | none => (.uncorrectable, poisonWord, psn)
      else (.uncorrectable, poisonWord, psn)

/-- The 256-bit mask of a mask of bytes. -/
def byteMask (m : BitVec 32) : Data :=
  BitVec.ofNat 256 ((List.range 32).foldl (fun a k => if m.getLsbD k then a + 255 * 256 ^ k else a) 0)

/-- Bytes named by the mask from `new`, the others from `old`. -/
def mergeBytes (m : BitVec 32) (old new : Data) : Data := (old &&& ~~~ byteMask m) ||| (new &&& byteMask m)

/-- A write of a word onto the stored code word: a full write replaces it (09 R269), a narrow one is a read-modify-write
(09 R268). The outcome is that of the read part; a full write reads nothing. -/
def storeWord (old : CodeWord) (data : Data) (mask : BitVec 32) (poison : Bool) : Option DecodeOutcome × CodeWord :=
  if poison then (none, poisonWord)
  else if mask = 0xFFFFFFFF then (none, encodeWord data)
  else
    match decodeWord old with
    | (.clean, _, w) => (some .clean, encodeWord (mergeBytes mask w.data data))
    | (.corrected, _, w) => (some .corrected, encodeWord (mergeBytes mask w.data data))
    | (o, _, _) => (some o, poisonWord)

/-- The number a list of bytes spells, lowest first (00, Bits, bytes and words). -/
def leNat (bs : List Byte) : Nat :=
  match bs with
  | [] => 0
  | b :: r => b.toNat + 256 * leNat r

/-- The n bytes of a number, lowest first. -/
def leBytes (n x : Nat) : List Byte := (List.range n).map fun k => BitVec.ofNat 8 (byteOf x k)

/-- Bits [lo + n − 1 : lo] of a word's data as a number. -/
def bitsOf (x : Nat) (lo n : Nat) : Nat := x / 2 ^ lo % 2 ^ n

end Sys2Proof.Machine
end

