-- ==== Sys2Proof/Machine/Numeric.lean ====
section
/-! DEFINITION. Exact values, rounding, flags and the random words (02 R29 to R63). -/

namespace Sys2Proof.Machine

/-- An exact value: a NaN, an infinity, or (−1)^neg × m × 2^e. -/
inductive FVal where
  | nan
  | inf (neg : Bool)
  | fin (neg : Bool) (m : Nat) (e : Int)
  deriving DecidableEq, Repr

/-- Flag byte bits (02 R54). -/
def flagSat : Byte := 0x01
/-- RANGE. -/
def flagRange : Byte := 0x02
/-- ACC_OVF. -/
def flagAccOvf : Byte := 0x04
/-- EXCHANGE_INEXACT. -/
def flagXInexact : Byte := 0x08
/-- UNDERFLOW. -/
def flagUnderflow : Byte := 0x10
/-- INVALID. -/
def flagInvalid : Byte := 0x20

/-- An integer times a power of two as an exact value; 0 is +0. -/
def fvalOfInt (n e : Int) : FVal := .fin (decide (n < 0)) n.natAbs e

/-- The integer that an exact finite value's sign and magnitude give. -/
def signedMag (neg : Bool) (m : Nat) : Int := if neg then -(m : Int) else m

/-- Whether the magnitude is rounded up: rest `rem` below a last place of 2^sh, by `ROUND` (02 R47, R48). -/
def roundsUp (round : BitVec 2) (r : BitVec 32) (n rem sh : Nat) : Bool :=
  match round.toNat with
  | 0 => 2 * rem > 2 ^ sh || (2 * rem == 2 ^ sh && n % 2 == 1)
  | 2 => 2 ^ 32 * rem / 2 ^ sh + r.toNat ≥ 2 ^ 32
  | _ => false

/-- The magnitude m × 2^e in units of 2^q, rounded, and whether that lost bits. -/
def roundAt (round : BitVec 2) (r : BitVec 32) (m : Nat) (e q : Int) : Nat × Bool :=
  if q ≤ e then (m * 2 ^ (e - q).toNat, false)
  else
    let sh := (q - e).toNat
    let n := m / 2 ^ sh
    let rem := m % 2 ^ sh
    (if roundsUp round r n rem sh then n + 1 else n, rem != 0)

/-- Exponent of the leading bit of m × 2^e, m not 0. -/
def topBit (m : Nat) (e : Int) : Int := (Nat.log2 m : Int) + e

/-- A floating-point format: exponent bits and fraction bits (02, Floating-point formats). -/
structure FpFmt where
  eb : Nat
  fb : Nat
  deriving DecidableEq, Repr

/-- FP32. -/
def fp32 : FpFmt := { eb := 8, fb := 23 }
/-- BF16. -/
def bf16 : FpFmt := { eb := 8, fb := 7 }
/-- FP16. -/
def fp16 : FpFmt := { eb := 5, fb := 10 }
/-- FP8 E5M2. -/
def e5m2 : FpFmt := { eb := 5, fb := 2 }

/-- The exponent bias. -/
def FpFmt.bias (f : FpFmt) : Nat := 2 ^ (f.eb - 1) - 1

/-- The exponent of the format's smallest subnormal. -/
def FpFmt.qmin (f : FpFmt) : Int := 1 - (f.bias : Int) - f.fb

/-- The exact value of a pattern of an IEEE-like format (02 R36). -/
def unpackFp (f : FpFmt) (w : Nat) : FVal :=
  let neg := w / 2 ^ (f.eb + f.fb) % 2 == 1
  let x := w / 2 ^ f.fb % 2 ^ f.eb
  let fr := w % 2 ^ f.fb
  if x = 2 ^ f.eb - 1 then (if fr = 0 then .inf neg else .nan)
  else if x = 0 then .fin neg fr f.qmin
  else .fin neg (2 ^ f.fb + fr) (f.qmin + (x - 1 : Nat))

/-- The exact value of an FP8 E4M3 pattern: no infinity, NaN is 0xF with fraction 7. -/
def unpackE4m3 (w : Nat) : FVal :=
  let neg := w / 128 % 2 == 1
  let x := w / 8 % 16
  let fr := w % 8
  if x = 15 ∧ fr = 7 then .nan
  else if x = 0 then .fin neg fr (-9)
  else .fin neg (8 + fr) (-9 + (x - 1 : Nat))

/-- The exact value of an MXFP4 (E2M1) pattern. -/
def unpackE2m1 (w : Nat) : FVal :=
  let neg := w / 8 % 2 == 1
  let x := w / 2 % 4
  let fr := w % 2
  if x = 0 then .fin neg fr (-1) else .fin neg (2 + fr) (-1 + (x - 1 : Nat))

/-- The pattern with a sign and a magnitude field. -/
def packFp (f : FpFmt) (neg : Bool) (mag : Nat) : Nat := (if neg then 2 ^ (f.eb + f.fb) else 0) + mag

/-- The largest finite magnitude field. -/
def maxFinite (f : FpFmt) : Nat := (2 ^ f.eb - 1) * 2 ^ f.fb - 1

/-- The magnitude field of n × 2^q, q at or above the format's smallest exponent and n at most one bit over its precision. -/
def magField (f : FpFmt) (n : Nat) (q : Int) : Nat := (q - f.qmin).toNat * 2 ^ f.fb + n

/-- Conversion of an exact value to a floating-point format: pattern and flags (02 R56). -/
def toFp (f : FpFmt) (round : BitVec 2) (r : BitVec 32) (v : FVal) : Nat × Byte :=
  match v with
  | .nan => ((2 ^ f.eb - 1) * 2 ^ f.fb + 2 ^ (f.fb - 1), flagInvalid)
  | .inf neg => (packFp f neg (maxFinite f), flagSat)
  | .fin neg 0 _ => (packFp f neg 0, 0)
  | .fin neg m e =>
    let qu := topBit m e - f.fb
    let nu := (roundAt round r m e qu).1
    if topBit nu qu > f.bias then (packFp f neg (maxFinite f), flagSat)
    else
      let q := max qu f.qmin
      let (n, inexact) := roundAt round r m e q
      let tiny := topBit nu qu < 1 - (f.bias : Int)
      (packFp f neg (magField f n q), if inexact && tiny then flagUnderflow else 0)

/-- The FP32 result of exact arithmetic under IEEE 754 round-to-nearest-even: infinities are produced, a NaN is the
canonical quiet NaN (04 R123). -/
def ieee32 (v : FVal) : BitVec 32 :=
  match v with
  | .nan => 0x7FC00000
  | .inf neg => BitVec.ofNat 32 (packFp fp32 neg 0x7F800000)
  | .fin neg 0 _ => BitVec.ofNat 32 (packFp fp32 neg 0)
  | .fin neg m e =>
    let q := max (topBit m e - 23) fp32.qmin
    let mag := magField fp32 (roundAt 0 0 m e q).1 q
    BitVec.ofNat 32 (packFp fp32 neg (min mag 0x7F800000))

/-- The exact value of an FP32 word. -/
def f32 (w : BitVec 32) : FVal := unpackFp fp32 w.toNat

/-- Exact sum of two exact values; an exact zero sum is +0 unless both are −0 (IEEE 754 under RNE). -/
def fvalAdd (a b : FVal) : FVal :=
  match a, b with
  | .nan, _ => .nan
  | _, .nan => .nan
  | .inf x, .inf y => if x = y then .inf x else .nan
  | .inf x, _ => .inf x
  | _, .inf y => .inf y
  | .fin x m e, .fin y m' e' =>
    let q := min e e'
    let s := signedMag x (m * 2 ^ (e - q).toNat) + signedMag y (m' * 2 ^ (e' - q).toNat)
    if s = 0 then .fin (x && y) 0 q else .fin (decide (s < 0)) s.natAbs q

/-- The value with its sign inverted. -/
def fvalNeg (a : FVal) : FVal :=
  match a with
  | .nan => .nan
  | .inf x => .inf !x
  | .fin x m e => .fin (!x) m e

/-- Exact product. -/
def fvalMul (a b : FVal) : FVal :=
  match a, b with
  | .nan, _ => .nan
  | _, .nan => .nan
  | .inf x, .inf y => .inf (x != y)
  | .inf x, .fin y m _ => if m = 0 then .nan else .inf (x != y)
  | .fin x m _, .inf y => if m = 0 then .nan else .inf (x != y)
  | .fin x m e, .fin y m' e' => .fin (x != y) (m * m') (e + e')

/-- Whether m × 2^e ≤ m' × 2^e'. -/
def magLe (m : Nat) (e : Int) (m' : Nat) (e' : Int) : Bool :=
  let q := min e e'
  decide (m * 2 ^ (e - q).toNat ≤ m' * 2 ^ (e' - q).toNat)

/-- Rank of a value that is no NaN against another: less, by value. -/
def fvalLt (a b : FVal) : Bool :=
  match a, b with
  | .inf x, .inf y => x && !y
  | .inf x, .fin .. => x
  | .fin .., .inf y => !y
  | .fin x m e, .fin y m' e' =>
    let q := min e e'
    decide (signedMag x (m * 2 ^ (e - q).toNat) < signedMag y (m' * 2 ^ (e' - q).toNat))
  | _, _ => false

/-- Conversion to an integer target of codes from `lo` to `hi` in units of 2^q: code and flags (02 R56). -/
def toCode (lo hi : Int) (round : BitVec 2) (r : BitVec 32) (v : FVal) (q : Int) : Int × Byte :=
  match v with
  | .nan => (0, flagInvalid)
  | .inf neg => (if neg then lo else hi, flagSat)
  | .fin neg m e =>
    let x := signedMag neg (roundAt round r m e q).1
    if x < lo then (lo, flagSat)
    else if hi < x then (hi, flagSat)
    else if x = 0 ∧ m ≠ 0 then (0, flagUnderflow)
    else (x, 0)

/-- Conversion to X32 or X64 of width w at scale exponent q: always to nearest-even (02 R49, R61). -/
def toExchange (w : Nat) (v : FVal) (q : Int) : Int × Byte :=
  let (x, fl) := toCode (-(2 ^ (w - 1))) (2 ^ (w - 1) - 1) 0 0 v q
  match v with
  | .fin _ m e => if fl &&& flagSat = 0 ∧ (roundAt 0 0 m e q).2 then (x, fl ||| flagXInexact) else (x, fl)
  | _ => (x, fl)

/-- Format codes 0 to 5 are the B formats (06 R170). -/
def isB (fmt : Nat) : Bool := fmt < 6

/-- Width in bits of an element by format code (02, 06 R170); 0 for a reserved code. -/
def fmtBits (fmt : Nat) : Nat :=
  match fmt with
  | 0 | 1 => 4
  | 2 | 3 => 8
  | 4 | 5 => 16
  | 6 => 32
  | 7 | 8 => 16
  | 9 => 32
  | 10 => 64
  | 11 => 128
  | 12 => 32
  | 16 | 17 | 18 | 19 | 20 => 8
  | 21 => 4
  | _ => 0

/-- Whether a B format's codes are signed (02 R31). -/
def bSigned (fmt : Nat) : Bool := fmt % 2 == 0

/-- Least and greatest code of a B format (02 R31). -/
def bRange (fmt : Nat) : Int × Int :=
  let w := fmtBits fmt
  if bSigned fmt then (-(2 ^ (w - 1)), 2 ^ (w - 1) - 1) else (0, 2 ^ w - 1)

/-- Selection bound of a B format (02 R31). -/
def bMax (fmt : Nat) : Nat := (bRange fmt).2.toNat

/-- The code that the low w bits of a number hold, signed or not. -/
def codeOf (w : Nat) (signed : Bool) (x : Nat) : Int :=
  let y := x % 2 ^ w
  if signed ∧ 2 ^ (w - 1) ≤ y then (y : Int) - 2 ^ w else y

/-- The fine scale that a scale byte holds; none when bits [7:5] are not all 0 (02 R32, R33). -/
def fineOf (b : Byte) : Option Int := if b.toNat / 32 = 0 then some (codeOf 5 true b.toNat) else none

/-- The scale byte of a fine scale. -/
def fineByte (f : Int) : Byte := BitVec.ofInt 8 (f % 32)

/-- A signed byte's value. -/
def sbyte (b : Byte) : Int := b.toInt

/-- Exact value of a B code under its coarse and fine scale (02 R30). -/
def bVal (q : Int) (c f : Int) : FVal := fvalOfInt q (c + f)

/-- Largest finite magnitude of a list, as magnitude and exponent (02 R58). -/
def amaxOf (vs : List FVal) : Nat × Int :=
  vs.foldl (fun a v => match v with
    | .fin _ m e => if m = 0 then a else if a.1 = 0 then (m, e) else if magLe m e a.1 a.2 then a else (m, e)
    | _ => a) (0, 0)

/-- Fine scale chosen for a block: the smallest f for which amax ≤ qmax × 2^(c+f); +15 when none (02 R58). -/
def chooseFine (qmax : Nat) (c : Int) (amax : Nat × Int) : Int :=
  if amax.1 = 0 then -16
  else
    match (List.range 32).find? (fun (i : Nat) => magLe amax.1 amax.2 qmax (c + (i : Int) - 16)) with
    | some i => (i : Int) - 16
    | none => 15

/-- The quarter round of RFC 8439 on words a, b, c, d. -/
def quarterWords (a b c d : BitVec 32) : BitVec 32 × BitVec 32 × BitVec 32 × BitVec 32 :=
  let a := a + b
  let d := (d ^^^ a).rotateLeft 16
  let c := c + d
  let b := (b ^^^ c).rotateLeft 12
  let a := a + b
  let d := (d ^^^ a).rotateLeft 8
  let c := c + d
  let b := (b ^^^ c).rotateLeft 7
  (a, b, c, d)

/-- The quarter round on four places of a state (02 R50). -/
def quarter (x : Vector (BitVec 32) 16) (i j k l : Fin 16) : Vector (BitVec 32) 16 :=
  let (a, b, c, d) := quarterWords x[i] x[j] x[k] x[l]
  (((x.set i a).set j b).set k c).set l d

/-- One double round (02 R50). -/
def doubleRound (x : Vector (BitVec 32) 16) : Vector (BitVec 32) 16 :=
  let x := quarter (quarter (quarter (quarter x 0 4 8 12) 1 5 9 13) 2 6 10 14) 3 7 11 15
  quarter (quarter (quarter (quarter x 0 5 10 15) 1 6 11 12) 2 7 8 13) 3 4 9 14

/-- The state of ChaCha8 for a key, a counter word and the three words after it (02 R50). -/
def chachaState (key : BitVec 256) (w12 w13 w14 w15 : BitVec 32) : Vector (BitVec 32) 16 :=
  #v[0x61707865, 0x3320646E, 0x79622D32, 0x6B206574,
     key.extractLsb' 0 32, key.extractLsb' 32 32, key.extractLsb' 64 32, key.extractLsb' 96 32,
     key.extractLsb' 128 32, key.extractLsb' 160 32, key.extractLsb' 192 32, key.extractLsb' 224 32,
     w12, w13, w14, w15]

/-- Word 0 of the ChaCha8 block (02 R50). -/
def chacha8 (key : BitVec 256) (w12 w13 w14 w15 : BitVec 32) : BitVec 32 :=
  let s := chachaState key w12 w13 w14 w15
  let x := doubleRound (doubleRound (doubleRound (doubleRound s)))
  x[0] + s[0]

/-- The random word of an element (02 R50 to R52). -/
def srWord (key : BitVec 256) (tid : BitVec 64) (step index : BitVec 32) : BitVec 32 :=
  chacha8 key index (tid.extractLsb' 0 32) (tid.extractLsb' 32 32) step

/-- The random word of event j of a compact row for an element (03 R84). -/
def srCompact (key : BitVec 256) (tid : BitVec 64) (step index : BitVec 32) (j : Nat) : BitVec 32 :=
  chacha8 key index (tid.extractLsb' 0 32) (BitVec.ofNat 32 (2 ^ 31 + j % 2 ^ 31)) step

/-- Value and flags of an MW40 element (02 R40, R41). -/
def mwVal (hi : BitVec 32) (ext : BitVec 16) : FVal × Byte :=
  match f32 hi with
  | .fin neg m e =>
    if m = 0 then (if ext = 0 then (.fin neg 0 e, 0) else (.fin false 0 e, flagInvalid))
    else (.fin neg (2 ^ 16 * m + ext.toNat) (e - 16), 0)
  | _ => (.fin false 0 0, flagInvalid)

/-- An exact value rounded to MW40: hi, ext and flags (02 R56, R62). A nonzero value below the smallest FP32 magnitude has
no hi but ±0, whose ext R41 fixes at 0: it becomes that zero, with UNDERFLOW (DESIGN CHOICE, log 11). -/
def toMw (round : BitVec 2) (r : BitVec 32) (v : FVal) : BitVec 32 × BitVec 16 × Byte :=
  match v with
  | .nan => (0, 0, flagInvalid)
  | .inf neg => (BitVec.ofNat 32 (packFp fp32 neg (maxFinite fp32)), 0xFFFF, flagSat)
  | .fin neg 0 _ => (BitVec.ofNat 32 (packFp fp32 neg 0), 0, 0)
  | .fin neg m e =>
    let qu := topBit m e - 39
    let nu := (roundAt round r m e qu).1
    if topBit nu qu > 127 then (BitVec.ofNat 32 (packFp fp32 neg (maxFinite fp32)), 0xFFFF, flagSat)
    else
      let q := max qu (-165)
      let (n, inexact) := roundAt round r m e q
      let mag := 2 ^ 23 * (q + 165).toNat + n / 2 ^ 16
      let tiny := topBit nu qu < -126
      if mag = 0 then (BitVec.ofNat 32 (packFp fp32 neg 0), 0, flagUnderflow)
      else
        (BitVec.ofNat 32 (packFp fp32 neg mag), BitVec.ofNat 16 (n % 2 ^ 16),
         if inexact && tiny then flagUnderflow else 0)

/-- The stored MW40 element with a delta added: hi, ext and flags (02 R62). A zero sum keeps the sign rule of IEEE 754. -/
def mwAdd (round : BitVec 2) (r : BitVec 32) (hi : BitVec 32) (ext : BitVec 16) (d : FVal) :
    BitVec 32 × BitVec 16 × Byte :=
  let (x, fl) := mwVal hi ext
  let (h, e, fl') := toMw round r (fvalAdd x d)
  (h, e, fl ||| fl')

/-- Integer square root of n to the given number of bits, by bits from the top. -/
def isqrtBits (n : Nat) (bits acc : Nat) : Nat :=
  match bits with
  | 0 => acc
  | b + 1 => if (acc + 2 ^ b) * (acc + 2 ^ b) ≤ n then isqrtBits n b (acc + 2 ^ b) else isqrtBits n b acc

end Sys2Proof.Machine
end

