-- ==== Sys2Proof/Machine/Convert.lean ====
section
/-! DEFINITION. Conversions between formats, element by element and block by block (02 R56 to R63, 04 R107 to R111,
08 R239 to R241). -/

namespace Sys2Proof.Machine

/-- FP formats by format code: 6 FP32, 7 BF16, 8 FP16. -/
def fpFmtOf (fmt : Nat) : FpFmt := if fmt = 7 then bf16 else if fmt = 8 then fp16 else fp32

/-- Whether 02 R57 lists a pair of format codes for VCVT and for a converting descriptor. B to B is listed for another format or coarse
scale: the same format at the same scale is told apart by the caller. -/
def pairOk (s d : Nat) : Bool :=
  if isB s then isB d || d == 6 || d == 7 || d == 8
  else
    match s with
    | 6 => isB d || d == 7 || d == 8 || d == 9 || d == 10 || d == 12
    | 7 => isB d || d == 6 || d == 8
    | 8 => isB d || d == 6 || d == 7
    | 9 | 10 | 11 => d == 6
    | 12 => d == 6 || isB d
    | 16 | 17 => isB d || d == 6 || d == 7 || d == 8
    | _ => false

/-- The pairs of an MX element type and a B target that 02 R60 lists, with k. -/
def mxK (s d : Nat) : Option Int :=
  match s, d with
  | 18, 2 | 18, 4 => some (-6)
  | 21, 2 | 21, 4 => some (-1)
  | 21, 0 => some 0
  | 19, 2 => some 2
  | 19, 4 => some (-6)
  | 20, 2 => some 9
  | 20, 4 => some 1
  | _, _ => none

/-- Exact value of a scalar element: its format code, its pattern, the scale exponent of an exchange or image format, the
ext of an MW40 element; with the flags that reading it raises (02 R41). -/
def scalarVal (fmt : Nat) (bits : Nat) (q : Int) (ext : BitVec 16) : FVal × Byte :=
  match fmt with
  | 6 => (unpackFp fp32 bits, 0)
  | 7 => (unpackFp bf16 bits, 0)
  | 8 => (unpackFp fp16 bits, 0)
  | 9 => (fvalOfInt (codeOf 32 true bits) q, 0)
  | 10 => (fvalOfInt (codeOf 64 true bits) q, 0)
  | 11 => (fvalOfInt (codeOf 128 true bits) q, 0)
  | 12 => mwVal (BitVec.ofNat 32 bits) ext
  | 16 | 19 => (unpackE4m3 bits, 0)
  | 17 | 20 => (unpackFp e5m2 bits, 0)
  | 18 => (fvalOfInt (codeOf 8 true bits) (-6), 0)
  | 21 => (unpackE2m1 bits, 0)
  | _ => (.fin false 0 0, 0)

/-- Exact value of a B element under its coarse scale and scale byte; a reserved byte gives 0 and RANGE (02 R30, R33). -/
def bElem (fmt : Nat) (bits : Nat) (c : Int) (sb : Byte) : FVal × Byte :=
  match fineOf sb with
  | some f => (bVal (codeOf (fmtBits fmt) (bSigned fmt) bits) c f, 0)
  | none => (.fin false 0 0, flagRange)

/-- Codes of elements for a B target at a fine scale, with flags (02 R59). -/
def codesAt (fmt : Nat) (c f : Int) (round : BitVec 2) (es : List (FVal × BitVec 32)) : List (Int × Byte) :=
  es.map fun (v, r) => toCode (bRange fmt).1 (bRange fmt).2 round r v (c + f)

/-- The flags of a list of results. -/
def orFlags (xs : List Byte) : Byte := xs.foldl (· ||| ·) 0

/-- A block of elements to a B target: fine scale by 02 R58 over `wide` (the block, or its whole square), codes, flags. -/
def toBlock (fmt : Nat) (c : Int) (round : BitVec 2) (wide : List FVal) (es : List (FVal × BitVec 32)) :
    Int × List Int × Byte :=
  let f := chooseFine (bMax fmt) c (amaxOf wide)
  let rs := codesAt fmt c f round es
  (f, rs.map (·.1), orFlags (rs.map (·.2)))

/-- A block of MX elements to a signed B target by 02 R60: scale byte x, k of the pair. A block with scale byte 0xFF is NaN
(R39): every code is 0 with INVALID; the spec gives its fine scale no value. An infinity of MXFP8 E5M2 sets SAT, by R56: DEDUCED (log 123),
as the row of R57 lists RANGE, UNDERFLOW and INVALID alone. -/
def mxBlock (fmt : Nat) (c k : Int) (x : Byte) (round : BitVec 2) (es : List (FVal × BitVec 32)) : Int × List Int × Byte :=
  if x = 0xFF then ((Config.freeValue 1 c.toNat % 32 : Nat) - 16, es.map fun _ => 0, flagInvalid)
  else
    let f := (x.toNat : Int) - 127 + k - c
    let f' := max (-16) (min 15 f)
    let (lo, hi) := bRange fmt
    let rs := es.map fun (v, r) => toCode lo hi round r v (k + f' - f)
    let fl := orFlags (rs.map (·.2))
    (f', rs.map (·.1), if f = f' then fl else (fl &&& flagInvalid) ||| flagRange)

/-- A scalar target by format code: pattern, ext of an MW40 target, flags (02 R56, R61, R62). -/
def scalarTo (fmt : Nat) (round : BitVec 2) (r : BitVec 32) (q : Int) (v : FVal) : Nat × BitVec 16 × Byte :=
  match fmt with
  | 9 => let (x, fl) := toExchange 32 v q; ((x % 2 ^ 32).toNat, 0, fl)
  | 10 => let (x, fl) := toExchange 64 v q; ((x % 2 ^ 64).toNat, 0, fl)
  | 12 => let (h, e, fl) := toMw round r v; (h.toNat, e, fl)
  | _ => let (x, fl) := toFp (fpFmtOf fmt) round r v; (x, 0, fl)

/-- Elements packed from bit 0 up, w bits each (02 R29). -/
def packBits (w : Nat) (xs : List Nat) : Nat := xs.foldr (fun x acc => acc * 2 ^ w + x % 2 ^ w) 0

/-- Codes packed from bit 0 up. -/
def packCodes (w : Nat) (xs : List Int) : Nat := packBits w (xs.map fun x => (x % 2 ^ w).toNat)

/-- A list cut into pieces of n. -/
def chunksOf {α : Type} (fuel n : Nat) (xs : List α) : List (List α) :=
  match fuel with
  | 0 => []
  | k + 1 => if xs.isEmpty then [] else xs.take n :: chunksOf k n (xs.drop n)

/-- The 256-bit words of a packed number. -/
def wordsOfNat (n x : Nat) : List Data := (List.range n).map fun k => BitVec.ofNat 256 (x / 2 ^ (256 * k))

/-- High and low byte of a B16 code (02 R35). -/
def splitB16 (x : Int) : Int × Int := (x / 256, x % 256)

/-- The modulus of fingerprints and of reduction checksums (14 R427, 11 R340). -/
def fpMod : Nat := 2 ^ 61 - 1

/-- The integer that an element adds to a fingerprint, before its index: format code, pattern, fine scale of its block, ext
(14 R427). -/
def fpElem (fmt bits : Nat) (fine : Int) (ext : BitVec 16) : Int :=
  if isB fmt then codeOf (fmtBits fmt) (bSigned fmt) bits * 2 ^ (fine + 16).toNat
  else if fmt = 12 then 2 ^ 16 * codeOf 32 true bits + (ext.toNat : Int)
  else codeOf (fmtBits fmt) true bits

/-- A term of a fingerprint: (I + 1) × x modulo p (14 R427). -/
def fpTerm (index : Nat) (x : Int) : Nat := (((index : Int) + 1) * x % (fpMod : Int)).toNat

/-- A sum modulo p. -/
def fpAdd (a b : Nat) : Nat := (a + b) % fpMod

/-- A key of the top-k order: by signed value or by magnitude; larger first, equal keys by the lower index (04 R110, 03 R89). A NaN cannot
arise from a drain's conversion; one in a prior list is neither above nor below any key, so that the lower index goes first: DESIGN CHOICE
(log 101), as 04 R112 does not order it. -/
def topkBefore (fmt : Nat) (signed : Bool) (a b : Nat × Nat) : Bool :=
  let key := fun (x : Nat) => match unpackFp (fpFmtOf fmt) x with
    | .fin neg m e => if signed then FVal.fin neg m e else FVal.fin false m e
    | .inf neg => .inf (signed && neg)
    | .nan => .nan
  if fvalLt (key b.1) (key a.1) then true
  else if fvalLt (key a.1) (key b.1) then false
  else decide (a.2 ≤ b.2)

/-- Insertion into a list in top-k order. -/
def topkInsert (fmt : Nat) (signed : Bool) (a : Nat × Nat) (l : List (Nat × Nat)) : List (Nat × Nat) :=
  match l with
  | [] => [a]
  | b :: r => if topkBefore fmt signed a b then a :: b :: r else b :: topkInsert fmt signed a r

/-- The k entries with the largest keys, in order: pairs of value pattern and logical N index (04 R110 to R112). -/
def topkOf (fmt : Nat) (signed : Bool) (k : Nat) (xs : List (Nat × Nat)) : List (Nat × Nat) :=
  (xs.foldl (fun l a => topkInsert fmt signed a l) []).take k

/-- The four words of a list of at most 16 entries: value in bytes 0 to 3, index in bytes 4 to 7; unused entries hold value 0
and index 0xFFFF_FFFF (04 R111). -/
def topkWords (l : List (Nat × Nat)) : List Data :=
  let es := l ++ List.replicate (16 - l.length) (0, 0xFFFFFFFF)
  wordsOfNat 4 (packBits 64 (es.map fun (v, i) => v + 2 ^ 32 * i))

/-- The entries of a stored list that take part: those whose index is not 0xFFFF_FFFF (04 R112). -/
def topkRead (fmt : Nat) (ws : List Data) : List (Nat × Nat) :=
  let x := packBits 256 (ws.map (·.toNat))
  ((List.range 16).map fun i => (bitsOf x (64 * i) (if fmt = 6 then 32 else 16), bitsOf x (64 * i + 32) 32)).filter
    (fun e => e.2 ≠ 0xFFFFFFFF)

end Sys2Proof.Machine
end

