-- ==== Sys2Proof/Machine/Vu.lean ====
section
/-! DEFINITION. The vector unit's arithmetic on register values (04 R121 to R129, 06 R197 to R202): pure functions. -/

namespace Sys2Proof.Machine

/-- Lane i of a register. -/
def lane (v : BitVec 2048) (i : Nat) : BitVec 32 := v.extractLsb' (32 * i) 32

/-- A register from its lanes. -/
def ofLanes (f : Nat → BitVec 32) : BitVec 2048 :=
  BitVec.ofNat 2048 (packBits 32 ((List.range 64).map fun i => (f i).toNat))

/-- A register from 64-bit or 128-bit elements. -/
def ofElems (w : Nat) (f : Nat → Nat) : BitVec 2048 := BitVec.ofNat 2048 (packBits w ((List.range (2048 / w)).map f))

/-- Element i of width w of a register. -/
def elem (w : Nat) (v : BitVec 2048) (i : Nat) : Nat := bitsOf v.toNat (w * i) w

/-- The mask with a bit for each lane that satisfies a test. -/
def laneMask (f : Nat → Bool) : BitVec 64 := BitVec.ofNat 64 (packBits 1 ((List.range 64).map fun i => if f i then 1 else 0))

/-- Words of a register with an enabled lane. -/
def wordsTouched (m : BitVec 64) : BitVec 8 :=
  BitVec.ofNat 8 (packBits 1 ((List.range 8).map fun w => if bitsOf m.toNat (8 * w) 8 = 0 then 0 else 1))

/-- Words of a register with every lane enabled. -/
def wordsFull (m : BitVec 64) : BitVec 8 :=
  BitVec.ofNat 8 (packBits 1 ((List.range 8).map fun w => if bitsOf m.toNat (8 * w) 8 = 255 then 1 else 0))

/-- The 2,048-bit mask of a lane mask. -/
def laneBits (m : BitVec 64) : BitVec 2048 := ofLanes fun i => if m.getLsbD i then 0xFFFFFFFF else 0

/-- A register with the enabled lanes written. A word keeps its mark unless every lane of it is written with clean data
(06 R195, 09 R269, R276). -/
def writeLanes (r : VReg) (m : BitVec 64) (data : BitVec 2048) (poison : BitVec 8) : VReg :=
  { data := (r.data &&& ~~~ laneBits m) ||| (data &&& laneBits m),
    poison := (r.poison &&& ~~~ wordsFull m) ||| (poison &&& wordsTouched m) }

/-- Bits of a register covered by 16-bit halves. -/
def halfBits (m : BitVec 128) : BitVec 2048 := ofElems 16 fun i => if m.getLsbD i then 0xFFFF else 0

/-- Words of a register in which every half, or some half, is named. -/
def halfWords (m : BitVec 128) (all : Bool) : BitVec 8 :=
  BitVec.ofNat 8 (packBits 1 ((List.range 8).map fun w =>
    let x := bitsOf m.toNat (16 * w) 16
    if (if all then x = 0xFFFF else x ≠ 0) then 1 else 0))

/-- A register with the named halves written; marks as for lanes (06 R195, 09 R269, R276). -/
def writeHalves (r : VReg) (m : BitVec 128) (data : BitVec 2048) (poison : BitVec 8) : VReg :=
  { data := (r.data &&& ~~~ halfBits m) ||| (data &&& halfBits m),
    poison := (r.poison &&& ~~~ halfWords m true) ||| (poison &&& halfWords m false) }

/-- Whether an FP32 word is a NaN. -/
def isNan32 (x : BitVec 32) : Bool := f32 x == .nan

/-- MIN or MAX of two FP32 words: the other operand for one NaN, the canonical NaN for two; −0 is below +0 (06 R197). -/
def minMax32 (max : Bool) (x y : BitVec 32) : BitVec 32 :=
  if isNan32 x ∧ isNan32 y then 0x7FC00000
  else if isNan32 x then y
  else if isNan32 y then x
  else
    let less := fvalLt (f32 x) (f32 y) || (!fvalLt (f32 y) (f32 x) && x.msb && !y.msb)
    if less = max then y else x

/-- A compare of two FP32 words: FN 8 EQ, 9 NE, 10 LT, 11 LE (06 R197). -/
def cmp32 (fn : Nat) (x y : BitVec 32) : Bool :=
  if isNan32 x || isNan32 y then fn == 9
  else
    let lt := fvalLt (f32 x) (f32 y)
    let gt := fvalLt (f32 y) (f32 x)
    match fn with
    | 8 => !lt && !gt
    | 9 => lt || gt
    | 10 => lt
    | _ => !gt

/-- An admissible result of a function within one unit in the last place: the truncated magnitude field `t` or the next one,
and also the one before where the truncated value is exact; which one is the free choice of the function (04 R125). -/
def within1 (fn : Nat) (x : BitVec 32) (neg exact : Bool) (t : Nat) : BitVec 32 :=
  let k := Config.vuChoice fn x
  let mag := if exact then (if k % 3 = 0 then t else if k % 3 = 1 then t + 1 else t - 1) else t + k % 2
  BitVec.ofNat 32 (packFp fp32 neg (min mag 0x7F800000))

/-- The truncated FP32 magnitude field of m × 2^e and whether it is exact. -/
def truncField (m : Nat) (e : Int) : Nat × Bool :=
  if m = 0 then (0, true)
  else
    let q := max (topBit m e - 23) fp32.qmin
    let (n, inexact) := roundAt 1 0 m e q
    (magField fp32 n q, !inexact)

/-- 2^(2^−i) for i from 1 up, in units of 2^−96, truncated: successive square roots. -/
def exp2Consts (n : Nat) (c : Nat) : List Nat :=
  match n with
  | 0 => []
  | k + 1 => let r := isqrtBits (2 ^ 96 * c) 98 0; r :: exp2Consts k r

/-- 2^(F / 2^64) in units of 2^−96, truncated, over the bits of F from the top. -/
def exp2Frac (cs : List Nat) (f bitNo acc : Nat) : Nat :=
  match cs with
  | [] => acc
  | c :: r => exp2Frac r f (bitNo - 1) (if f / 2 ^ bitNo % 2 = 1 then acc * c / 2 ^ 96 else acc)

/-- Fraction bits of the base-2 logarithm of z in [1, 2), z in units of 2^−96, by repeated squaring. -/
def log2Bits (n z acc : Nat) : Nat :=
  match n with
  | 0 => acc
  | k + 1 =>
    let z2 := z * z / 2 ^ 96
    if 2 ^ 97 ≤ z2 then log2Bits k (z2 / 2) (2 * acc + 1) else log2Bits k z2 (2 * acc)

/-- An FP32 infinity or zero of a sign, and the canonical quiet NaN (04 R123). -/
def inf32 (neg : Bool) : BitVec 32 := if neg then 0xFF800000 else 0x7F800000

@[inherit_doc inf32] def zero32 (neg : Bool) : BitVec 32 := if neg then 0x80000000 else 0

@[inherit_doc inf32] def nan32 : BitVec 32 := 0x7FC00000

/-- A VU function of an infinity (04 R123; DEDUCED, log 122). -/
def vuFunInf (fn : Nat) (neg : Bool) : BitVec 32 :=
  match fn with
  | 16 => zero32 neg
  | 17 => if neg then nan32 else zero32 false
  | 18 => if neg then zero32 false else inf32 false
  | _ => if neg then nan32 else inf32 false

/-- RCP, RSQRT, EXP2, LOG2 (FN 16 to 19) of an FP32 word (04 R125). A NaN gives the canonical NaN. At 0, at infinities and at negative
operands of RSQRT and LOG2 the result is that of IEEE 754, whose arithmetic R123 gives the VU (DEDUCED, log 122). -/
def vuFun (fn : Nat) (x : BitVec 32) : BitVec 32 :=
  match f32 x with
  | .nan => nan32
  | .inf neg => vuFunInf fn neg
  | .fin neg m e =>
    match fn with
    | 16 =>
      if m = 0 then inf32 neg
      else
        let n := 2 ^ 200 / m
        let (t, ex) := truncField n (-200 - e)
        within1 fn x neg (ex && n * m == 2 ^ 200) t
    | 17 =>
      if m = 0 then inf32 neg
      else if neg then nan32
      else
        let (m', e') := if e % 2 = 0 then (m, e) else (2 * m, e - 1)
        let n := 2 ^ 240 / m'
        let s := isqrtBits n 121 0
        let (t, ex) := truncField s (-120 - e' / 2)
        within1 fn x false (ex && s * s * m' == 2 ^ 240) t
    | 18 =>
      let sh := m * 2 ^ (e + 64).toNat / 2 ^ (-(e + 64)).toNat
      let exactShift := decide (-64 ≤ e) || m % 2 ^ (-(e + 64)).toNat == 0
      if 2 ^ 72 ≤ sh then (if neg then within1 fn x false false 0 else within1 fn x false false 0x7F7FFFFF)
      else
        let fixed : Int := if neg then (if exactShift then -(sh : Int) else -(sh : Int) - 1) else sh
        let n := fixed / 2 ^ 64
        let f := (fixed % 2 ^ 64).toNat
        let z := exp2Frac (exp2Consts 64 (2 ^ 97)) f 63 (2 ^ 96)
        let (t, ex) := truncField z (n - 96)
        within1 fn x false (ex && exactShift && f == 0) t
    | _ =>
      if m = 0 then inf32 true
      else if neg then nan32
      else
        let k := Nat.log2 m
        let z := if k ≤ 96 then m * 2 ^ (96 - k) else m / 2 ^ (k - 96)
        let fr := log2Bits 80 z 0
        let total : Int := 2 ^ 80 * ((k : Int) + e) + fr
        let (t, ex) := truncField total.natAbs (-80)
        within1 fn x (decide (total < 0)) (ex && z == 2 ^ 96) t

/-- A VFP function that writes lanes, on one lane (06 R197). -/
def vfpLane (fn : Nat) (x y z : BitVec 32) : BitVec 32 :=
  match fn with
  | 0 => ieee32 (fvalAdd (f32 x) (f32 y))
  | 1 => ieee32 (fvalAdd (f32 x) (fvalNeg (f32 y)))
  | 2 => ieee32 (fvalMul (f32 x) (f32 y))
  | 3 => ieee32 (fvalAdd (fvalMul (f32 x) (f32 y)) (f32 z))
  | 4 => minMax32 false x y
  | 5 => minMax32 true x y
  | 6 => x &&& 0x7FFFFFFF
  | 7 => x ^^^ 0x80000000
  | _ => vuFun fn x

/-- Poison words of a VFP result: those of the operands it reads (04 R124). -/
def vfpPoison (fn : Nat) (a b c : BitVec 8) : BitVec 8 :=
  if fn = 3 then a ||| b ||| c else if fn = 6 ∨ fn = 7 ∨ 16 ≤ fn then a else a ||| b

/-- A VINT operation on elements of width w with a shift count (06 R198). -/
def vintElem (fn w : Nat) (x y cnt : Nat) : Nat :=
  match fn with
  | 0 => (x + y) % 2 ^ w
  | 1 => (x + 2 ^ w - y) % 2 ^ w
  | 2 => x &&& y
  | 3 => x ||| y
  | 4 => x ^^^ y
  | 5 => x * 2 ^ cnt % 2 ^ w
  | 6 => x / 2 ^ cnt
  | 7 => (codeOf w true x / 2 ^ cnt % 2 ^ w).toNat
  | 8 => if codeOf w true x ≤ codeOf w true y then x else y
  | _ => if codeOf w true x ≤ codeOf w true y then y else x

/-- VINT's result and its poison words (06 R198); `sel` is L[VC[2:0]]. SEL takes marks only from operand words that have a selected lane:
DESIGN CHOICE (log 130), as 04 R124 does not say whether a word none of whose lanes is taken marks the result. -/
def vintResult (fn : Nat) (imm : BitVec 13) (sel : BitVec 64) (a b : VReg) : BitVec 2048 × BitVec 8 :=
  let cntImm := imm.toNat % 128
  let useImm := imm.getLsbD 7
  match fn with
  | 10 =>
    (ofLanes fun i => if sel.getLsbD i then lane a.data i else lane b.data i,
     (a.poison &&& wordsTouched sel) ||| (b.poison &&& wordsTouched (~~~ sel)))
  | 11 =>
    (ofLanes fun i => lane a.data 0 + BitVec.ofInt 32 ((i : Int) * (imm.extractLsb' 0 12).toInt),
     if a.poison.getLsbD 0 then 0xFF else 0)
  | 12 => (ofElems 128 fun i => (elem 128 a.data i + elem 128 b.data i) % 2 ^ 128, a.poison ||| b.poison)
  | 13 => (ofElems 128 fun i => elem 128 a.data i * 2 ^ cntImm % 2 ^ 128, a.poison)
  | _ =>
    let w := if imm.getLsbD 12 then 64 else 32
    let shift := fn = 5 ∨ fn = 6 ∨ fn = 7
    (ofElems w fun i =>
      vintElem fn w (elem w a.data i) (elem w b.data i) (if useImm then cntImm else elem w b.data i % 64),
     if shift ∧ useImm then a.poison else a.poison ||| b.poison)

/-- One level of VXL's tree: neighbours summed, each sum rounded to nearest-even (06 R199). -/
def sumPairs (xs : List (BitVec 32)) : List (BitVec 32) :=
  match xs with
  | a :: b :: r => vfpLane 0 a b 0 :: sumPairs r
  | l => l

/-- VXL's result over the enabled lanes (06 R199). -/
def vxlResult (fn : Nat) (m : BitVec 64) (a : BitVec 2048) : BitVec 32 :=
  if fn = 0 then
    let xs := (List.range 64).map fun i => if m.getLsbD i then lane a i else 0
    (sumPairs (sumPairs (sumPairs (sumPairs (sumPairs (sumPairs xs)))))).headD 0
  else
    let xs := ((List.range 64).filter fun i => m.getLsbD i).map fun i => lane a i
    match xs with
    | [] => 0
    | x :: r =>
      let y := r.foldl (minMax32 (fn == 1)) x
      if isNan32 y then 0x7FC00000 else y

/-- Whether any enabled lane lies in a poisoned word. -/
def poisonIn (m : BitVec 64) (p : BitVec 8) : Bool := (wordsTouched m &&& p) != 0

/-- Elements of a VCVT (06 R200): 64, 32 beside X64, 16 beside X128. -/
def cvtCount (s d : Nat) : Nat := if s = 11 ∨ d = 11 then 16 else if s = 10 ∨ d = 10 then 32 else 64

/-- Formats whose companion lies in the next register (06 R200). -/
def paired (fmt : Nat) : Bool := isB fmt || fmt == 12

/-- What VCVT writes: data and mask and poison of `VD`, the same of `VD` + 1, flags (06 R200). `rnd i` is the random word of
element i. -/
structure CvtResult where
  data    : BitVec 2048
  mask    : BitVec 64
  poison  : BitVec 8
  aux     : BitVec 2048
  auxMask : BitVec 64
  auxPoison : BitVec 8
  flags   : Byte

/-- A set of words, by the word index of each marked element. -/
def markWords (f : Nat → Nat) (marks : List Bool) : BitVec 8 :=
  ((List.range marks.length).zip marks).foldl
    (fun acc (i, p) => if p then acc ||| BitVec.ofNat 8 (2 ^ f i) else acc) 0

/-- VCVT from format s to format d (06 R200); `cpsn` marks the words of VC, whose lanes SR reads (04 R124). An MW40 or B element of a poisoned
word raises what the word's zeros give: DESIGN CHOICE (log 103), the spec does not say. For a B target bytes 2 and 3 of lane 0 of VD + 1, which
hold no fine scale, are written as 0: DESIGN CHOICE (log 128), as R200 writes that lane and names two bytes of it. -/
def cvtResult (s d : Nat) (w : CvtF) (lm : BitVec 64) (rnd : Nat → BitVec 32) (cpsn : BitVec 8) (a a1 : VReg) : CvtResult :=
  let n := cvtCount s d
  let ws := fmtBits s
  let wd := fmtBits d
  let q := w.q.toInt
  let src := (List.range n).map fun i =>
    if isB s then bElem s (elem ws a.data i) w.sc.toInt (BitVec.ofNat 8 (elem 8 a1.data (i / 32)))
    else scalarVal s (elem ws a.data i) q (BitVec.ofNat 16 (elem 16 a1.data i))
  let marks := (List.range n).map fun i =>
    a.poison.getLsbD (ws * i / 256) ||
      (if isB s then a1.poison.getLsbD 0 else if s = 12 then a1.poison.getLsbD (16 * i / 256) else false) ||
      (w.round == 2 && d != 9 && d != 10 && cpsn.getLsbD (i / 8))
  let vals := src.map (·.1)
  let sfl := orFlags (src.map (·.2))
  let es := vals.zip ((List.range n).map rnd)
  let dmask := lm &&& BitVec.ofNat 64 (2 ^ ((n * wd + 31) / 32) - 1)
  -- an element marks the words of the destination lanes that hold it and are written
  let kept := fun (w : Nat) (xs : List Bool) => ((List.range xs.length).zip xs).map fun (i, p) =>
    p && (List.range ((w + 31) / 32)).any fun j => lm.getLsbD (w * i / 32 + j)
  if isB d then
    let blocks := (chunksOf 2 32 es).map fun b => toBlock d w.dc.toInt w.round (b.map (·.1)) b
    let bmarks := (chunksOf 2 32 marks).map fun b => b.map fun _ => b.any id
    { data := BitVec.ofNat 2048 (packCodes wd (blocks.flatMap fun b => b.2.1)), mask := dmask,
      poison := markWords (fun i => wd * i / 256) (kept wd bmarks.flatten),
      aux := BitVec.ofNat 2048 (packBits 8 (blocks.map fun b => (fineByte b.1).toNat)), auxMask := lm &&& 1,
      auxPoison := if marks.any id then 1 else 0, flags := sfl ||| orFlags (blocks.map fun b => b.2.2) }
  else
    let rs := es.map fun (v, r) => scalarTo d w.round r q v
    { data := BitVec.ofNat 2048 (packBits wd (rs.map (·.1))), mask := dmask,
      poison := markWords (fun i => wd * i / 256) (kept wd marks),
      aux := BitVec.ofNat 2048 (packBits 16 (rs.map fun r => r.2.1.toNat)),
      auxMask := if d = 12 then lm &&& BitVec.ofNat 64 (2 ^ ((n + 1) / 2) - 1) else 0,
      auxPoison := markWords (fun i => 16 * i / 256) (kept 16 marks), flags := sfl ||| orFlags (rs.map fun r => r.2.2) }

/-- A term for an accumulator from an exact value: none for a NaN or an infinity, which add 0 and set INVALID (06 R201). -/
def termOf (v : FVal) : List (Bool × Nat × Int) × Byte :=
  match v with
  | .fin neg m e => ([(neg, m, e)], 0)
  | _ => ([], flagInvalid)

/-- An accumulator with terms added (02 R45): each term is rounded to nearest-even at 2^E on its own, the sum is exact and
saturates at ±(2²⁵⁵ − 1). -/
def nAdd (a : NAcc) (terms : List (Bool × Nat × Int)) (flags : Byte) (poison : Bool) : NAcc :=
  let e := a.exp.toInt
  let rs := terms.map fun (neg, m, te) => let (n, ix) := roundAt 0 0 m te e; (signedMag neg n, ix)
  let sum := a.value.toInt + (rs.map (·.1)).foldl (· + ·) 0
  let bound : Int := 2 ^ 255 - 1
  let fl := flags ||| (if rs.any (·.2) then flagUnderflow else 0) ||| (if bound < sum ∨ sum < -bound then flagSat else 0)
  { value := BitVec.ofInt 256 (max (-bound) (min bound sum)), exp := a.exp, flags := a.flags ||| fl,
    poison := a.poison || poison }

/-- Exact value of an accumulator. -/
def nVal (a : NAcc) : FVal := fvalOfInt a.value.toInt a.exp.toInt

/-- Elements of a mask word by format: 256, 128, 64 (02 R46). -/
def maskCount (fmt : Nat) : Nat := if fmt = 1 then 256 else if fmt = 2 then 128 else 64

/-- Width of a mask element. -/
def maskBits (fmt : Nat) : Nat := if fmt = 1 then 1 else if fmt = 2 then 2 else 4

end Sys2Proof.Machine
end

