-- ==== Sys2Proof/Machine/CoreOps.lean ====
section
/-! DEFINITION. Operations of one core: streams, halts, tokens, scratchpad reads and writes, logs (04, 05, 09). -/

namespace Sys2Proof.Machine

/-- What a core takes from the module: the job stream key, the enabled-core count, its own physical number. -/
structure CoreEnv where
  key     : BitVec 256
  enabled : Nat
  phys    : Nat

/-- A stream of a core. -/
def Core.stream (c : Core) (s : StreamId) : Stream :=
  match s with
  | .f => c.f
  | .b => c.b
  | .u => c.u

/-- The core with a stream replaced. -/
def Core.setStream (c : Core) (s : StreamId) (st : Stream) : Core :=
  match s with
  | .f => { c with f := st }
  | .b => { c with b := st }
  | .u => { c with u := st }

/-- The core with a stream changed. -/
def Core.modStream (c : Core) (s : StreamId) (f : Stream → Stream) : Core := c.setStream s (f (c.stream s))

/-- A bank of a core. -/
def Core.bank (c : Core) (b : Bool) : Bank := if b then c.bank1 else c.bank0

/-- The core with a bank replaced. -/
def Core.setBank (c : Core) (b : Bool) (k : Bank) : Core := if b then { c with bank1 := k } else { c with bank0 := k }

/-- An instruction memory half of a stream. -/
def Stream.halfOf (st : Stream) (h : Bool) : Half := if h then st.h1 else st.h0

/-- The number of a stream: 0 F, 1 B, 2 U (05 R162). -/
def streamNo (s : StreamId) : Nat :=
  match s with
  | .f => 0
  | .b => 1
  | .u => 2

/-- The least even cycle at or after a cycle. -/
def evenUp (t : Nat) : Nat := t + t % 2

/-- The stream's next VU cycle: even for F and B, odd for U (04 R121). -/
def vuCycle (s : StreamId) (t : Nat) : Nat :=
  match s with
  | .u => if t % 2 = 1 then t else t + 1
  | _ => evenUp t

/-- Units of 1,024 cycles waited at the current TWAIT (05 R159). DESIGN CHOICE (log 127): with `LIMIT` 0 the count wraps at its 24 bits,
as the spec does not say what it does beyond them. -/
def Stream.waited (st : Stream) (now : Nat) : BitVec 24 :=
  if st.state = .waiting then BitVec.ofNat 24 ((now - st.waitFrom) / 1024) else st.wdogCount

/-- A Running or Waiting stream halts with a cause, its program counter left at a word (05 R157). -/
def Stream.haltAt (st : Stream) (now : Nat) (cause : Byte) (pc : BitVec 12) : Stream :=
  if st.state = .running ∨ st.state = .waiting then
    { st with wdogCount := st.waited now, state := .halted, haltCause := cause, pc := pc }
  else st

/-- Whether some channel of the core is Paged: then its watchdogs hold their counts (08 R253). -/
def Core.anyPaged (c : Core) : Bool := (List.range 4).any fun i => (c.ch.toList.getD i Channel.reset).state == .paged

/-- The cycle up to which the watchdogs of a core have counted at a cycle: that in which the first channel became Paged, while one is
(08 R253). -/
def Core.watchAt (c : Core) (t : Nat) : Nat := if c.anyPaged then min t c.pagedFrom else t

/-- A stream of the core halts. -/
def Core.halt (c : Core) (s : StreamId) (cause : Byte) (pc : BitVec 12) : Core :=
  c.modStream s fun st => st.haltAt (c.watchAt c.cycle) cause pc

/-- The stream's program counter passes the n words of an instruction; past word 4,095 the stream halts (05 R143). -/
def Stream.pass (st : Stream) (now n : Nat) : Stream :=
  if st.pc.toNat + n ≤ 4095 then { st with pc := st.pc + BitVec.ofNat 12 n } else st.haltAt now 0x08 4095

/-- The stream of the instruction named halts with a cause, its half and program counter left at that instruction (05 R157, R162). -/
def Core.haltWho (c : Core) (w : Who) (cause : Byte) : Core :=
  c.modStream w.stream fun st =>
    if st.state = .running ∨ st.state = .waiting then { st.haltAt (c.watchAt c.cycle) cause w.pc with half := w.half } else st

/-- Flags are ORed into a stream's flag register (02 R55). -/
def Core.flag (c : Core) (s : StreamId) (fl : Byte) : Core := c.modStream s fun st => { st with flags := st.flags ||| fl }

/-- Insertion into a list in rising order of a key, after the entries of the same key. -/
def insertDue {α : Type} (key : α → Nat) (x : α) (l : List α) : List α :=
  match l with
  | [] => [x]
  | y :: r => if key y ≤ key x then y :: insertDue key x r else x :: y :: r

/-- A post becomes visible in a cycle (05 R148). -/
def Core.postAt (c : Core) (due : Nat) (token : BitVec 5) (count : BitVec 8) : Core :=
  { c with posts := insertDue (·.due) { due := due, token := token, count := count } c.posts }

/-- Resumption of a stream granted in a cycle (05 R150). -/
def Stream.granted (st : Stream) (now : Nat) : Stream :=
  ({ st with state := .running, nextIssue := evenUp (now + 1 + st.waitGap.toNat), wdogCount := 0 } : Stream).pass now 1

/-- One stream's test of its token count: what is left of the counts, and the stream (05 R150). -/
def grantOne (now : Nat) (st : Stream) (counts : Vector Nat 32) : Stream × Vector Nat 32 :=
  let i : Fin 32 := st.waitToken.toFin
  let n := st.waitCount.toNat
  if st.state = .waiting ∧ n ≤ counts[i] then (st.granted now, counts.set i (counts[i] - n)) else (st, counts)

/-- Every waiting stream tests, in the order F, B, U (05 R151). -/
def Core.grants (c : Core) (now : Nat) (counts : Vector Nat 32) : Core × Vector Nat 32 :=
  let (f, counts) := grantOne now c.f counts
  let (b, counts) := grantOne now c.b counts
  let (u, counts) := grantOne now c.u counts
  ({ c with f := f, b := b, u := u }, counts)

/-- The lowest counter above 255, if any: DESIGN CHOICE (log 94), as 05 R149 does not say which of two counters that overflow in one
cycle TOKEN_ERR records. -/
def overIndex (counts : Vector Nat 32) : Option Nat := (List.range 32).find? fun i => decide (255 < counts.toList.getD i 0)

/-- Counters take their counts in a cycle; a counter above 255 is set to 255, with TOVF and a halt of every active stream (05 R149).
A Waiting stream's program counter is left at its TWAIT: DESIGN CHOICE (log 95), as R157 names the next instruction not issued and the
TWAIT has issued. -/
def Core.setCounts (c : Core) (now : Nat) (counts : Vector Nat 32) : Core :=
  let c := { c with tokens := counts.map fun n => BitVec.ofNat 8 (min n 255) }
  match overIndex counts with
  | none => c
  | some i =>
    let c := { c with tovf := true, ovfIndex := if c.tovf then c.ovfIndex else BitVec.ofNat 5 i }
    let stop := fun (st : Stream) => st.haltAt (c.watchAt now) 0x04 st.pc
    { c with f := stop c.f, b := stop c.b, u := stop c.u }

/-- The counters with the posts of a list added, before any counter saturates. -/
def Core.countsWith (c : Core) (vis : List TokenPost) : Vector Nat 32 :=
  vis.foldl (fun (v : Vector Nat 32) p =>
    let i : Fin 32 := p.token.toFin
    v.set i (v[i] + p.count.toNat)) (c.tokens.map BitVec.toNat)

/-- The token unit in a cycle: posts visible in it are added, waiting streams test, counters saturate (05 R147 to R151). -/
def Core.tokenCycle (c : Core) (now : Nat) (vis : List TokenPost) : Core :=
  let (c, counts) := c.grants now (c.countsWith vis)
  c.setCounts now counts

/-- The posts visible in a cycle and not yet in their counters. -/
def Core.visiblePosts (c : Core) (now : Nat) : List TokenPost := c.posts.takeWhile fun q => q.due ≤ now

/-- The token unit from cycle `now` up to, and without, cycle t: one cycle in which posts are visible after the other. A post counts,
and may overflow its counter, in the cycle in which it is visible: DESIGN CHOICE (log 96), as 05 R149 does not say whether it does so
when it is made. -/
def Core.settleTokens (fuel : Nat) (c : Core) (now t : Nat) : Core :=
  match fuel with
  | 0 => c
  | k + 1 =>
    if t ≤ now then c
    else
      let c' := { c with posts := c.posts.dropWhile fun q => q.due ≤ now }.tokenCycle now (c.visiblePosts now)
      match c'.posts with
      | [] => c'
      | p :: _ => settleTokens k c' p.due t

/-- The waiting streams test in the current cycle, in the order F, B, U, with the posts visible in it (05 R150, R151). Where a counter is
above 255 even after the grants, nothing is settled yet: the cycle's end judges the overflow, after every grant of the cycle (R149). -/
def Core.testNow (c : Core) : Core :=
  let (c', counts) := c.grants c.cycle (c.countsWith (c.visiblePosts c.cycle))
  match overIndex counts with
  | some _ => c
  | none =>
    { c' with tokens := counts.map fun n => BitVec.ofNat 8 n, posts := c.posts.dropWhile fun q => q.due ≤ c.cycle }

/-- The core's first-error latch and counts after a decoding outcome (09 R263, R280, R281). Of errors found in one array cycle a static
access's goes before a decoupled one's, and a lower address before a higher among static ones; decoupled accesses come one after
another. -/
def Core.note (c : Core) (o : DecodeOutcome) (raw : CodeWord) (addr : BitVec 21) (decoupled imem rmw : Bool) (s : Nat) : Core :=
  match o with
  | .clean => c
  | .corrected => { c with log := { c.log with ce := if c.log.ce.toNat + 1 < 2 ^ 32 then c.log.ce + 1 else c.log.ce } }
  | .poison => { c with log := { c.log with psn := if c.log.psn.toNat + 1 < 2 ^ 16 then c.log.psn + 1 else c.log.psn } }
  | .uncorrectable =>
    let l := c.log
    let syn := synWord (syndrome raw)
    let take := !l.valid || (l.at_ == some c.cycle && !decoupled && (l.decoupled || decide (addr.toNat < l.addr.toNat)))
    let l' := { l with ue := if l.ue.toNat + 1 < 2 ^ 16 then l.ue + 1 else l.ue }
    { c with
      log := if take then { l' with addr := addr, valid := true, decoupled := decoupled, imem := imem,
                                    stream := BitVec.ofNat 2 s, syn := syn, at_ := some c.cycle } else l'
      ues := c.ues ++ [{ addr := addr, syn := syn, rmw := rmw, imem := imem }] }

/-- The stored word of the scratchpad, decoded: a word found corrected, near poison or uncorrectable is written back
(09 R263 to R266). -/
def Core.decodeSpad (c : Core) (w : Nat) (decoupled : Bool) : RWord × Core :=
  let raw := spGet 0 c.spad w
  let (o, after, rw) := decodeWord raw
  if o = .clean then (rw, c)
  else (rw, { c with spad := spSet 0 c.spad w after }.note o raw (BitVec.ofNat 21 (32 * w)) decoupled false false 0)

/-- The word as a pending write leaves it (04 R119, R120, 09 R268). -/
def overlay (old : RWord) (q : WriteReq) : RWord :=
  if q.poison then { data := 0, poison := true }
  else if q.mask = 0xFFFFFFFF then { data := q.data, poison := false }
  else if old.poison then { data := 0, poison := true }
  else { data := mergeBytes q.mask old.data q.data, poison := false }

/-- The old or the new word for each pending write of it, by free bits (04 R119, R120). -/
def Core.window (env : CoreEnv) (c : Core) (ps : List PendingWrite) (old : RWord) : RWord × Core :=
  ps.foldl (fun (x : RWord × Core) p =>
    (if Config.freeBit (x.2.draws * Config.cores + env.phys) then overlay x.1 p.req else x.1,
     { x.2 with draws := x.2.draws + 1 })) (old, c)

/-- Writes of a word issued and not yet in effect. -/
def Core.pendingOf (c : Core) (w : Nat) : List PendingWrite := c.writes.filter fun p => p.req.word == w && p.issued ≤ c.cycle

/-- The hazard watch sees a static read of a word that some write holds in its window (05 R161). -/
def Core.hazardHit (c : Core) (who : Who) (w : Nat) (p : PendingWrite) : Core :=
  let h := c.hazard
  if h.enable then
    let h' := if h.hit then { h with count := if h.count.toNat + 1 < 2 ^ 16 then h.count + 1 else h.count }
      else { h with hit := true, stream := BitVec.ofNat 2 (streamNo who.stream), half := who.half, pc := who.pc,
                    count := if h.count.toNat + 1 < 2 ^ 16 then h.count + 1 else h.count, addr := BitVec.ofNat 21 (32 * w),
                    narrow := p.req.mask != 0xFFFFFFFF }
    let c := { c with hazard := h' }
    if h.haltOnHit then c.haltWho who 0x0C else c
  else c

/-- A static read of a word (04 R119, R120, 05 R161). Of several writes that hold the word in their windows the one due first gives
`NARROW`: DESIGN CHOICE (log 97), as R161 speaks of one. -/
def Core.readStatic (env : CoreEnv) (c : Core) (who : Who) (w : Nat) : RWord × Core :=
  let (rw, c) := c.decodeSpad w false
  match c.pendingOf w with
  | [] => (rw, c)
  | p :: ps =>
    let (rw, c) := c.window env (p :: ps) rw
    (rw, c.hazardHit who w p)

/-- A read of a word by Qanat, region 0x8 or a debug access: old or new word where a write is pending (01 R22). -/
def Core.readDecoupled (env : CoreEnv) (c : Core) (w : Nat) : RWord × Core :=
  let (rw, c) := c.decodeSpad w true
  c.window env (c.pendingOf w) rw

/-- A write takes effect on the stored word (09 R268, R269). -/
def Core.commit (c : Core) (q : WriteReq) (decoupled : Bool) : Core :=
  let raw := spGet 0 c.spad q.word
  let (o, after) := storeWord raw q.data q.mask q.poison
  let c := { c with spad := spSet 0 c.spad q.word after }
  match o with
  | none => c
  | some o => c.note o raw (BitVec.ofNat 21 (32 * q.word)) decoupled false true 0

/-- A static write of a word is issued: it takes effect 3 cycles later in full, 7 as a narrow write (04 R119, R120). -/
def Core.issueWrite (c : Core) (s : StreamId) (q : WriteReq) : Core :=
  if q.mask = 0 then c
  else
    let due := c.cycle + (if q.mask = 0xFFFFFFFF then 3 else 7)
    { c with writes := insertDue (·.due) { issued := c.cycle, due := due, stream := s, req := q } c.writes }

/-- Writes due up to a cycle take effect, each in its own cycle, in order (09 R281). -/
def Core.settleWrites (c : Core) (t : Nat) : Core :=
  let c' := (c.writes.takeWhile fun p => p.due ≤ t).foldl (fun (c : Core) p => { c with cycle := p.due }.commit p.req false) c
  { c' with writes := c.writes.dropWhile fun p => p.due ≤ t, cycle := c.cycle }

/-- A VU result is put in place (06 R196). -/
def Core.applyVu (c : Core) (w : VuWrite) : Core :=
  match w with
  | .reg r m data words p =>
    let i : Fin 32 := r.toFin
    { c with v := c.v.set i (writeLanes c.v[i] m data (p &&& words)) }
  | .lane r m bits =>
    let i : Fin 8 := r.toFin
    { c with lanes := c.lanes.set i ((c.lanes[i] &&& ~~~ m) ||| (bits &&& m)) }
  | .halves r m data p =>
    let i : Fin 32 := r.toFin
    { c with v := c.v.set i (writeHalves c.v[i] m data p) }
  | .nopen a e =>
    let i : Fin 8 := a.toFin
    { c with n := c.n.set i { value := 0, exp := e, flags := 0, poison := false } }
  | .nadd a terms fl p =>
    let i : Fin 8 := a.toFin
    { c with n := c.n.set i (nAdd c.n[i] terms fl p) }

/-- The flags that putting a result in place raises: those of an accumulation (02 R45, R55). -/
def Core.vuFlags (c : Core) (w : VuWrite) : Byte :=
  match w with
  | .nadd a terms fl p => (nAdd { c.n[a.toFin] with flags := 0 } terms fl p).flags
  | _ => 0

/-- VU results due up to a cycle, in order of their cycle and of their issue (06 R196); the flags they raise go to the flag register of
their stream (02 R55, 03 R68). -/
def Core.settleVu (c : Core) (t : Nat) : Core :=
  let c' := (c.vuPending.takeWhile fun p => p.due ≤ t).foldl (fun c p => (c.flag p.stream (c.vuFlags p.what)).applyVu p.what) c
  { c' with vuPending := c.vuPending.dropWhile fun p => p.due ≤ t }

/-- A VU result is to be written in a cycle. -/
def Core.vuLater (c : Core) (s : StreamId) (due : Nat) (w : VuWrite) : Core :=
  { c with vuPending := insertDue (·.due) { due := due, stream := s, what := w } c.vuPending }

/-- Descriptors that reach their channel queue up to a cycle (06 R178). -/
def Core.settleQueue (c : Core) (t : Nat) : Core :=
  let c' := (c.qEntries.takeWhile fun e => e.due ≤ t).foldl (fun (c : Core) e =>
    let i : Fin 4 := e.ch.toFin
    let ch := c.ch[i]
    { c with ch := c.ch.set i { ch with queue := ch.queue ++ [e.desc], state := if ch.state = .idle then .active else ch.state } }) c
  { c' with qEntries := c.qEntries.dropWhile fun e => e.due ≤ t }

/-- The scratchpad word of a byte address (04 R116). -/
def wordAt (a : Nat) : Nat := a / 32 % 65536

/-- The words that n bytes from an address touch, modulo 2²¹. -/
def spanWords (a n : Nat) : List Nat :=
  (List.range ((a % 32 + n + 31) / 32)).map fun k => (a / 32 + k) % 65536

/-- The bytes of words read, from an address on: each byte with its word's poison mark. -/
def bytesAt (got : List (Nat × RWord)) (a n : Nat) : List (Byte × Bool) :=
  (List.range n).map fun k =>
    match got.lookup ((a + k) / 32 % 65536) with
    | some w => (BitVec.ofNat 8 (byteOf w.data.toNat ((a + k) % 32)), w.poison)
    | none => (0, false)

/-- The word writes that put bytes at an address; with `poison`, the poison code word in full in every word touched (04 R106). -/
def byteWrites (a : Nat) (bs : List Byte) (poison : Bool) : List WriteReq :=
  (List.range ((a % 32 + bs.length + 31) / 32)).map fun k =>
    let ks := (List.range 32).filter fun j => decide (a % 32 ≤ 32 * k + j) && decide (32 * k + j < a % 32 + bs.length)
    { word := (a / 32 + k) % 65536,
      data := BitVec.ofNat 256 (ks.foldl (fun acc j => acc + (bs.getD (32 * k + j - a % 32) 0).toNat * 256 ^ j) 0),
      mask := if poison then 0xFFFFFFFF else BitVec.ofNat 32 (ks.foldl (fun acc j => acc + 2 ^ j) 0), poison := poison }

/-- A counter's value as an unsigned number (05 R145). -/
def Stream.ctr (st : Stream) (i : BitVec 3) : Nat := st.counters[i.toFin].toNat

/-- Byte address that an address term gives with the stream's counters (06 R166). -/
def Stream.addrOf (st : Stream) (a : AddrTerm) : Nat :=
  let ta : Int := if a.ena then (st.ctr a.ca : Int) * a.stepA.toInt * 32 else 0
  let tb : Int := if a.enb then (st.ctr a.cb : Int) * a.stepB.toInt * 32 else 0
  (((a.base.toNat : Int) + ta + tb) % 2 ^ 21).toNat

/-- The logical context evaluated with the stream's counters (06 R173). -/
def Stream.evalCtx (st : Stream) : EvalCtx :=
  let c := st.ctx
  { l := BitVec.ofInt 32 ((c.lrow0.toNat : Int) + (if c.enr then (st.ctr c.cr : Int) * c.stepR.toInt else 0)),
    k := BitVec.ofInt 32 ((c.lcol0.toNat : Int) + (if c.enc then 128 * ((st.ctr c.cc : Int) * c.stepC.toInt) else 0)),
    lcols := c.lcols, tid := c.tid }

/-- Logical element index of row r and column j under a context (06 R173). -/
def EvalCtx.index (x : EvalCtx) (r j : Nat) : BitVec 32 :=
  (x.l + BitVec.ofNat 32 r) * x.lcols + x.k + BitVec.ofNat 32 j

/-- A comparator's result (05 R146). -/
def Stream.cmpTrue (st : Stream) (k : BitVec 2) : Bool :=
  let m := st.cmps[k.toFin]
  let x := st.ctr m.counter
  let l := m.limit.toNat
  match m.mode.toNat with
  | 0 => x == l
  | 1 => x != l
  | 2 => x < l
  | _ => l ≤ x

end Sys2Proof.Machine
end

