-- ==== Sys2Proof/Machine/Engines.lean ====
section
/-! DEFINITION. The engines of a core: array feed, weight load, Barchan fill, drain (04 R93 to R115, 03 R70 to R89,
06 R180 to R193). -/

namespace Sys2Proof.Machine

/-- Format in which a plane of a tile is stored: 0 the whole tile, 1 the high plane, 2 the low plane (06 R184). -/
def planeFmt (fmt part : Nat) : Nat := if part = 0 then fmt else if part = 1 then (if fmt = 4 then 2 else 3) else 3

/-- The rows of a tile that a part names; none where the tile has no such plane. -/
def WTile.part (t : WTile) (part : Nat) : Option (Sparse WRow) :=
  if (t.fmt.toNat ≥ 4) = (part ≠ 0) then some (if part = 2 then t.lo else t.hi) else none

/-- A row with no codes. -/
def zeroRow : WRow := { data := 0, poison := false }

/-- Code of the B operand at K position k and column n, in a part of the tile. A beat that meets a tile without the plane of its
pass reads a free value: 06 R184 gives that tile no such plane. -/
def WTile.code (t : WTile) (part k n : Nat) : Int :=
  match t.part part with
  | some rows =>
    let f := planeFmt t.fmt.toNat part
    codeOf (fmtBits f) (bSigned f) (bitsOf (spGet zeroRow rows k).data.toNat (fmtBits f * n) (fmtBits f))
  | none => (Config.freeValue 2 (128 * k + n) % 256 : Nat)

/-- Scale byte of block j and column n of a tile. -/
def WTile.scale (t : WTile) (j n : Nat) : Byte := BitVec.ofNat 8 (byteOf (spGet zeroRow t.scales j).data.toNat n)

/-- Whether a beat that uses the K positions `used` meets a poisoned row or scale row of the tile (04 R106). -/
def WTile.poisoned (t : WTile) (part : Nat) (used : Nat → Bool) : Bool :=
  (match t.part part with
   | some rows => rows.any fun e => used e.1 && e.2.poison
   | none => false) || t.scales.any fun e => e.2.poison

/-- The passes of a `PASSES` value and a pair of formats (03 R77); none for a combination not listed. -/
def passParts (passes fa fb : Nat) : Option (List PassPart × Nat) :=
  let a16 := fa == 4 || fa == 5
  let b16 := fb == 4 || fb == 5
  let both4 := fa < 2 && fb < 2
  match passes with
  | 0 => if a16 || b16 || fa > 5 then none else some ([{ a := 0, b := 0, up := 0 }], if both4 then 1 else 4)
  | 1 => if a16 && !b16 then some ([{ a := 1, b := 0, up := 8 }, { a := 2, b := 0, up := 0 }], 4) else none
  | 2 =>
    if a16 && b16 then some ([{ a := 1, b := 1, up := 16 }, { a := 1, b := 2, up := 8 }, { a := 2, b := 1, up := 8 }], 4) else none
  | _ =>
    if a16 && b16 then
      some ([{ a := 1, b := 1, up := 16 }, { a := 1, b := 2, up := 8 }, { a := 2, b := 1, up := 8 }, { a := 2, b := 2, up := 0 }], 4)
    else none

/-- Words of a row of n elements in a format. -/
def rowWords (fmt n : Nat) : Nat := fmtBits fmt * n / 256

/-- Beats of a whole feed: M × beats × passes (04 R95, 03 R77). -/
def Feed.total (f : Feed) : Nat := f.m * f.beats * f.parts.length

/-- Row of the A operand that a beat of a feed serves; passes run one after the other. -/
def Feed.rowAt (f : Feed) : Nat := f.beat / f.beats % f.m

/-- The pass that a beat belongs to. -/
def Feed.passAt (f : Feed) : PassPart := f.parts.getD (f.beat / (f.beats * f.m)) { a := 0, b := 0, up := 0 }

/-- The beat's number within its row. -/
def Feed.sub (f : Feed) : Nat := f.beat % f.beats

/-- Address of the scale bytes of row i (06 R180). -/
def Feed.scaleAddr (f : Feed) (i : Nat) : Nat := f.sec + (if f.sq then i / 32 else i) * f.spitch

/-- The static reads of a feed's beat: the row's words in order spread over its beats, a quarter in each of four beats, its scale bytes
with the first (06 R180, 05 R152). Which beat reads which word is a DESIGN CHOICE (log 99): R152 gives the latest cycle alone. -/
def Feed.access (f : Feed) : Access :=
  let i := f.rowAt
  let n := rowWords f.fmt.toNat 512
  let lo := f.sub * n / f.beats
  let hi := (f.sub + 1) * n / f.beats
  { cycle := f.start + f.beat, who := f.who,
    reads := if f.slab.isSome then []
      else (List.range (hi - lo)).map fun w => wordAt (f.pri + i * f.pitch * 32 + 32 * (lo + w)),
    scales := if f.slab.isSome ∨ f.sub ≠ 0 then [] else spanWords (f.scaleAddr i) 16,
    writes := [], scaleW := [], act := .feed }

/-- Stored rows and squares per band of a slab shape (06 R187): stored rows, elements, row words, squares, halves. -/
def shapeOf (shape : Nat) : Nat × Nat × Nat × Nat × Nat :=
  match shape with
  | 0 => (512, 128, 2, 4, 1)
  | 1 => (512, 64, 2, 2, 1)
  | 2 => (128, 512, 8, 16, 1)
  | _ => (128, 512, 16, 16, 2)

/-- Element e of stored row r of a slab, as code bits; the code word is decoded as it is read (09 R265). -/
def Slab.bitsAt (s : Slab) (r e : Nat) : Nat × Bool :=
  let w := fmtBits s.fmt.toNat
  let rw := (shapeOf s.shape.toNat).2.2.1
  let x := (decodeWord (spGet 0 s.words (r * rw + w * e / 256))).2.2
  (bitsOf x.data.toNat (w * e % 256) w, x.poison)

/-- Scale byte of square q of band b of a slab. -/
def Slab.square (s : Slab) (b q : Nat) : Byte :=
  BitVec.ofNat 8 (byteOf s.squares.toNat (b * (shapeOf s.shape.toNat).2.2.2.1 + q))

/-- Codes of a feed's row i as patterns, its 16 scale bytes, and whether a word of it is poisoned. -/
def Feed.rowData (f : Feed) (i : Nat) : List Nat × List Byte × Bool :=
  match f.slab with
  | some s =>
    let xs := (List.range 512).map fun k => s.bitsAt k i
    (xs.map (·.1), (List.range 16).map fun j => s.square j (i / 32), xs.any (·.2) || s.sqPoison)
  | none =>
    let w := fmtBits f.fmt.toNat
    let x := packBits 256 (f.words.map fun r => r.data.toNat)
    ((List.range 512).map fun k => bitsOf x (w * k) w, f.scales.map (·.1), f.words.any (·.poison) || f.scales.any (·.2))

/-- The part of an A code: whole, high byte, low byte (02 R35). -/
def partOf (part : Nat) (x : Int) : Int := if part = 0 then x else if part = 1 then (splitB16 x).1 else (splitB16 x).2

/-- The K positions a beat uses: all in a one-beat row, else those with k mod 4 equal to the beat's number (04 R93). -/
def beatUses (beats sub k : Nat) : Bool := beats == 1 || k % 4 == sub

/-- The A terms of a row: position, code of the part, fine scale; zero codes and blocks with a reserved byte left out. -/
def aTerms (fmt part : Nat) (codes : List Nat) (scales : List Byte) : List (Nat × Int × Int) :=
  ((List.range 512).zip codes).filterMap fun (k, x) =>
    match fineOf (scales.getD (k / 32) 0) with
    | none => none
    | some fa =>
      let q := partOf part (codeOf (fmtBits fmt) (bSigned fmt) x)
      if q = 0 then none else some (k, q, fa)

/-- The column partial P96 of column n over the beats of a row (03 R70, R71): each beat with the tile it met. -/
def p96 (beats part : Nat) (terms : List (Nat × Int × Int)) (tiles : List WTile) (n : Nat) : Int :=
  ((List.range tiles.length).zip tiles).foldl (fun acc (b, t) =>
    (terms.filter fun x => beatUses beats b x.1).foldl (fun acc (k, q, fa) =>
      match fineOf (t.scale (k / 32) n) with
      | none => acc
      | some fb => acc + q * t.code part k n * 2 ^ (fa + fb + 32).toNat) acc) 0

/-- Whether some scale byte of a tile is reserved (02 R33). -/
def WTile.badScale (t : WTile) : Bool :=
  t.scales.any fun e => (List.range 128).any fun n => byteOf e.2.data.toNat n / 32 != 0

/-- The flight of a row whose last beat has been fed (03 R71, R77, 04 R93). The coarse scale of B is that of the tile active at the MATMUL's
issue, also for beats that met another tile: DESIGN CHOICE (log 100), as 04 R97 names codes and fine scales alone. -/
def Feed.flight (f : Feed) (now : Nat) : RowFlight :=
  let i := f.rowAt
  let p := f.passAt
  let (codes, scales, apsn) := f.rowData i
  let terms := aTerms f.fmt.toNat p.a codes scales
  let bad := scales.any (fun b => b.toNat / 32 != 0) || f.tiles.any WTile.badScale
  let bpsn := ((List.range f.tiles.length).zip f.tiles).any fun (b, t) => t.poisoned p.b (beatUses f.beats b)
  { due := now + 144, stream := f.who.stream, bank := f.bank, row := f.row0 + i, compact := f.compact, chalf := f.chalf,
    e := f.ca.toInt + f.cb.toInt - 32 + p.up, first := i == 0,
    cells := if terms.isEmpty then [] else (List.range 128).map (p96 f.beats p.b terms f.tiles),
    flags := if bad then flagRange else 0, poison := apsn || bpsn, ctx := f.ctx, step := f.step }

/-- A beat of the feed with the words it has read: the row's last beat sends the row on its way. -/
def Core.feedBeat (c : Core) (f : Feed) (got : List (Nat × RWord)) : Core :=
  let a := f.access
  let f := { f with
    words := f.words ++ a.reads.map (fun w => (got.lookup w).getD { data := 0, poison := false }),
    scales := if a.scales.isEmpty then f.scales else bytesAt got (f.scaleAddr f.rowAt) 16,
    tiles := f.tiles ++ [c.active] }
  let (f', c) :=
    if f.sub + 1 = f.beats then
      ({ f with words := [], scales := [], tiles := [] }, { c with rows := c.rows ++ [f.flight c.cycle] })
    else (f, c)
  let f' := { f' with beat := f.beat + 1 }
  { c with feed := if f'.beat = f'.total then none else some f' }

/-- n × 2^e in units of 2^q, to nearest-even. -/
def roundInt (n e q : Int) : Int := signedMag (decide (n < 0)) (roundAt 0 0 n.natAbs e q).1

/-- Budget of a pass landing in an exact tile, with ACC_OVF (03 R74 to R76). -/
def Bank.spend (k : Bank) (up : Int) : Bank :=
  let b := k.budget.toNat + (if up < 0 then 1 else 2 ^ (min up.toNat 41))
  { k with budget := BitVec.ofNat 41 (min b (2 ^ 41 - 1)),
           flags := if 2 ^ 40 < b ∨ 41 ≤ up then k.flags ||| flagAccOvf else k.flags }

/-- A row lands in an exact tile (03 R74, R75). -/
def Bank.landExact (k : Bank) (r : RowFlight) : Bank :=
  let e0 := k.tbase.toInt
  let k := if r.first then k.spend (r.e - e0) else k
  let entries := ((List.range 128).zip r.cells).foldl (fun es (n, p) =>
    if p = 0 then es
    else spMod 0 es (256 * r.row + n) fun x =>
      x + BitVec.ofInt 128 (if e0 ≤ r.e then p * 2 ^ (r.e - e0).toNat else roundInt p r.e e0)) k.entries
  { k with entries := entries, flags := k.flags ||| r.flags ||| (if r.e < e0 then flagRange else 0), poison := k.poison || r.poison }

/-- The smallest exponent from `r` up, at most 511, at which every sum n × 2^q lies below 2^(62 + exponent) (03 R83, R86). -/
def compactExp (fuel : Nat) (sums : List Int) (q r : Int) : Int :=
  match fuel with
  | 0 => r
  | k + 1 => if sums.all (fun s => !magLe 1 (62 + r) s.natAbs q) then r else compactExp k sums q (r + 1)

/-- A row lands in a compact tile: one event of the row (03 R83, R84, 04 R105). Where no exponent up to 511 holds every sum, entries
saturate and ACC_OVF is set (R86). -/
def Bank.landCompact (env : CoreEnv) (k : Bank) (r : RowFlight) : Bank :=
  let e0 := (spGet 0x200 k.rowExp r.row).toInt
  let j := spGet 0 k.rowEv r.row
  let q := min e0 r.e
  let off := if r.chalf then 128 else 0
  let sums := (List.range 256).map fun n =>
    codeOf 64 true (spGet 0 k.entries (256 * r.row + n)).toNat * 2 ^ (e0 - q).toNat
      + (if off ≤ n ∧ n < off + 128 then r.cells.getD (n - off) 0 * 2 ^ (r.e - q).toNat else 0)
  let e1 := compactExp (511 - e0).toNat sums q e0
  let passes := sums.any fun s => magLe 1 (62 + e1) s.natAbs q
  let rs := ((List.range 256).zip sums).map fun (n, s) =>
    signedMag (decide (s < 0)) (roundAt 2 (srCompact env.key r.ctx.tid r.step (r.ctx.index r.row n) j) s.natAbs q e1).1
  let bound : Int := 2 ^ 63 - 1
  let entries := ((List.range 256).zip rs).foldl (fun es (n, x) =>
    spSet 0 es (256 * r.row + n) (BitVec.ofNat 128 (BitVec.ofInt 64 (max (-bound) (min bound x))).toNat)) k.entries
  { k with entries := entries, rowExp := spSet 0x200 k.rowExp r.row (BitVec.ofInt 10 e1), rowEv := spSet 0 k.rowEv r.row (j + 1),
           flags := k.flags ||| r.flags ||| (if passes then flagAccOvf else 0), poison := k.poison || r.poison }

/-- A row of column partials is added into its bank (04 R93). The flags it raises go into the tile's flag byte and into the flag register
of the MATMUL's stream (02 R55). -/
def Core.land (env : CoreEnv) (c : Core) (r : RowFlight) : Core :=
  let k0 := c.bank r.bank
  let k : Bank := { k0 with flags := 0 }
  let k' := if r.compact then k.landCompact env r else k.landExact r
  (c.setBank r.bank { k' with flags := k0.flags ||| k'.flags }).flag r.stream k'.flags

/-- Rows due up to a cycle are added, in order (04 R93). -/
def Core.settleRows (env : CoreEnv) (c : Core) (t : Nat) : Core :=
  let c' := (c.rows.takeWhile fun r => r.due ≤ t).foldl (fun c r => c.land env r) c
  { c' with rows := c.rows.dropWhile fun r => r.due ≤ t }

/-- Words of a stored row of a weight load: 2 for B4, 4 for B8 and a byte plane (06 R171, R183). -/
def wloadWords (fmt : Nat) : Nat := if fmt < 2 then 2 else 4

/-- Address of the scale bytes of block j of a weight load (06 R183). -/
def WLoad.scaleAddr (l : WLoad) (j : Nat) : Nat := l.sec + j * l.spitch

/-- Scale bytes read for a block: one for each column, or one for each square of 32 columns. -/
def WLoad.scaleCount (l : WLoad) : Nat := if l.sq then 4 else 128

/-- The static reads of a cycle of a weight load: stored rows 4i to 4i + 3, and with every eighth row the block's scale bytes (04 R96,
06 R183, R184; the cycle of the scale bytes: DESIGN CHOICE, log 99). -/
def WLoad.access (l : WLoad) : Access :=
  let n := wloadWords l.fmt.toNat
  { cycle := l.start + l.row, who := l.who,
    reads := if l.slab.isSome then []
      else (List.range 4).flatMap fun i => (List.range n).map fun w => wordAt (l.pri + (4 * l.row + i) * l.pitch * 32 + 32 * w),
    scales := if l.slab.isSome ∨ l.row % 8 ≠ 0 ∨ l.plane = 2 then [] else spanWords (l.scaleAddr (l.row / 8)) l.scaleCount,
    writes := [], scaleW := [], act := .wload }

/-- Row k of a tile from a slab: stored rows are columns (06 R183, R187). -/
def Slab.tileRow (s : Slab) (k : Nat) : WRow :=
  let xs := (List.range 128).map fun n => s.bitsAt n k
  { data := BitVec.ofNat 1024 (packBits (fmtBits s.fmt.toNat) (xs.map (·.1))), poison := xs.any (·.2) }

/-- Scale row j of a tile from a slab. -/
def Slab.scaleRow (s : Slab) (j : Nat) : WRow :=
  { data := BitVec.ofNat 1024 (packBits 8 ((List.range 128).map fun n => (s.square (n / 32) j).toNat)), poison := s.sqPoison }

/-- A cycle of a weight load with the words it has read: four stored rows go into the shadow (04 R96). -/
def Core.wloadRow (c : Core) (l : WLoad) (got : List (Nat × RWord)) : Core :=
  let a := l.access
  let n := wloadWords l.fmt.toNat
  let rowOf := fun i : Nat => match l.slab with
    | some s => s.tileRow (4 * l.row + i)
    | none =>
      let ws := ((a.reads.drop (n * i)).take n).map fun w => (got.lookup w).getD { data := 0, poison := false }
      { data := BitVec.ofNat 1024 (packBits 256 (ws.map fun w => w.data.toNat)), poison := ws.any (·.poison) }
  let put := fun (rows : Sparse WRow) => (List.range 4).foldl (fun rs i => spSet zeroRow rs (4 * l.row + i) (rowOf i)) rows
  let sh := if l.plane = 2 then { c.shadow with lo := put c.shadow.lo } else { c.shadow with hi := put c.shadow.hi }
  let j := l.row / 8
  let sh :=
    if l.row % 8 ≠ 0 ∨ l.plane = 2 then sh
    else
      match l.slab with
      | some s => { sh with scales := spSet zeroRow sh.scales j (s.scaleRow j) }
      | none =>
        let bs := bytesAt got (l.scaleAddr j) l.scaleCount
        let pick := fun (k : Nat) => bs.getD (if l.sq then k / 32 else k) (0, false)
        let row : WRow :=
          { data := BitVec.ofNat 1024 (packBits 8 ((List.range 128).map fun k => (pick k).1.toNat)), poison := bs.any (·.2) }
        { sh with scales := spSet zeroRow sh.scales j row }
  { c with shadow := sh, wload := if l.row = 127 then none else some { l with row := l.row + 1 } }

/-- Cycles of a Barchan fill: 64 for one half, 128 for two (04 R113). -/
def BFill.cycles (b : BFill) : Nat := 64 * (shapeOf b.slab.shape.toNat).2.2.2.2

/-- The band whose first stored row a cycle of the fill reads, if any, and how many bands: rows of 32 (06 R187). -/
def BFill.bandAt (b : BFill) : Option Nat :=
  let rw := (shapeOf b.slab.shape.toNat).2.2.1
  let first := 16 * b.cyc
  if first % rw = 0 ∧ first / rw % 32 = 0 then some (first / rw / 32) else none

/-- The static reads of a cycle of a Barchan fill: 16 words, and with a band's first row its scale bytes (04 R113, 06 R187; the cycle of
the scale bytes: DESIGN CHOICE, log 99). -/
def BFill.access (b : BFill) : Access :=
  let sh := shapeOf b.slab.shape.toNat
  { cycle := b.start + b.cyc, who := b.who,
    reads := (List.range 16).map fun i =>
      let w := 16 * b.cyc + i
      wordAt (b.pri + (w / sh.2.2.1) * b.pitch * 32 + 32 * (w % sh.2.2.1)),
    scales := match b.bandAt with
      | some k => spanWords (b.sec + k * b.spitch) sh.2.2.2.1
      | none => [],
    writes := [], scaleW := [], act := .bfill }

/-- A cycle of a Barchan fill with the words it has read; the last one leaves the slab filled (04 R113). -/
def Core.bfillCycle (c : Core) (b : BFill) (got : List (Nat × RWord)) : Core :=
  let a := b.access
  let nsq := (shapeOf b.slab.shape.toNat).2.2.2.1
  let words := ((List.range 16).zip a.reads).foldl (fun ws (i, w) =>
    spSet 0 ws (16 * b.cyc + i) (codeOfWord ((got.lookup w).getD { data := 0, poison := false }))) b.slab.words
  let slab := { b.slab with words := words }
  let slab := match b.bandAt with
    | some k =>
      let bs := bytesAt got (b.sec + k * b.spitch) nsq
      { slab with
        squares := slab.squares ||| BitVec.ofNat 512 (packBits 8 (bs.map fun x => x.1.toNat) * 256 ^ (k * nsq)),
        sqPoison := slab.sqPoison || bs.any (·.2) }
    | none => slab
  if b.cyc + 1 = b.cycles then { c with slabs := c.slabs ++ [slab], bfill := none }
  else { c with bfill := some { b with slab := slab, cyc := b.cyc + 1 } }

/-- Halves of Barchan in use: filled slabs, slabs being read, the slab being filled (04 R113). -/
def Core.halvesUsed (c : Core) : Nat :=
  let n := fun (s : Slab) => (shapeOf s.shape.toNat).2.2.2.2
  let o := fun (s : Option Slab) => (s.map n).getD 0
  (c.slabs.map n).foldl (· + ·) 0 + o (c.feed.bind (·.slab)) + o (c.wload.bind (·.slab)) + o (c.bfill.map (·.slab))

/-- Array cycles for one output row, and the cycles before the first one: 8, 32 more for square blocks, 4 more for top-k (04 R102,
R109). -/
def drainRate (compact : Bool) (fmt : Nat) (sq topk : Bool) : Nat × Nat :=
  let per := (if fmt = 10 then 2 else if fmt = 11 then 4 else 1) * (if compact then 2 else 1)
  (per, 8 + (if sq then 32 else 0) + (if topk then 4 else 0))

/-- Cycles per row and lead of a drain in hand. -/
def DrainJob.rate (d : DrainJob) (compact : Bool) : Nat × Nat := drainRate compact d.fmt.toNat d.sq (d.f.topk != 0)

/-- Read time of a drain (04 R102). -/
def DrainJob.readTime (d : DrainJob) (compact : Bool) : Nat := (d.rate compact).2 + 128 * (d.rate compact).1

/-- Columns of a bank row. -/
def bankCols (compact : Bool) : Nat := if compact then 256 else 128

/-- Exact values of a bank row's entries (02 R44). -/
def Bank.rowVals (k : Bank) (r : Nat) : List FVal :=
  if k.compact then
    let e := (spGet 0x200 k.rowExp r).toInt
    (List.range 256).map fun n => fvalOfInt (codeOf 64 true (spGet 0 k.entries (256 * r + n)).toNat) e
  else (List.range 128).map fun n => fvalOfInt (spGet 0 k.entries (256 * r + n)).toInt k.tbase.toInt

/-- A converted output row: its words, its scale bytes, its flags, its value patterns (06 R190, R191). -/
structure OutRow where
  words  : List Data
  scales : List Int
  flags  : Byte
  vals   : List Nat

/-- Output row r of a drain (04 R107 to R109, 06 R190, R191). -/
def DrainJob.outRow (env : CoreEnv) (d : DrainJob) (k : Bank) (r : Nat) : OutRow :=
  let fmt := d.fmt.toNat
  let cols := bankCols k.compact
  let w := fmtBits fmt
  let vals := k.rowVals r
  let es := ((List.range cols).zip vals).map fun (j, v) => (v, srWord env.key d.ctx.tid d.step (d.ctx.index r j))
  let nw := w * cols / 256
  if isB fmt then
    let ovr := fun (q : Nat) =>
      if d.sq then (List.range 32).flatMap fun i => ((k.rowVals (r / 32 * 32 + i)).drop (32 * q)).take 32
      else (vals.drop (32 * q)).take 32
    let bs := ((List.range (cols / 32)).zip (chunksOf (cols / 32) 32 es)).map fun (q, b) =>
      toBlock fmt d.coarse.toInt d.f.round (ovr q) b
    { words := wordsOfNat nw (packCodes w (bs.flatMap fun b => b.2.1)), scales := bs.map (·.1),
      flags := orFlags (bs.map fun b => b.2.2), vals := [] }
  else if fmt = 11 then
    { words := wordsOfNat nw (packBits 128 ((List.range 128).map fun n => (spGet 0 k.entries (256 * r + n)).toNat)),
      scales := [], flags := 0, vals := [] }
  else
    let rs := es.map fun (v, x) => scalarTo fmt d.f.round x d.q.toInt v
    { words := wordsOfNat nw (packBits w (rs.map (·.1))), scales := [], flags := orFlags (rs.map fun x => x.2.2),
      vals := rs.map (·.1) }

/-- Tile summary word of an X128 drain (06 R192). -/
def Bank.summary (k : Bank) : Data :=
  BitVec.ofNat 256 ((k.tbase.signExtend 16).toNat + 2 ^ 16 * k.budget.toNat + 2 ^ 64 * k.flags.toNat
    + (if k.poison then 2 ^ 72 else 0))

/-- A list of words written from an address, in full. -/
def fullWrites (a : Nat) (ws : List Data) (poison : Bool) : List WriteReq :=
  ((List.range ws.length).zip ws).map fun (i, d) =>
    { word := wordAt (a + 32 * i), data := d, mask := 0xFFFFFFFF, poison := poison }

/-- Address of output row r (06 R190). -/
def DrainJob.rowAddr (d : DrainJob) (r : Nat) : Nat := d.pri + r * d.pitch * 32

/-- The row and the step within it that lie `x` cycles after the first, if the row is written. -/
def DrainJob.slot (d : DrainJob) (per : Nat) (x : Int) : Option (Nat × Nat) :=
  if 0 ≤ x ∧ x < per * (d.f.rows.toNat + 1 : Nat) then some (x.toNat / per, x.toNat % per) else none

/-- What a drain does in a cycle of its read: output words take effect in their row's cycles, so they issue 3 before; scale bytes take
effect with their row's (or band's) last word (DESIGN CHOICE, log 99), so they issue 7 before, or 3 where poison writes their words in
full; a prior list is read 4 before its row's last word takes effect, and its list is written from it (04 R102, R112, 06 R190). The
access, and the stream's new flags: only rows 0 to `ROWS` are converted, so that the rows discarded raise none (DESIGN CHOICE, log 129; R190
and R193 do not say). -/
def DrainJob.access (env : CoreEnv) (d : DrainJob) (k : Bank) (now : Nat) : List Access × Byte :=
  let (per, lead) := d.rate k.compact
  let x : Int := (now : Int) - (d.start + 144 : Nat) - lead
  let topk := d.f.topk.toNat
  let base : Access := { cycle := now, who := d.who, reads := [], scales := [], writes := [], scaleW := [], act := .none }
  let rowAcc : List Access × Byte := match (if topk = 0 then d.slot per (x + 3) else none) with
    | none => ([], 0)
    | some (r, sub) =>
      let o := d.outRow env k r
      let n := o.words.length
      let lo := sub * n / per
      let hi := (sub + 1) * n / per
      let sum := if d.fmt.toNat = 11 ∧ r = d.f.rows.toNat ∧ sub + 1 = per then fullWrites d.sec [k.summary] false else []
      ([{ base with writes := fullWrites (d.rowAddr r + 32 * lo) ((o.words.drop lo).take (hi - lo)) k.poison ++ sum }],
       if sub = 0 then o.flags else 0)
  let scaleAcc : List Access := match (if isB d.fmt.toNat then d.slot per (x + (if k.poison then 3 else 7) - (per - 1 : Nat)) else none) with
    | none => []
    | some (r, sub) =>
      if sub ≠ 0 ∨ (d.sq ∧ r % 32 ≠ 31) then []
      else
        let o := d.outRow env k r
        [{ base with scaleW := byteWrites (d.sec + (if d.sq then r / 32 else r) * d.spitch) (o.scales.map fineByte) k.poison }]
  let topAcc : List Access × Byte := match (if topk = 0 then none else d.slot per (x + 4 - (per - 1 : Nat))) with
    | none => ([], 0)
    | some (r, sub) =>
      if sub ≠ 0 then ([], 0)
      else
        ([{ base with
            reads := if d.f.tkmerge then (List.range 4).map fun i => wordAt (d.sec + r * d.pitch * 32 + 32 * i) else [],
            act := .topk r }], (d.outRow env k r).flags)
  (rowAcc.1 ++ scaleAcc ++ topAcc.1, rowAcc.2 ||| topAcc.2)

/-- Sum that an output row adds to the drain's fingerprint; a poisoned tile adds 0 (14 R427). -/
def DrainJob.tapRow (env : CoreEnv) (d : DrainJob) (k : Bank) (r : Nat) : Nat :=
  if k.poison then 0
  else
    let fmt := d.fmt.toNat
    let w := fmtBits fmt
    let o := d.outRow env k r
    let x := packBits 256 (o.words.map fun v => v.toNat)
    (List.range (bankCols k.compact)).foldl (fun acc j =>
      fpAdd acc (fpTerm (d.ctx.index r j).toNat (fpElem fmt (bitsOf x (w * j) w) (o.scales.getD (j / 32) 0) 0))) 0

/-- The DRAIN tap in a cycle: the row whose first words issue in it is added; with the last row the partial sum goes out
(14 R427, R428). -/
def Core.drainTap (env : CoreEnv) (c : Core) (d : DrainJob) : Core :=
  let k := c.bank d.bank
  let (per, lead) := d.rate k.compact
  if d.f.topk ≠ 0 then c
  else
    match d.slot per ((c.cycle : Int) - (d.start + 144 : Nat) - lead + 3) with
    | some (r, 0) =>
      let d' := { d with fp := fpAdd d.fp (d.tapRow env k r), fpPoison := d.fpPoison || k.poison }
      let c := { c with drain := some d' }
      if r = d.f.rows.toNat then
        { c with taps := c.taps ++ [{ tid := d.ctx.tid, step := d.step, sum := d'.fp, poison := d'.fpPoison }] }
      else c
    | _ => c

/-- The list of a row, from its prior list: its words are written in the next cycle (04 R110 to R112). -/
def DrainJob.listAccess (env : CoreEnv) (d : DrainJob) (k : Bank) (r : Nat) (prior : List RWord) (now : Nat) : Access :=
  let fmt := d.fmt.toNat
  let o := d.outRow env k r
  let new := ((List.range o.vals.length).zip o.vals).map fun (j, v) => (v, (j + d.nbase.toNat) % 2 ^ 32)
  let old := if d.f.tkmerge then topkRead fmt (prior.map (·.data)) else []
  let l := topkOf fmt d.f.tkmode d.f.topk.toNat (old ++ new)
  { cycle := now + 1, who := d.who, reads := [], scales := [],
    writes := fullWrites (d.rowAddr r) (topkWords l) (k.poison || prior.any (·.poison)), scaleW := [], act := .none }

/-- Bank transitions up to a cycle: Tail to Reading after 144 cycles, Reading to Cleared after the read time (04 R102). The
tile's flags are ORed into the stream's as the read begins (06 R193). -/
def Core.settleBanks (c : Core) (t : Nat) : Core :=
  match c.drain with
  | none => c
  | some d =>
    let k := c.bank d.bank
    let c := if k.state = .tail ∧ d.start + 144 ≤ t then
        (c.setBank d.bank { k with state := .reading }).flag d.who.stream k.flags
      else c
    if d.start + 144 + d.readTime k.compact ≤ t then { c.setBank d.bank Bank.reset with drain := none } else c

end Sys2Proof.Machine
end

