-- ==== Sys2Proof/Machine/Advance.lean ====
section
/-! DEFINITION. The passing of array cycles in a core: the static accesses of a cycle are arbitrated by bank and made
(04 R117, R118), engines move by one beat or row, and what falls due takes effect. -/

namespace Sys2Proof.Machine

/-- The bank of a scratchpad word (04 R116). -/
def bankOf (w : Nat) : Nat := w % 16

/-- Accesses that a write makes to its bank: two for a narrow one (04 R120). -/
def writeSlots (q : WriteReq) : Nat := if q.mask = 0 then 0 else if q.mask = 0xFFFFFFFF then 1 else 2

/-- Accesses that a group makes to a bank in the cycle of its beat or row. Accesses to fine-scale bytes are static too, but the spec gives
them no cycle. They are taken to fall in a cycle in which their bank has a slot, so they add no third access (DEDUCED, log 12): counted in
the cycle of their beat or row they would halt the spec's own complete program (05, "A complete program"), which ends with cause 0x01. -/
def Access.slotsOn (a : Access) (b : Nat) : Nat :=
  (a.reads.filter fun w => bankOf w == b).length
    + ((a.writes.filter fun q => bankOf q.word == b).map writeSlots).foldl (· + ·) 0

/-- Banks on which more than two accesses meet (04 R118). -/
def conflictBanks (as : List Access) : List Nat :=
  (List.range 16).filter fun b => decide (2 < (as.map fun a => a.slotsOn b).foldl (· + ·) 0)

/-- Whether a group has an access on one of the banks. -/
def Access.hits (a : Access) (bad : List Nat) : Bool :=
  a.reads.any (fun w => bad.contains (bankOf w))
    || a.writes.any (fun q => bad.contains (bankOf q.word) && q.mask != 0)
    || a.scales.any (fun w => bad.contains (bankOf w))
    || a.scaleW.any (fun q => bad.contains (bankOf q.word) && q.mask != 0)

/-- Writes of a group are issued; those on a conflicting bank, of fine-scale bytes too, are dropped (04 R118). -/
def Core.issueWrites (c : Core) (a : Access) (bad : List Nat) : Core :=
  ((a.writes ++ a.scaleW).filter fun q => !bad.contains (bankOf q.word)).foldl (fun c q => c.issueWrite a.who.stream q) c

/-- Words of a group are read; a read on a conflicting bank delivers zero, so that a fine-scale byte in it is 0 (04 R118). Of several
reads of one array cycle that fall in windows, the hazard watch takes the one that stands first here as the first: DESIGN CHOICE (log 126),
as 05 R161 orders none within a cycle. -/
def Core.readWords (env : CoreEnv) (c : Core) (a : Access) (bad : List Nat) : List (Nat × RWord) × Core :=
  let step := fun (x : List (Nat × RWord) × Core) (w : Nat) =>
    let (rw, c) := x.2.readStatic env a.who w
    (x.1 ++ [(w, rw)], c)
  let ws := a.reads ++ a.scales
  let denied := (ws.filter fun w => bad.contains (bankOf w)).map fun w => (w, ({ data := 0, poison := false } : RWord))
  (ws.filter fun w => !bad.contains (bankOf w)).foldl step (denied, c)

/-- The word of a group's read by address. -/
def gotWord (got : List (Nat × RWord)) (w : Nat) : RWord := (got.lookup w).getD { data := 0, poison := false }

/-- A register from 8 words read (06 R203). -/
def regOfWords (ws : List RWord) : BitVec 2048 × BitVec 8 :=
  (BitVec.ofNat 2048 (packBits 256 (ws.map fun w => w.data.toNat)),
   BitVec.ofNat 8 (packBits 1 (ws.map fun w => if w.poison then 1 else 0)))

/-- What a group's reads deliver goes where the group wants it. -/
def Core.deliver (env : CoreEnv) (c : Core) (a : Access) (got : List (Nat × RWord)) : Core :=
  match a.act with
  | .none => c
  | .vld due vd lanes =>
    let (data, p) := regOfWords (a.reads.map (gotWord got))
    c.vuLater a.who.stream due (.reg vd lanes data (wordsTouched lanes) p)
  | .mread due vd fmt off lanes =>
    let w := gotWord got (a.reads.headD 0)
    -- a poisoned word writes no lane-mask bit, which could carry no mark (09 R276; DESIGN CHOICE, log 98)
    let bits := maskBits fmt.toNat
    let el := fun (i : Nat) => bitsOf w.data.toNat (bits * (off + i)) bits
    if fmt = 1 then
      c.vuLater a.who.stream due (.lane (vd.extractLsb' 0 3) (if w.poison then 0 else lanes) (laneMask fun i => el i == 1))
    else
      c.vuLater a.who.stream due
        (.reg vd lanes (ofLanes fun i => BitVec.ofNat 32 (el i)) (wordsTouched lanes) (if w.poison then 0xFF else 0))
  | .qpush ch adjust ctx step launch =>
    let w := a.reads.map (gotWord got)
    let d : QDesc :=
      { w0 := codeOfWord (w.getD 0 { data := 0, poison := false }), w1 := codeOfWord (w.getD 1 { data := 0, poison := false }),
        adjust := adjust, stream := a.who.stream, step := step, launch := launch, ctx := ctx,
        earliest := c.cycle + 5 }
    { c with qEntries := insertDue (fun e => 4 * e.due + streamNo e.desc.stream) { due := c.cycle + 4, ch := ch, desc := d } c.qEntries }
  | .feed => match c.feed with
    | some f => c.feedBeat f got
    | none => c
  | .wload => match c.wload with
    | some l => c.wloadRow l got
    | none => c
  | .bfill => match c.bfill with
    | some b => c.bfillCycle b got
    | none => c
  | .topk r => match c.drain with
    | some d =>
      { c with accesses := c.accesses ++ [d.listAccess env (c.bank d.bank) r (a.reads.map (gotWord got)) c.cycle] }
    | none => c

/-- The engines' accesses of the current cycle, and the flags of the row that the drain begins. -/
def Core.engineAccesses (env : CoreEnv) (c : Core) : List Access × Option (StreamId × Byte) :=
  let dr := match c.drain with
    | some d =>
      let (as, fl) := d.access env (c.bank d.bank) c.cycle
      (as, some (d.who.stream, fl))
    | none => ([], none)
  let due := fun (a : Access) => if a.cycle ≤ c.cycle then [a] else []
  (dr.1 ++ ((c.feed.map fun f => due f.access).getD []) ++ ((c.wload.map fun l => due l.access).getD [])
    ++ ((c.bfill.map fun b => due b.access).getD []), dr.2)

/-- The flags of a drain's own conversions go into the flag byte of the tile it reads and into its stream's flag register (02 R55,
06 R193). -/
def Core.drainFlags (c : Core) (s : StreamId) (fl : Byte) : Core :=
  match c.drain with
  | some d => (c.setBank d.bank { c.bank d.bank with flags := (c.bank d.bank).flags ||| fl }).flag s fl
  | none => c

/-- The current cycle closes: its accesses are arbitrated, conflicting streams halt (04 R118), writes issue, reads deliver. Where accesses
of two instructions of one stream conflict in the cycle, the stream shows the one that stands first here, and a bank conflict goes before a
hazard hit: DESIGN CHOICE (log 125), as 05 R157 does not say which cause and instruction a stream then shows. -/
def Core.closeCycle (env : CoreEnv) (c : Core) : Core :=
  let (eng, fl) := c.engineAccesses env
  let now := c.accesses.filter fun a => a.cycle ≤ c.cycle
  let c := { c with accesses := c.accesses.filter fun a => !(a.cycle ≤ c.cycle) }
  let c := match fl with
    | some (s, x) => c.drainFlags s x
    | none => c
  let c := match c.drain with
    | some d => c.drainTap env d
    | none => c
  let as := now ++ eng
  let bad := conflictBanks as
  let c := as.foldl (fun c a => if a.hits bad then c.haltWho a.who 0x03 else c) c
  let c := as.foldl (fun c a => c.issueWrites a bad) c
  as.foldl (fun c a =>
    let (got, c) := c.readWords env a bad
    c.deliver env a got) c

/-- The token unit's cycles before t close, what falls due up to t takes effect, and cycle t begins. The posts visible in t itself and the
tests of t come at the end of t, after every instruction of t has issued (05 R149 to R151). -/
def Core.settle (env : CoreEnv) (c : Core) (t : Nat) : Core :=
  let c := { c.settleTokens (c.posts.length + 1) c.cycle t with cycle := t }
  ((((c.settleRows env t).settleVu t).settleWrites t).settleQueue t).settleBanks t

/-- Whether no engine works and no access waits. -/
def Core.quiet (c : Core) : Bool :=
  c.feed.isNone && c.wload.isNone && c.bfill.isNone && c.drain.isNone && c.accesses.isEmpty

/-- n array cycles pass. -/
def Core.advance (n : Nat) (env : CoreEnv) (c : Core) : Core :=
  match n with
  | 0 => c
  | k + 1 =>
    if c.quiet then c.settle env (c.cycle + (k + 1))
    else ((c.closeCycle env).settle env (c.cycle + 1)).advance k env

/-- Array cycles pass up to a cycle; none where it is past. -/
def Core.advanceTo (env : CoreEnv) (c : Core) (t : Nat) : Core := c.advance (t - c.cycle) env

end Sys2Proof.Machine
end

