-- ==== Sys2Proof/Machine/Control.lean ====
section
/-! DEFINITION. Issue of a stream instruction, and the control, counter, branch, token, stream-engine and context groups
(05 R134 to R160, 06 R172 to R178). -/

namespace Sys2Proof.Machine

/-- An instruction memory line, decoded: its four words and its poison (05 R144, 09 R265: no write-back). -/
def Half.line (h : Half) (n : Nat) : DecodeOutcome × CodeWord × RWord :=
  let raw := spGet 0 h.lines n
  let (o, _, rw) := decodeWord raw
  (o, raw, rw)

/-- Word i of a line. -/
def lineWord (d : Data) (i : Nat) : IWord := d.extractLsb' (64 * i) 64

/-- The instruction at the stream's program counter, if its line is readable and it is a legal encoding (06 R164, R165). -/
def Stream.peek (st : Stream) : Option Decoded :=
  let pc := st.pc.toNat
  let (_, _, rw) := (st.halfOf st.half).line (pc / 4)
  if rw.poison then none
  else
    let i := pc % 4
    decodeInsn pc (lineWord rw.data i) (lineWord rw.data ((i + 1) % 4)) (lineWord rw.data ((i + 2) % 4))
      (lineWord rw.data ((i + 3) % 4))

/-- Instructions of the VU groups (06 R165). -/
def isVu (i : Insn) : Bool :=
  match i with
  | .vfp _ | .vint _ | .vxl _ | .vcvt .. | .vnacc _ | .vmask .. | .vld .. | .vst .. => true
  | _ => false

/-- Instructions that R99 and R188 count as array instructions. -/
def isArray (i : Insn) : Bool :=
  match i with
  | .matmul _ | .wload .. | .wswap | .drain _ | .bfill _ => true
  | _ => false

/-- Whether F is about to issue, in a cycle, an instruction that satisfies a test (04 R99, R122: F goes before B). -/
def Core.fIssuesAt (c : Core) (t : Nat) (p : Insn → Bool) : Bool :=
  if c.f.state = .running then
    match c.f.peek with
    | some (_, _, i) =>
      let t0 := max c.f.nextIssue c.cycle
      p i && (if isVu i then vuCycle .f t0 else t0) == t
    | none => false
  else false

/-- Whether a shared unit was used by stream s in a cycle. -/
def usedAt (last : Option (StreamId × Nat)) (s : StreamId) (t : Nat) : Bool := last == some (s, t)

/-- The stream halts at its program counter as an illegal instruction (05 R157). -/
def Core.illegal (c : Core) (s : StreamId) : Core := c.halt s 0x02 (c.stream s).pc

/-- The stream goes on behind an instruction of n words with gap g that issued in the current cycle (05 R136). -/
def Core.goOn (c : Core) (s : StreamId) (g : BitVec 12) (n : Nat) : Core :=
  c.modStream s fun st => ({ st with nextIssue := c.cycle + 1 + g.toNat } : Stream).pass c.cycle n

/-- Who issues: the stream, its half and its program counter. -/
def Core.who (c : Core) (s : StreamId) : Who := { stream := s, half := (c.stream s).half, pc := (c.stream s).pc }

/-- ISSUE. The next instruction of a Running stream is fetched and issues (05 R136, R137, R144, R157). An unreadable line halts
the stream with cause 0x0A, an illegal encoding with 0x02. Where the instruction is not the one the command names, nothing
happens. A VU instruction waits for its parity (04 R121), and B halts where F issues one in the same cycle (R122). -/
def Core.issue (env : CoreEnv) (c0 : Core) (s : StreamId) (want : Insn → Bool)
    (body : CoreEnv → Core → StreamId → Decoded → Core) : Core :=
  if (c0.stream s).state ≠ .running then c0
  else
    let c := c0.advanceTo env (max (c0.stream s).nextIssue c0.cycle)
    let st := c.stream s
    if st.state ≠ .running then c
    else
      let n := st.pc.toNat / 4
      let (o, raw, rw) := (st.halfOf st.half).line n
      let noted := c.note o raw (BitVec.ofNat 21 (32 * n)) false true false (streamNo s)
      if rw.poison then noted.halt s 0x0A (BitVec.ofNat 12 (4 * n))
      else
        match st.peek with
        | none => noted.illegal s
        | some d =>
          if !want d.2.2 then c0
          else if isVu d.2.2 then
            let c := noted.advanceTo env (vuCycle s c.cycle)
            if (c.stream s).state ≠ .running then c
            else if s = .b ∧ (usedAt c.lastVu .f c.cycle ∨ c.fIssuesAt c.cycle isVu) then c.illegal s
            else body env { c with lastVu := if s = .u then c.lastVu else some (s, c.cycle) } s d
          else body env noted s d

/-- NOP (06 R175). -/
def bodyNop (_ : CoreEnv) (c : Core) (s : StreamId) (d : Decoded) : Core := c.goOn s d.1 d.2.1

/-- HALT (06 R175). -/
def bodyHalt (_ : CoreEnv) (c : Core) (s : StreamId) (_ : Decoded) : Core := c.halt s 0x01 (c.stream s).pc

/-- A stream's event queue takes a code, or drops and counts it when it holds 16 (05 R160). -/
def Stream.event (st0 : Stream) (code : BitVec 16) : Stream :=
  let st := { st0 with nwatch := if code.getLsbD 15 ∧ st0.nwatch ≠ 0xFFFF then st0.nwatch + 1 else st0.nwatch }
  if st.events.length < 16 then { st with events := st.events ++ [(code, st.launch)], lastCode := code }
  else { st with lost := if st.lost = 0xFF then st.lost else st.lost + 1, lastCode := code }

/-- EVENT, CSET, CINC, CMPSET, LCTX: effects on the stream alone (05 R145, R146, R160, 06 R172, R175). -/
def streamEffect (st : Stream) (i : Insn) : Stream :=
  match i with
  | .event code => st.event code
  | .cset k v => { st with counters := st.counters.set k.toFin v }
  | .cinc k v => { st with counters := st.counters.set k.toFin (st.counters[k.toFin] + v) }
  | .cmpset k ctr mode limit => { st with cmps := st.cmps.set k.toFin { limit := limit, counter := ctr, mode := mode } }
  | .lctx x => { st with ctx := x }
  | _ => st

/-- The body of an instruction that acts on its stream alone. -/
def bodyStream (_ : CoreEnv) (c : Core) (s : StreamId) (d : Decoded) : Core :=
  (c.modStream s fun st => streamEffect st d.2.2).goOn s d.1 d.2.1

/-- BR, BRC, BRN (05 R138, R146, 06 R177: the target is judged when it would issue). -/
def bodyBranch (_ : CoreEnv) (c : Core) (s : StreamId) (d : Decoded) : Core :=
  let st := c.stream s
  let taken : Option (BitVec 12) := match d.2.2 with
    | .br t => some t
    | .brc t k => if st.cmpTrue k then some t else none
    | .brn t k => if st.cmpTrue k then none else some t
    | _ => none
  match taken with
  | some t => c.modStream s fun st => { st with pc := t, nextIssue := c.cycle + 1 + d.1.toNat }
  | none => c.goOn s d.1 d.2.1

/-- HSWITCH (05 R142). -/
def bodyHswitch (_ : CoreEnv) (c : Core) (s : StreamId) (d : Decoded) : Core :=
  let st := c.stream s
  match d.2.2 with
  | .hswitch target tag =>
    let h := st.halfOf !st.half
    if h.state ≠ .loaded then c.halt s 0x06 st.pc
    else if h.tag ≠ tag then c.halt s 0x07 st.pc
    else c.modStream s fun st => { st with half := !st.half, pc := target, nextIssue := c.cycle + 1 + d.1.toNat }
  | _ => c

/-- TWAIT: the stream waits, and tests in the same cycle beside every other waiting stream (05 R150, R151). -/
def bodyTwait (_ : CoreEnv) (c : Core) (s : StreamId) (d : Decoded) : Core :=
  match d.2.2 with
  | .twait token count =>
    (c.modStream s fun st =>
      { st with state := .waiting, waitToken := token, waitCount := count, waitGap := d.1, waitFrom := c.cycle,
                wdogCount := 0 }).testNow
  | _ => c

/-- TPOST: a post visible two cycles later, or a post for another core of the module (05 R148, 06 R176). -/
def bodyTpost (env : CoreEnv) (c : Core) (s : StreamId) (d : Decoded) : Core :=
  match d.2.2 with
  | .tpost token count remote core =>
    if remote then
      let p : RemotePost := { core := core.toNat, token := token, count := count }
      if env.enabled ≤ core.toNat then c.illegal s
      else ({ c with remote := c.remote ++ [p] } : Core).goOn s d.1 d.2.1
    else (c.postAt (c.cycle + 2) token count).goOn s d.1 d.2.1
  | _ => c

/-- Descriptors issued to a channel and not yet in its queue (06 R178). -/
def Core.onTheWay (c : Core) (ch : BitVec 2) : Nat :=
  (c.qEntries.filter fun e => e.ch == ch).length
    + (c.accesses.filter fun a => match a.act with | .qpush k .. => k == ch | _ => false).length

/-- QPUSH: reads the descriptor's two words; it enters the channel queue four cycles later (05 R156, 06 R178, 08 R242). -/
def bodyQpush (_ : CoreEnv) (c : Core) (s : StreamId) (d : Decoded) : Core :=
  let st := c.stream s
  match d.2.2 with
  | .qpush ch cadj adjen adjstep addr =>
    let a := st.addrOf addr
    if a % 32 ≠ 0 then c.illegal s
    else if 16 ≤ (c.ch[ch.toFin]).queue.length + c.onTheWay ch then c.halt s 0x0B st.pc
    else
      let adj : Option Int := if adjen then some ((st.ctr cadj : Int) * adjstep.toInt * 32) else none
      let acc : Access :=
        { cycle := c.cycle, who := c.who s, reads := [wordAt a, wordAt (a + 32)], scales := [], writes := [], scaleW := [],
          act := .qpush ch adj st.evalCtx st.step st.launch }
      ({ c with accesses := c.accesses ++ [acc] } : Core).goOn s d.1 d.2.1
  | _ => c

/-- Tokens visible on a stream's wait counter. -/
def Core.visible (c : Core) (s : StreamId) : Nat := (c.tokens[(c.stream s).waitToken.toFin]).toNat

/-- Time passes from one visibility cycle to the next until a Waiting stream is granted (05 R150), or the end of a cycle has judged an
overflow (R149); n bounds the cycles. -/
def Core.awaitGrant (n : Nat) (env : CoreEnv) (c : Core) (s : StreamId) : Core :=
  match n with
  | 0 => c
  | k + 1 =>
    if (c.stream s).state ≠ .waiting then c
    else
      match c.posts with
      | [] => c
      | p :: _ =>
        if p.due ≤ c.cycle then (c.advanceTo env (c.cycle + 1)).awaitGrant k env s
        else ((c.advanceTo env p.due).testNow).awaitGrant k env s

/-- TWAIT_GRANT: a Waiting stream tests now; where its tokens are on their way, the cycle in which they are visible comes. Where
they are not, nothing happens (05 R150, R151). -/
def Core.twaitGrant (env : CoreEnv) (c : Core) (s : StreamId) : Core :=
  if (c.stream s).state ≠ .waiting then c
  else
    let c' := c.testNow.awaitGrant (2 * c.posts.length) env s
    if (c'.stream s).state = .waiting then c else c'

/-- PROGRESS_WATCHDOG_EXPIRY: the count of a Waiting stream reaches `LIMIT` and the stream halts, its token counter unchanged; a
grant in that cycle comes first; a `LIMIT` of 0 and a Paged channel stop the watchdog (05 R151, R159, 08 R253). -/
def Core.watchdog (env : CoreEnv) (c : Core) (s : StreamId) : Core :=
  let st := c.stream s
  if st.state ≠ .waiting ∨ st.wdogLimit = 0 ∨ c.anyPaged then c
  else
    let c' := c.advanceTo env (st.waitFrom + 1024 * st.wdogLimit.toNat)
    if (c'.stream s).state ≠ .waiting then c'
    else
      let c' := c'.testNow
      let c' := if (c'.visiblePosts c'.cycle).isEmpty then c' else c'.advanceTo env (c'.cycle + 1)
      if (c'.stream s).state ≠ .waiting then c' else c'.halt s 0x05 (c'.stream s).pc

/-- TOKEN_POST: the i-th post on its way to the core reaches its token unit; it is visible two cycles later (05 R148). -/
def Core.tokenArrives (c : Core) (i : Nat) : Core :=
  match c.inbound[i]? with
  | none => c
  | some (token, count) => ({ c with inbound := c.inbound.eraseIdx i } : Core).postAt (c.cycle + 2) token count

/-- TOKEN_SET: only while all three streams are Idle or Halted (05 R163). -/
def Core.tokenSet (c : Core) (index : BitVec 5) (value : Byte) : Core :=
  let rest := fun (st : Stream) => st.state = .idle ∨ st.state = .halted
  if rest c.f ∧ rest c.b ∧ rest c.u then { c with tokens := c.tokens.set index.toFin value }
  else { c with hostWrRefused := true }

/-- The cycle of the oldest pending thing of a list, if any. -/
def Core.advanceToNext (env : CoreEnv) (c : Core) (due : Option Nat) : Core :=
  match due with
  | some t => c.advanceTo env t
  | none => c

end Sys2Proof.Machine
end

