-- ==== Sys2Proof/Machine/ArrayOps.lean ====
section
/-! DEFINITION. The array instructions MATMUL, WLOAD, WSWAP, DRAIN and BFILL (06 R168 to R194). -/

namespace Sys2Proof.Machine

/-- An operand descriptor's fields (06 R169). -/
structure OpDesc where
  pri    : AddrTerm
  secOk  : Bool
  sec    : AddrTerm
  fmt    : BitVec 4
  coarse : Byte
  sq     : Bool
  pitch  : Nat
  spitch : Nat
  shape  : BitVec 2
  q      : BitVec 16
  nbase  : BitVec 32

/-- An address term with its reserved bits left out. -/
def termOfWord (w : IWord) : AddrTerm :=
  { base := fld w 0 21, ca := fld w 21 3, ena := flag w 24, stepA := fld w 25 16, cb := fld w 41 3, enb := flag w 44,
    stepB := fld w 45 16 }

/-- The descriptor of a line; none where a reserved bit of its words 2 and 3 or of its codes term is set (06 R164, R166, R169:
DEDUCED, log 13). Whether `SEC`'s reserved bits are 0 is kept for the instructions that read it. -/
def opDesc (d : Data) : Option OpDesc :=
  let w2 := lineWord d 2
  let w3 := lineWord d 3
  if fld w2 55 9 ≠ 0 ∨ fld w3 48 16 ≠ 0 ∨ fld (lineWord d 0) 61 3 ≠ 0 then none
  else
    some { pri := termOfWord (lineWord d 0), secOk := fld (lineWord d 1) 61 3 == 0, sec := termOfWord (lineWord d 1),
           fmt := fld w2 0 4, coarse := fld w2 4 8, sq := flag w2 12, pitch := (fld w2 13 16).toNat,
           spitch := (fld w2 29 24).toNat, shape := fld w2 53 2, q := fld w3 0 16, nbase := fld w3 16 32 }

/-- The array instruction of an other stream of F and B still in progress: a feed, a weight load, a Barchan fill, a drain in its
tail or read (04 R99, 06 R188, R204). -/
def Core.otherBusy (c : Core) (s : StreamId) : Bool :=
  let other := fun (w : Who) => w.stream != s
  (c.feed.map fun f => other f.who).getD false || (c.wload.map fun l => other l.who).getD false
    || (c.bfill.map fun b => other b.who).getD false || (c.drain.map fun d => other d.who).getD false

/-- Whether R99 forbids an array instruction of a stream now. -/
def Core.r99 (c : Core) (s : StreamId) : Bool :=
  s == .u || c.otherBusy s || (s == .b && (usedAt c.lastArray .f c.cycle || c.fIssuesAt c.cycle isArray))

/-- The stream goes on behind an array instruction of one word. -/
def Core.goOnArray (c : Core) (s : StreamId) (g : BitVec 12) : Core :=
  ({ c with lastArray := some (s, c.cycle) } : Core).goOn s g 1

/-- Reads a descriptor and runs the rest with it: an unreadable line halts the stream with cause 0x0A (06 R168), a reserved bit
halts it as illegal. -/
def Core.withDesc (c : Core) (s : StreamId) (desc : BitVec 10) (k : Core → OpDesc → Core) : Core :=
  let st := c.stream s
  let n := desc.toNat
  let (o, raw, rw) := (st.halfOf st.half).line n
  let c := c.note o raw (BitVec.ofNat 21 (32 * n)) false true false (streamNo s)
  if rw.poison then c.halt s 0x0A (BitVec.ofNat 12 (4 * n))
  else
    match opDesc rw.data with
    | none => c.illegal s
    | some d => k c d

/-- Whether a swap is legal: no weight load still writes, and no plane of a B16 shadow is missing (04 R98, 06 R184). -/
def Core.canSwap (c : Core) : Bool := c.wload.isNone && !(4 ≤ c.shadow.fmt.toNat && c.shadow.planes != 3)

/-- The swap of active and shadow (04 R97). -/
def Core.swap (c : Core) : Core := { c with active := c.shadow, shadow := { c.active with planes := 0 } }

/-- The A operand of a MATMUL: format, coarse scale, addresses and pitches, or the slab read through Barchan. -/
structure AOperand where
  fmt    : BitVec 4
  coarse : Byte
  pri    : Nat
  sec    : Nat
  pitch  : Nat
  spitch : Nat
  sq     : Bool
  slab   : Option Slab

/-- A MATMUL with its A operand: the checks of 06 R182, the opening of the bank (03 R73, R82), the start of the feed, which keeps the
coarse scale of the tile active now for all its passes (DESIGN CHOICE, log 100); `slabs` is what is left of the filled slabs. -/
def Core.matmulWith (c : Core) (s : StreamId) (g : BitVec 12) (m : MatmulF) (a : AOperand) (slabs : List Slab) : Core :=
  let st := c.stream s
  let rows := m.mm1.toNat + 1
  let k := c.bank c.filling
  let opened := k.state ≠ .cleared
  let tile := if m.swap then c.shadow else c.active
  if c.r99 s ∨ c.feed.isSome ∨ 128 < m.row0.toNat + rows then c.illegal s
  else if opened ∧ (k.owner ≠ (s == .b) ∨ k.compact ≠ m.cmode) then c.illegal s
  else if (m.chalf ∧ !m.cmode) ∨ (m.swap ∧ !c.canSwap) then c.illegal s
  else
    match passParts m.passes.toNat a.fmt.toNat tile.fmt.toNat with
    | none => c.illegal s
    | some (parts, beats) =>
      let c := if m.swap then c.swap else c
      let e := if m.cmode then 0 else if m.tbSel then m.tbase else BitVec.ofInt 10 (a.coarse.toInt + tile.coarse.toInt - 32)
      let k := if opened then k else { Bank.reset with state := .filling, tbase := e, compact := m.cmode, owner := s == .b }
      let feed : Feed :=
        { who := c.who s, start := c.cycle, beat := 0, bank := c.filling, m := rows, row0 := m.row0.toNat, parts := parts,
          beats := beats, fmt := a.fmt, ca := a.coarse, cb := tile.coarse, pri := a.pri, sec := a.sec, pitch := a.pitch,
          spitch := a.spitch, sq := a.sq, slab := a.slab, compact := m.cmode, chalf := m.chalf, ctx := st.evalCtx,
          step := st.step, words := [], scales := [], tiles := [] }
      ({ c.setBank c.filling k with feed := some feed, slabs := slabs } : Core).goOnArray s g

/-- MATMUL (06 R179 to R182). -/
def bodyMatmul (_ : CoreEnv) (c : Core) (s : StreamId) (d : Decoded) : Core :=
  match d.2.2 with
  | .matmul m =>
    if m.trans then
      match c.slabs with
      | [] => c.illegal s
      | sl :: rest =>
        if 2 ≤ sl.shape.toNat ∨ (shapeOf sl.shape.toNat).2.1 < m.mm1.toNat + 1 then c.illegal s
        else
          c.matmulWith s d.1 m
            { fmt := sl.fmt, coarse := sl.coarse, pri := 0, sec := 0, pitch := 0, spitch := 0, sq := true, slab := some sl } rest
    else
      c.withDesc s m.desc fun c o =>
        let st := c.stream s
        let pri := st.addrOf o.pri
        if 5 < o.fmt.toNat ∨ o.pitch < rowWords o.fmt.toNat 512 ∨ pri % 32 ≠ 0 ∨ !o.secOk then c.illegal s
        else
          c.matmulWith s d.1 m
            { fmt := o.fmt, coarse := o.coarse, pri := pri, sec := st.addrOf o.sec, pitch := o.pitch, spitch := o.spitch,
              sq := o.sq, slab := none } c.slabs
  | _ => c

/-- The shadow as a weight load begins: a plane load goes on with a B16 tile of the same format begun since the last swap, any
other load begins a new tile (06 R183, R184). -/
def Core.beginTile (c : Core) (plane : BitVec 2) (fmt : BitVec 4) (coarse : Byte) : WTile :=
  if plane ≠ 0 ∧ c.shadow.fmt = fmt ∧ c.shadow.planes ≠ 0 then
    { c.shadow with coarse := coarse, planes := c.shadow.planes ||| plane }
  else { fmt := fmt, coarse := coarse, hi := [], lo := [], scales := [], planes := plane }

/-- A weight load begins. -/
def Core.wloadWith (c : Core) (s : StreamId) (g : BitVec 12) (l : WLoad) (coarse : Byte) : Core :=
  ({ c with shadow := c.beginTile l.plane l.fmt coarse, wload := some l } : Core).goOnArray s g

/-- WLOAD (06 R183 to R185). -/
def bodyWload (_ : CoreEnv) (c : Core) (s : StreamId) (d : Decoded) : Core :=
  match d.2.2 with
  | .wload plane tr desc =>
    if tr then
      match c.slabs with
      | [] => c.illegal s
      | sl :: rest =>
        if c.r99 s ∨ c.wload.isSome ∨ plane ≠ 0 ∨ sl.shape.toNat < 2 then c.illegal s
        else
          ({ c with slabs := rest } : Core).wloadWith s d.1
            { who := c.who s, start := c.cycle, row := 0, plane := 0, fmt := sl.fmt, pri := 0, sec := 0, pitch := 0, spitch := 0,
              sq := true, slab := some sl } sl.coarse
    else
      c.withDesc s desc fun c o =>
        let st := c.stream s
        let f := o.fmt.toNat
        let pri := st.addrOf o.pri
        if c.r99 s ∨ c.wload.isSome ∨ 5 < f ∨ (plane = 0) = (4 ≤ f) ∨ o.pitch < wloadWords f ∨ pri % 32 ≠ 0
            ∨ (plane ≠ 2 ∧ !o.secOk) then c.illegal s
        else
          c.wloadWith s d.1
            { who := c.who s, start := c.cycle, row := 0, plane := plane, fmt := o.fmt, pri := pri, sec := st.addrOf o.sec,
              pitch := o.pitch, spitch := o.spitch, sq := o.sq, slab := none } o.coarse
  | _ => c

/-- WSWAP (06 R186). -/
def bodyWswap (_ : CoreEnv) (c : Core) (s : StreamId) (d : Decoded) : Core :=
  if c.r99 s ∨ !c.canSwap then c.illegal s else c.swap.goOnArray s d.1

/-- BFILL (06 R187, R188). -/
def bodyBfill (_ : CoreEnv) (c : Core) (s : StreamId) (d : Decoded) : Core :=
  match d.2.2 with
  | .bfill desc =>
    c.withDesc s desc fun c o =>
      let st := c.stream s
      let sh := o.shape.toNat
      let (_, _, rw, _, halves) := shapeOf sh
      let pri := st.addrOf o.pri
      let fits := if sh % 2 = 0 then o.fmt.toNat < 2 else o.fmt = 2 ∨ o.fmt = 3
      if c.r99 s ∨ c.bfill.isSome ∨ !o.sq ∨ ¬ fits ∨ 2 < c.halvesUsed + halves ∨ o.pitch < rw ∨ pri % 32 ≠ 0 ∨ !o.secOk then
        c.illegal s
      else
        let b : BFill :=
          { who := c.who s, start := c.cycle, cyc := 0, pri := pri, sec := st.addrOf o.sec, pitch := o.pitch, spitch := o.spitch,
            slab := { shape := o.shape, fmt := o.fmt, coarse := o.coarse, words := [], squares := 0, sqPoison := false } }
        ({ c with bfill := some b } : Core).goOnArray s d.1
  | _ => c

/-- Row words of a drain (06 R171, R191). -/
def drainWords (compact : Bool) (fmt topk : Nat) : Nat :=
  if topk ≠ 0 then 4 else fmtBits fmt * bankCols compact / 256

/-- The target checks of a DRAIN (06 R171, R194, R167). -/
def drainTargetOk (f : DrainF) (o : OpDesc) (compact : Bool) (pri sec : Nat) (l : BitVec 32) : Bool :=
  let fmt := o.fmt.toNat
  let k := f.topk.toNat
  fmt ≤ 11 && !(fmt == 11 && (compact || sec % 32 != 0)) && k ≤ 16 && !(k != 0 && !(fmt == 6 || fmt == 7 || fmt == 8))
    && !(f.tkmerge && (k == 0 || sec % 32 != 0))
    && !(o.sq && (!isB fmt || (f.rows.toNat + 1) % 32 != 0 || l.toNat % 32 != 0))
    && !((isB fmt || fmt == 11 || f.tkmerge) && !o.secOk)
    && drainWords compact fmt k ≤ o.pitch && pri % 32 == 0

/-- DRAIN (06 R189 to R194): the filling bank goes into Tail, the other bank fills (04 R101); its completion token is posted by
the row of R148 after the last write's effect. -/
def bodyDrain (_ : CoreEnv) (c : Core) (s : StreamId) (d : Decoded) : Core :=
  match d.2.2 with
  | .drain f =>
    c.withDesc s f.desc fun c o =>
      let st := c.stream s
      let k := c.bank c.filling
      let pri := st.addrOf o.pri
      let sec := st.addrOf o.sec
      let ctx := st.evalCtx
      if c.r99 s ∨ c.feed.isSome ∨ (c.bank !c.filling).state ≠ .cleared ∨ (k.state ≠ .cleared ∧ k.owner ≠ (s == .b))
          ∨ !drainTargetOk f o k.compact pri sec ctx.l then c.illegal s
      else
        let (per, lead) := drainRate k.compact o.fmt.toNat o.sq (f.topk != 0)
        let last := c.cycle + 144 + lead + (f.rows.toNat + 1) * per - 1
        let job : DrainJob :=
          { who := c.who s, start := c.cycle, bank := c.filling, f := f, fmt := o.fmt, coarse := o.coarse, sq := o.sq,
            pitch := o.pitch, spitch := o.spitch, pri := pri, sec := sec, q := o.q, nbase := o.nbase, ctx := ctx, step := st.step, fp := 0, fpPoison := false }
        let c := { c.setBank c.filling { k with state := .tail } with filling := !c.filling, drain := some job }
        let c := if f.tokenEn then c.postAt (last + 3) f.token 1 else c
        c.goOnArray s d.1
  | _ => c

/-- MATMUL_FEED_END: the feed's last beat issues (04 R95). -/
def Core.feedEnd (env : CoreEnv) (c : Core) : Core :=
  match c.feed with
  | none => c
  | some f => c.advanceTo env (f.start + f.total)

/-- P96_ACCUMULATE: the oldest row on its way lands in its bank, 144 cycles after its last beat; a feed in progress is run until a
row is on its way (04 R93). -/
def Core.p96Accumulate (env : CoreEnv) (c : Core) : Core :=
  match c.rows with
  | r :: _ => c.advanceTo env r.due
  | [] =>
    match c.feed with
    | none => c
    | some f => c.advanceTo env (f.start + (f.beat / f.beats + 1) * f.beats + 143)

/-- WLOAD_COMPLETE (04 R96). -/
def Core.wloadComplete (env : CoreEnv) (c : Core) : Core :=
  match c.wload with
  | none => c
  | some l => c.advanceTo env (l.start + 128)

/-- BFILL_COMPLETE (04 R113). -/
def Core.bfillComplete (env : CoreEnv) (c : Core) : Core :=
  match c.bfill with
  | none => c
  | some b => c.advanceTo env (b.start + b.cycles)

/-- BANK_TAIL_END: the bank in Tail goes to Reading (04 R102). -/
def Core.bankTailEnd (env : CoreEnv) (c : Core) : Core :=
  match c.drain with
  | none => c
  | some d => c.advanceTo env (d.start + 144)

/-- BANK_DRAIN_END: the bank returns to Cleared (04 R102). -/
def Core.bankDrainEnd (env : CoreEnv) (c : Core) : Core :=
  match c.drain with
  | none => c
  | some d => c.advanceTo env (d.start + 144 + d.readTime (c.bank d.bank).compact)

end Sys2Proof.Machine
end

