-- ==== Sys2Proof/Machine/VectorOps.lean ====
section
/-! DEFINITION. The vector instructions (06 R195 to R203). -/

namespace Sys2Proof.Machine

/-- A vector register. -/
def Core.vr (c : Core) (r : BitVec 5) : VReg := c.v[r.toFin]

/-- A lane mask: L0 reads as all ones (06 R195). -/
def Core.lm (c : Core) (l : BitVec 3) : BitVec 64 := if l = 0 then 0xFFFFFFFFFFFFFFFF else c.lanes[l.toFin]

/-- The register after a register; the last one's next is itself (callers refuse that case). -/
def nextReg (r : BitVec 5) : BitVec 5 := if r = 31 then r else r + 1

/-- The random word of a lane: its logical element index is in lane i of VC (06 R200, R201). -/
def Core.laneRand (env : CoreEnv) (c : Core) (s : StreamId) (vc : BitVec 5) (i : Nat) : BitVec 32 :=
  srWord env.key (c.stream s).ctx.tid (c.stream s).step (lane (c.vr vc).data i)

/-- A register result after a latency, and the stream goes on. -/
def Core.regLater (c : Core) (s : StreamId) (d : Decoded) (lat : Nat) (vd : BitVec 5) (m : BitVec 64) (data : BitVec 2048)
    (p : BitVec 8) : Core :=
  (c.vuLater s (c.cycle + lat) (.reg vd m data (wordsTouched m) p)).goOn s d.1 d.2.1

/-- VFP (06 R197). -/
def bodyVfp (_ : CoreEnv) (c : Core) (s : StreamId) (d : Decoded) : Core :=
  match d.2.2 with
  | .vfp h =>
    let fn := h.fn.toNat
    let a := c.vr h.va
    let b := c.vr h.vb
    let x := c.vr h.vc
    let m := c.lm h.lm
    if 8 ≤ fn ∧ fn ≤ 11 then
      let bits := laneMask fun i => cmp32 fn (lane a.data i) (lane b.data i)
      (c.vuLater s (c.cycle + 6) (.lane (h.vd.extractLsb' 0 3) m bits)).goOn s d.1 d.2.1
    else
      c.regLater s d (if 16 ≤ fn then 12 else 6) h.vd m
        (ofLanes fun i => vfpLane fn (lane a.data i) (lane b.data i) (lane x.data i))
        (vfpPoison fn a.poison b.poison x.poison)
  | _ => c

/-- VINT (06 R198). -/
def bodyVint (_ : CoreEnv) (c : Core) (s : StreamId) (d : Decoded) : Core :=
  match d.2.2 with
  | .vint h =>
    let (data, p) := vintResult h.fn.toNat h.imm (c.lm (h.vc.extractLsb' 0 3)) (c.vr h.va) (c.vr h.vb)
    c.regLater s d 2 h.vd (c.lm h.lm) data p
  | _ => c

/-- VXL (06 R199): lane 0 of VD is written whatever the mask holds. -/
def bodyVxl (_ : CoreEnv) (c : Core) (s : StreamId) (d : Decoded) : Core :=
  match d.2.2 with
  | .vxl h =>
    let m := c.lm h.lm
    let a := c.vr h.va
    c.regLater s d 12 h.vd 1 ((vxlResult h.fn.toNat m a.data).setWidth 2048) (if poisonIn m a.poison then 1 else 0)
  | _ => c

/-- VCVT (06 R200). The same B format at the same coarse scale is no pair of 02 R57. The flags of all n elements are raised, whatever lanes
the mask keeps: DESIGN CHOICE (log 102), as 06 R195 and R200 speak of the lanes written alone. -/
def bodyVcvt (env : CoreEnv) (c : Core) (s : StreamId) (d : Decoded) : Core :=
  match d.2.2 with
  | .vcvt h w =>
    let sf := (h.vb.extractLsb' 0 4).toNat
    let df := (h.fn.extractLsb' 0 4).toNat
    if !pairOk sf df ∨ (isB sf = true ∧ sf = df ∧ w.sc = w.dc) ∨ (paired sf ∧ h.va = 31) ∨ (paired df ∧ h.vd = 31) then c.illegal s
    else
      let r := cvtResult sf df w (c.lm h.lm) (c.laneRand env s h.vc) (c.vr h.vc).poison (c.vr h.va) (c.vr (nextReg h.va))
      let c := c.vuLater s (c.cycle + 8) (.reg h.vd r.mask r.data (wordsTouched r.mask) r.poison)
      let c := if paired df then
          c.vuLater s (c.cycle + 8) (.reg (nextReg h.vd) r.auxMask r.aux (wordsTouched r.auxMask) r.auxPoison)
        else c
      (c.flag s r.flags).goOn s d.1 d.2.1
  | _ => c

/-- Enabled lanes of a mask. -/
def lanesOf (m : BitVec 64) : List Nat := (List.range 64).filter fun i => m.getLsbD i

/-- Terms that lane values add to an accumulator (06 R201). -/
def termsOf (vs : List FVal) : List (Bool × Nat × Int) × Byte :=
  let ts := vs.map termOf
  (ts.flatMap (·.1), orFlags (ts.map (·.2)))

/-- NACC, NSQ, NDOT (06 R201, 04 R126): the exact lane terms of `f`, with the poison of the words in `p`. -/
def Core.nTerms (c : Core) (s : StreamId) (d : Decoded) (h : VuHead) (f : Nat → FVal) (p : BitVec 8) : Core :=
  let m := c.lm h.lm
  let (ts, fl) := termsOf ((lanesOf m).map f)
  (c.vuLater s (c.cycle + 10) (.nadd (h.vd.extractLsb' 0 3) ts fl (poisonIn m p))).goOn s d.1 d.2.1

/-- NOPEN (06 R201). -/
def bodyNopen (_ : CoreEnv) (c : Core) (s : StreamId) (d : Decoded) : Core :=
  match d.2.2 with
  | .vnacc h =>
    (c.vuLater s (c.cycle + 10) (.nopen (h.vd.extractLsb' 0 3) (h.imm.extractLsb' 0 12))).goOn s d.1 d.2.1
  | _ => c

/-- NACC (06 R201). -/
def bodyNacc (_ : CoreEnv) (c : Core) (s : StreamId) (d : Decoded) : Core :=
  match d.2.2 with
  | .vnacc h => c.nTerms s d h (fun i => f32 (lane (c.vr h.va).data i)) (c.vr h.va).poison
  | _ => c

/-- NSQ (06 R201). -/
def bodyNsq (_ : CoreEnv) (c : Core) (s : StreamId) (d : Decoded) : Core :=
  match d.2.2 with
  | .vnacc h =>
    c.nTerms s d h (fun i => let x := f32 (lane (c.vr h.va).data i); fvalMul x x) (c.vr h.va).poison
  | _ => c

/-- NDOT (06 R201). -/
def bodyNdot (_ : CoreEnv) (c : Core) (s : StreamId) (d : Decoded) : Core :=
  match d.2.2 with
  | .vnacc h =>
    c.nTerms s d h (fun i => fvalMul (f32 (lane (c.vr h.va).data i)) (f32 (lane (c.vr h.vb).data i)))
      ((c.vr h.va).poison ||| (c.vr h.vb).poison)
  | _ => c

/-- NREAD (06 R201): lane 0 of VD is the accumulator as FP32; lane 0's mask bit governs the write (06 R195). With SR the word of the index in
VC is an operand word (04 R124). Where lane 0 is masked off no flag is raised: DESIGN CHOICE (log 102), the spec is silent. -/
def bodyNread (env : CoreEnv) (c : Core) (s : StreamId) (d : Decoded) : Core :=
  match d.2.2 with
  | .vnacc h =>
    let a := c.n[(h.va.extractLsb' 0 3).toFin]
    let round := h.imm.extractLsb' 0 2
    if round = 3 then c.illegal s
    else
      let (x, fl) := toFp fp32 round (c.laneRand env s h.vc 0) (nVal a)
      let m := c.lm h.lm &&& 1
      (c.flag s (if m = 0 then 0 else fl)).regLater s d 14 h.vd m (BitVec.ofNat 2048 x)
        (if a.poison || (round == 2 && (c.vr h.vc).poison.getLsbD 0) then 1 else 0)
  | _ => c

/-- MWADD and MWADDN on a list of elements, each with its delta, its random word and whether the word of its index is poisoned (06 R201, 02
R62): elements whose hi, ext or delta is poisoned are not written, and the stream then halts with cause 0x0D (07 R218, 09 R277). With SR a
poisoned index word marks the words written (04 R124). Of `VD` + 1 the 16-bit halves of the written elements alone are written. -/
def Core.mwAddOn (c : Core) (s : StreamId) (d : Decoded) (h : VuHead) (es : List Nat) (delta : Nat → FVal)
    (dpsn : Nat → Bool) (rnd : Nat → BitVec 32) (rpsn : Nat → Bool) : Core :=
  let round := h.imm.extractLsb' 0 2
  if h.vd = 31 ∨ round = 3 then c.illegal s
  else
    let hi := c.vr h.vd
    let ext := c.vr (nextReg h.vd)
    let bad := fun i => dpsn i || hi.poison.getLsbD (i / 8) || ext.poison.getLsbD (i / 16)
    let good := es.filter fun i => !bad i
    let res := good.map fun i => (i, mwAdd round (rnd i) (lane hi.data i) (BitVec.ofNat 16 (elem 16 ext.data i)) (delta i))
    let hiNew := ofLanes fun i => ((res.lookup i).map (·.1)).getD (lane hi.data i)
    let extNew := ofElems 16 fun i => ((res.lookup i).map fun r => r.2.1.toNat).getD (elem 16 ext.data i)
    let hm := laneMask fun i => good.contains i
    let em : BitVec 128 := hm.setWidth 128
    let marks := fun (n : Nat) => markWords (fun k => good.getD k 0 / n) (good.map fun i => round == 2 && rpsn i)
    let c := c.flag s (orFlags (res.map fun r => r.2.2.2))
    let c := if good.isEmpty then c else
      (c.vuLater s (c.cycle + 10) (.reg h.vd hm hiNew (wordsTouched hm) (hi.poison ||| marks 8))).vuLater s (c.cycle + 10)
        (.halves (nextReg h.vd) em extNew (ext.poison ||| marks 16))
    if es.any bad then c.halt s 0x0D (c.stream s).pc else c.goOn s d.1 d.2.1

/-- MWADD (06 R201). -/
def bodyMwadd (env : CoreEnv) (c : Core) (s : StreamId) (d : Decoded) : Core :=
  match d.2.2 with
  | .vnacc h =>
    let dl := c.vr h.va
    c.mwAddOn s d h (lanesOf (c.lm h.lm)) (fun i => f32 (lane dl.data i)) (fun i => dl.poison.getLsbD (i / 8))
      (c.laneRand env s h.vc) (fun i => (c.vr h.vc).poison.getLsbD (i / 8))
  | _ => c

/-- MWADDN (06 R201): element IMM[7:2] alone, the exact value of an accumulator as delta, the random word of lane 0 of VC. -/
def bodyMwaddn (env : CoreEnv) (c : Core) (s : StreamId) (d : Decoded) : Core :=
  match d.2.2 with
  | .vnacc h =>
    let a := c.n[(h.vb.extractLsb' 0 3).toFin]
    let e := (h.imm.extractLsb' 2 6).toNat
    c.mwAddOn s d h ((lanesOf (c.lm h.lm)).filter fun i => i == e) (fun _ => nVal a) (fun _ => a.poison)
      (fun _ => c.laneRand env s h.vc 0) (fun _ => (c.vr h.vc).poison.getLsbD 0)
  | _ => c

/-- Elements of the enabled lanes entered into a mask word at an element offset (06 R202). -/
def enterMask (b : MaskBuf) (off : Nat) (lanes : List Nat) (v : Nat → Nat) (poison : Bool) : MaskBuf :=
  let w := maskBits b.fmt.toNat
  lanes.foldl (fun b i =>
    let sh := w * (off + i)
    let m : Data := BitVec.ofNat 256 ((2 ^ w - 1) * 2 ^ sh)
    { b with data := (b.data &&& ~~~ m) ||| (BitVec.ofNat 256 (v i % 2 ^ w * 2 ^ sh)), filled := b.filled ||| m })
    { b with poison := b.poison || poison }

/-- MWRITE (04 R127, 06 R202): the word goes out in full when every element is in, on FLUSH, and when another address is named.
Its write issues in the next cycle, so that it takes effect with the latency of 4 (DEDUCED, log 14). An MWRITE of another mask format to the
word that the buffer collects goes on with the bits collected so far, and an MWRITE with no enabled lane takes the buffer for its address all
the same: DESIGN CHOICE (log 124), as the spec speaks of neither. -/
def bodyMwrite (_ : CoreEnv) (c : Core) (s : StreamId) (d : Decoded) : Core :=
  match d.2.2 with
  | .vmask h w =>
    let st := c.stream s
    let a := st.addrOf (termOfWord w)
    if a % 32 ≠ 0 then c.illegal s
    else
      let fmt := h.imm.extractLsb' 0 2
      let m := c.lm h.lm
      let full := fun (b : MaskBuf) =>
        ({ word := b.word, data := b.data, mask := 0xFFFFFFFF, poison := b.poison } : WriteReq)
      let other := match st.maskBuf with
        | some b => if b.word = wordAt a then [] else [full b]
        | none => []
      let b0 : MaskBuf := match st.maskBuf with
        | some b => if b.word = wordAt a then { b with fmt := fmt } else { word := wordAt a, fmt := fmt, data := 0, filled := 0, poison := false }
        | none => { word := wordAt a, fmt := fmt, data := 0, filled := 0, poison := false }
      let va := c.vr h.va
      let src := c.lm (h.va.extractLsb' 0 3)
      let b1 := enterMask b0 (h.imm.extractLsb' 2 8).toNat (lanesOf m)
        (fun i => if fmt = 1 then (if src.getLsbD i then 1 else 0) else (lane va.data i).toNat)
        (fmt != 1 && poisonIn m va.poison)
      let done := b1.filled == BitVec.allOnes 256 || h.imm.getLsbD 10
      let ws := other ++ (if done then [full b1] else [])
      let acc : Access :=
        { cycle := c.cycle + 1, who := c.who s, reads := [], scales := [], writes := ws, scaleW := [], act := .none }
      let c := c.modStream s fun st => { st with maskBuf := if done then none else some b1 }
      let c := if ws.isEmpty then c else { c with accesses := c.accesses ++ [acc] }
      let c := if !ws.isEmpty && h.vc.getLsbD 0 then c.postAt (c.cycle + 7) h.vb 1 else c
      c.goOn s d.1 d.2.1
  | _ => c

/-- MREAD (04 R128, 06 R202). -/
def bodyMread (_ : CoreEnv) (c : Core) (s : StreamId) (d : Decoded) : Core :=
  match d.2.2 with
  | .vmask h w =>
    let a := (c.stream s).addrOf (termOfWord w)
    if a % 32 ≠ 0 then c.illegal s
    else
      let acc : Access :=
        { cycle := c.cycle, who := c.who s, reads := [wordAt a], scales := [], writes := [], scaleW := [],
          act := .mread (c.cycle + 4) h.vd (h.imm.extractLsb' 0 2) (h.imm.extractLsb' 2 8).toNat (c.lm h.lm) }
      ({ c with accesses := c.accesses ++ [acc] } : Core).goOn s d.1 d.2.1
  | _ => c

/-- The lanes of a mask whose word of a register is not poisoned. -/
def cleanLanes (m : BitVec 64) (p : BitVec 8) : BitVec 64 := m &&& laneMask fun i => !p.getLsbD (i / 8)

/-- DROP (04 R129, 06 R202). A lane whose index word is poisoned writes no bit: no lane-mask bit but a compare's comes from a poisoned word
(09 R276; DESIGN CHOICE, log 98). -/
def bodyDrop (env : CoreEnv) (c : Core) (s : StreamId) (d : Decoded) : Core :=
  match d.2.2 with
  | .vmask h w =>
    let keep := (fld w 0 32).toNat
    let bits := laneMask fun i => decide ((c.laneRand env s h.vc i).toNat < keep)
    (c.vuLater s (c.cycle + 4) (.lane (h.vd.extractLsb' 0 3) (cleanLanes (c.lm h.lm) (c.vr h.vc).poison) bits)).goOn s d.1 d.2.1
  | _ => c

/-- The 8 words from an address on. -/
def eightWords (a : Nat) : List Nat := (List.range 8).map fun w => wordAt (a + 32 * w)

/-- VLD (06 R203). -/
def bodyVld (_ : CoreEnv) (c : Core) (s : StreamId) (d : Decoded) : Core :=
  match d.2.2 with
  | .vld h addr =>
    let a := (c.stream s).addrOf addr
    if a % 32 ≠ 0 then c.illegal s
    else
      let acc : Access :=
        { cycle := c.cycle, who := c.who s, reads := eightWords a, scales := [], writes := [], scaleW := [],
          act := .vld (c.cycle + 4) h.vd (c.lm h.lm) }
      ({ c with accesses := c.accesses ++ [acc] } : Core).goOn s d.1 d.2.1
  | _ => c

/-- The byte mask of a word's enabled lanes. -/
def laneBytes (m : BitVec 64) (w : Nat) : BitVec 32 :=
  BitVec.ofNat 32 (packBits 4 ((List.range 8).map fun i => if m.getLsbD (8 * w + i) then 15 else 0))

/-- VST's writes: word w in full when all its lanes are enabled, narrow when some are, and either leaves the poison code word when its word of
the register is poisoned (06 R203, 04 R124). -/
def vstWrites (a : Nat) (m : BitVec 64) (r : VReg) : List WriteReq :=
  ((List.range 8).map fun w =>
    ({ word := wordAt (a + 32 * w), data := r.data.extractLsb' (256 * w) 256, mask := laneBytes m w,
       poison := r.poison.getLsbD w && laneBytes m w != 0 } : WriteReq)).filter fun q => q.mask != 0

/-- Cycles from issue to the last effect of writes: 7 where one is narrow, else 3 (04 R119, R120). -/
def lastEffect (ws : List WriteReq) : Nat := if ws.any (fun q => q.mask != 0xFFFFFFFF) then 7 else 3

/-- VST (06 R203). -/
def bodyVst (_ : CoreEnv) (c : Core) (s : StreamId) (d : Decoded) : Core :=
  match d.2.2 with
  | .vst h addr =>
    let a := (c.stream s).addrOf addr
    if a % 32 ≠ 0 then c.illegal s
    else
      let ws := vstWrites a (c.lm h.lm) (c.vr h.va)
      let acc : Access :=
        { cycle := c.cycle, who := c.who s, reads := [], scales := [], writes := ws, scaleW := [], act := .none }
      let c := if ws.isEmpty then c else { c with accesses := c.accesses ++ [acc] }
      let c := if h.vc.getLsbD 0 then c.postAt (c.cycle + lastEffect ws + 3) h.vb 1 else c
      c.goOn s d.1 d.2.1
  | _ => c

/-- SCRATCHPAD_WRITE_EFFECT: the oldest pending write takes effect (04 R119, R120); accesses still to be made are made first. -/
def Core.writeEffect (env : CoreEnv) (c : Core) : Core :=
  let c' := if c.writes.isEmpty ∧ !c.accesses.isEmpty then c.advanceTo env (c.cycle + 2) else c
  c'.advanceToNext env (c'.writes.head?.map (·.due))

/-- VU_RESULT_WRITEBACK: the oldest pending VU result is put in place (06 R196); accesses still to be made are made first. -/
def Core.writeback (env : CoreEnv) (c : Core) : Core :=
  let c' := if c.vuPending.isEmpty ∧ !c.accesses.isEmpty then c.advanceTo env (c.cycle + 1) else c
  c'.advanceToNext env (c'.vuPending.head?.map (·.due))

/-- Whether work that a stream issued is still under way (05 R158). -/
def Core.streamBusy (c : Core) (s : StreamId) : Bool :=
  let mine := fun (w : Who) => w.stream == s
  (c.feed.map fun f => mine f.who).getD false || (c.wload.map fun l => mine l.who).getD false
    || (c.bfill.map fun b => mine b.who).getD false || (c.drain.map fun d => mine d.who).getD false
    || c.rows.any (fun r => r.stream == s) || c.writes.any (fun w => w.stream == s)
    || c.accesses.any (fun a => mine a.who) || c.vuPending.any (fun p => p.stream == s)
    || c.qEntries.any (fun e => e.desc.stream == s)

/-- Time passes until none of a stream's work is under way; n bounds the cycles. -/
def Core.finishWork (n : Nat) (env : CoreEnv) (c : Core) (s : StreamId) : Core :=
  match n with
  | 0 => c
  | k + 1 => if c.streamBusy s then (c.advanceTo env (c.cycle + 1)).finishWork k env s else c

/-- Cycles within which any work that a core has in hand ends: the longest feed (128 rows × 16 beats) with its 144 cycles, the
longest drain read. -/
def workBound : Nat := 4096

end Sys2Proof.Machine
end

