-- ==== Sys2Proof/Machine/Ops.lean ====
section
/-! DEFINITION. The named operations of the module that every command shares: what it sends, free values, records, its cores, its
memories with their logs and ownership checks (01, 09, 12, 14, 16). -/

namespace Sys2Proof.Machine

/-- A counter goes up by one and saturates (10 R316, 12 R389). -/
def satInc {n : Nat} (x : BitVec n) : BitVec n := if x = BitVec.allOnes n then x else x + 1

/-- A counter goes up by k and saturates. -/
def satAdd {n : Nat} (x : BitVec n) (k : Nat) : BitVec n := BitVec.ofNat n (min (2 ^ n - 1) (x.toNat + k))

/-- The module sends something to its surroundings. -/
def State.send (s : State) (o : Out) : State := { s with out := s.out ++ [o] }

/-- The control cycle that commands share, where they share one, notes something (log 82). -/
def State.mark (s : State) (f : CycleMarks → CycleMarks) : State := { s with cycle := s.cycle.map f }

/-- The level of an output pin; `PRESENT_N` is tied to ground (17 R497). -/
def State.pinLevel (s : State) (p : Pin) : Bool :=
  match p with
  | .pwrGood => s.power.pwrGood
  | .thermTripN => s.power.thermTripN
  | .presentN => false

/-- A free value is drawn. -/
def State.draw (s : State) (place : Nat) : Nat × State := (Config.freeValue place s.free, { s with free := s.free + 1 })

/-- Bytes are written to host memory; nothing goes out while Bus Master is disabled (15 R459; PRESUMED from the PCIe Base
Specification, log 120). -/
def State.dma (s : State) (addr : Nat) (bytes : List Byte) : State :=
  if s.power.busMaster then s.send (.hostWrite addr bytes false) else s

/-- An MSI-X vector is raised: sent at once, or pending while its entry is masked or Bus Master is disabled (log 120); none without a
PCIe link (12 R359). -/
def State.msix (s : State) (v : Nat) : State :=
  if s.power.endpoint ≠ .ready then s
  else if (spGet MsixEntry.reset s.host.msix v).masked || !s.power.busMaster then
    { s with host := { s.host with pba := s.host.pba ||| BitVec.ofNat 64 (2 ^ v) } }
  else s.send (.msix v)

/-- An in-band interrupt, unless DISEC has disabled them (15 R451). -/
def State.ibi (s : State) (b : Byte) : State := if s.power.i3cOn ∧ s.power.ibiOn then s.send (.ibi b) else s

/-- `STATE` of MODULE_STATE changes: vector 13 and the in-band interrupt 0x03 (12 R359, 15 R451). -/
def State.setState (s : State) (v : BitVec 4) : State :=
  if s.ident.state = v then s
  else (({ s with ident := { s.ident with state := v } } : State).msix 13).ibi 0x03

/-- The in-band interrupts among what is sent, in ascending byte order in the places they take (15 R451). -/
def ibisInOrder (l : List Out) : List Out :=
  let due := fun (b : Byte) => l.filter (· == .ibi b)
  (l.foldl (fun (x : List Out × List Out) o =>
    match o, x.2 with
    | .ibi _, b :: r => (x.1 ++ [b], r)
    | o, r => (x.1 ++ [o], r)) ([], due 0x01 ++ due 0x02 ++ due 0x03)).1

/-- What a command has sent since `s`: its in-band interrupts fall in one control cycle, and go out in ascending order (15 R451). -/
def State.oneCycle (t s : State) : State := { t with out := s.out ++ ibisInOrder (t.out.drop s.out.length) }

/-- The domains in the order in which main power-up brings them up, those that come up together in one (15 R445, R456): PD5, PD4, PD2,
PD3, PD6 to PD13, PD14 to PD17, PD18, PD19. -/
def domainGroups : List (BitVec 20) := [0x00020, 0x00010, 0x00004, 0x00008, 0x03FC0, 0x3C000, 0x40000, 0x80000]

/-- One more group of domains is on while main power comes up, or one fewer, in the reverse order, while it goes off (15 R456, R462). -/
def Power.domainStep (p : Power) : Power :=
  if p.stage = .rails then
    match domainGroups.find? fun g => p.pdOn &&& g == 0 with
    | some g => { p with pdOn := p.pdOn ||| g }
    | none => p
  else if p.stage = .goingOff then
    match domainGroups.reverse.find? fun g => p.pdOn &&& g != 0 with
    | some g => { p with pdOn := p.pdOn &&& ~~~g }
    | none => p
  else p

/-- A record is submitted to Cairn, or dropped and counted when the queue holds 32. Those submitted in one control cycle stand in ascending
`ORIGIN` (16 R488). -/
def State.record (s : State) (type : BitVec 16) (origin : Byte) (payload : List Byte) : State :=
  let q := s.cairn.queue
  let n := q.length - (match s.cycle with
    | some k => k.records
    | none => 0)
  let e : CairnEntry := { type := type, origin := origin, payload := payload }
  let q' := q.take n ++ insertDue (fun (x : CairnEntry) => x.origin.toNat) e (q.drop n)
  let s := s.mark fun k => { k with records := k.records + 1 }
  if q.length < 32 then { s with cairn := { s.cairn with queue := q' } }
  else { s with cairn := { s.cairn with queue := q'.take 32, lost := satInc s.cairn.lost } }

/-- Enabled physical cores in rising order: logical core n is the n-th (00 R5). -/
def Ident.cores (i : Ident) : List Nat := (List.range 224).filter fun p => i.enabled.getLsbD p

/-- Enabled-core count (01 R26). -/
def State.coreCount (s : State) : Nat := s.ident.cores.length

/-- The physical core of a logical one. -/
def State.physOf (s : State) (n : Nat) : Option Nat := s.ident.cores[n]?

/-- The logical core of a physical one: the enabled cores below it (00 R5). -/
def State.logOf (s : State) (p : Nat) : Nat := (s.ident.cores.filter fun q => decide (q < p)).length

/-- Whether a physical core is enabled (00 R5). -/
def State.coreOn (s : State) (p : Nat) : Bool := s.ident.enabled.getLsbD p

/-- A core of the module. -/
def State.core (s : State) (p : Nat) : Core := spGet Core.reset s.cores p

/-- The module with a core replaced. -/
def State.setCore (s : State) (p : Nat) (c : Core) : State := { s with cores := spSet Core.reset s.cores p c }

/-- What a core takes from the module. -/
def State.coreEnv (s : State) (p : Nat) : CoreEnv := { key := s.job.key, enabled := s.coreCount, phys := p }

/-- The module's Erg address of a byte in a region (01 R19). -/
def State.physAddr (s : State) (region off : Nat) : BitVec 64 :=
  BitVec.ofNat 64 (2 ^ 48 * s.ident.id.toNat + 2 ^ 44 * region + off)

/-- The MEM_UE record of an uncorrectable word (09 R280, 16 R492): source, how it was found, lane, address, syndrome. -/
def State.ueRecord (s : State) (src : Nat) (patrol rmw : Bool) (lane : Byte) (addr : BitVec 64) (syn : BitVec 32) : State :=
  let how := (if patrol then 1 else 0) + (if rmw then 2 else 0) + (if patrol || rmw then 0 else 4)
  (s.msix 9).record 0x0020 1
    ([BitVec.ofNat 8 src, BitVec.ofNat 8 how, lane, 0, 0, 0, 0, 0] ++ leBytes 8 addr.toNat ++ leBytes 4 syn.toNat)

/-- An uncorrectable word of a core is reported. The spec numbers no source for a core's words and gives instruction memory no
Erg address: those are free values (log 15). -/
def State.coreUe (s : State) (p : Nat) (u : FoundUe) : State :=
  let (src, s) := s.draw 2
  let (a, s) := s.draw 3
  let addr := if u.imem then BitVec.ofNat 64 a else s.physAddr 8 (2 ^ 21 * s.logOf p + u.addr.toNat)
  s.ueRecord (src % 256) false u.rmw 0 addr u.syn

/-- A post on its way to a logical core of the module (05 R148). -/
def State.post (s : State) (core : Nat) (token : BitVec 5) (count : BitVec 8) : State :=
  match s.physOf core with
  | some p =>
    let c := s.core p
    s.setCore p { c with inbound := c.inbound ++ [(token, count)] }
  | none => s

/-- The place of a fingerprint entry in the table (14 R428). -/
def fpKey (step : BitVec 32) (layer kind : Nat) : Nat := (4096 * step.toNat + layer) * 4 + (kind - 1)

/-- Fingerprint layers in force (14 R443). -/
def Silent.fpLayers (x : Silent) : Nat := min 4096 x.layers.toNat

/-- A tap's partial sum enters the fingerprint table (14 R426, R428, R430). -/
def State.tap (s : State) (t : Tap) : State :=
  let kind := (t.tid.extractLsb' 60 3).toNat
  let layer := (t.tid.extractLsb' 48 12).toNat
  if kind = 0 then s
  else if 5 ≤ kind then { s with silent := { s.silent with badKind := satInc s.silent.badKind } }
  else if s.silent.fpLayers ≤ layer then { s with silent := { s.silent with dropped := satInc s.silent.dropped } }
  else
    let k := fpKey t.step layer kind
    let e := (spGet 0 s.silent.table k).toNat
    let v := fpAdd (bitsOf e 0 61) (t.sum % fpMod)
    let poison := t.poison || decide (bitsOf e 62 1 = 1)
    { s with silent := { s.silent with
        table := spSet 0 s.silent.table k (BitVec.ofNat 64 (v + (if poison then 2 ^ 62 else 0) + 2 ^ 63)) } }

/-- A core acts, and what it has for the module goes on: uncorrectable words, posts for other cores, fingerprint sums. -/
def State.onCore (s : State) (p : Nat) (f : CoreEnv → Core → Core) : State :=
  let c := f (s.coreEnv p) (s.core p)
  let s := s.setCore p { c with ues := [], remote := [], taps := [] }
  let s := c.ues.foldl (fun s u => s.coreUe p u) s
  let s := c.remote.foldl (fun s r => s.post r.core r.token r.count) s
  c.taps.foldl State.tap s

/-- Whether the cores work: they are released, and the module has not stopped (01 R26, 13 R390). -/
def State.coresRun (s : State) : Bool :=
  s.power.stage == .on && (s.ident.state == 0x2 || s.ident.state == 0x3 || s.ident.state == 0x4)

/-- A core acts if it is enabled and released. -/
def State.atCore (s : State) (p : Nat) (f : CoreEnv → Core → Core) : State :=
  if s.coresRun && s.coreOn p then s.onCore p f else s

/-- The stream key and environment of a stream instruction are the core's; the instruction at its program counter issues. -/
def State.issue (s : State) (p : CoreId) (st : StreamId) (want : Insn → Bool)
    (body : CoreEnv → Core → StreamId → Decoded → Core) : State :=
  s.atCore p.val fun env c => c.issue env st want body

/-- Places between which a word travels: a compute die, a memory-side die, the I/O die (01 R12). -/
inductive Site where
  | die (d : Nat)
  | side (m : Nat)
  | io
  deriving DecidableEq, Repr

/-- Log sources of the ring links that a word crosses from one compute die to another (01 R14, 09 R280). -/
def ringPath (a b : Nat) : List Nat :=
  if b = a then []
  else if b = (a + 1) % 4 then [6 + a]
  else if b = (a + 3) % 4 then [6 + b]
  else [6 + a, 6 + (a + 1) % 4]

/-- The compute die through which a memory-side die is reached from a compute die (01 R12, R15). -/
def sideDie (d m : Nat) : Nat := if d / 2 = m then d else 3 - d

/-- Log sources of the UCIe links that a word crosses (01 R12 to R15). From the I/O die to LPDDR6 it passes one of the two compute
dies joined to the memory-side die, and the spec does not say which: the argument `pick` does. -/
def linkPath (pick : Bool) (a b : Site) : List Nat :=
  match a, b with
  | .die x, .die y => ringPath x y
  | .die x, .io | .io, .die x => [14 + x]
  | .die x, .side m => ringPath x (sideDie x m) ++ [10 + sideDie x m]
  | .side m, .die x => (10 + sideDie x m) :: ringPath (sideDie x m) x
  | .side m, .io | .io, .side m => let d := 2 * m + (if pick then 1 else 0); [10 + d, 14 + d]
  | _, _ => []

/-- A source log counts (09 R280). -/
def State.modLog (s : State) (src : Nat) (f : SrcLog → SrcLog) : State :=
  { s with mem := { s.mem with logs := spMod SrcLog.reset s.mem.logs src f } }

/-- A word that carries poison crosses UCIe links: each receiver counts a poison code word (09 R265, R280). -/
def State.crossing (s : State) (a b : Site) (poison : Bool) : State :=
  if poison then
    (linkPath (Config.freeBit s.free) a b).foldl (fun s src => s.modLog src fun l => { l with psn := satInc l.psn })
      { s with free := s.free + 1 }
  else s

/-- A source counts an uncorrectable word, and latches it where it is the first; of two found in one control cycle it latches the one of the
lower address (09 R280). -/
def State.latchUe (s : State) (src : Nat) (patrol rmw : Bool) (lane : Byte) (addr : BitVec 64) (syn : BitVec 32) : State :=
  let l := spGet SrcLog.reset s.mem.logs src
  let take := !l.valid || (s.cycle.any (fun k => k.ues.contains src) && decide (addr.toNat < l.addr.toNat))
  let s := s.modLog src fun l =>
    let l := { l with ue := satInc l.ue }
    if take then { l with addr := addr, syn := syn, valid := true, patrol := patrol, rmw := rmw, lane := lane } else l
  if take then s.mark fun k => { k with ues := src :: k.ues } else s

/-- A decoding outcome at a memory source is logged (09 R263, R280). -/
def State.logWord (s : State) (src : Nat) (o : DecodeOutcome) (raw : CodeWord) (addr : BitVec 64) (lane : Byte)
    (patrol rmw : Bool) : State :=
  match o with
  | .clean => s
  | .corrected => s.modLog src fun l => { l with ce := satInc l.ce }
  | .poison => s.modLog src fun l => { l with psn := satInc l.psn }
  | .uncorrectable =>
    let syn := synWord (syndrome raw)
    (s.latchUe src patrol rmw lane addr syn).ueRecord src patrol rmw lane addr syn

/-- Valid bytes of a region, from offset 0 (01 R20). -/
def State.regionSize (s : State) (region : Nat) : Nat :=
  if region < 4 then 2 ^ 34
  else if region = 4 then 2 ^ 30 * s.ident.lpddrGib.toNat
  else if region = 8 then 2 ^ 21 * s.coreCount
  else if region = 9 then 2 ^ 19 * s.coreCount
  else 0

/-- Channel of a bonded DRAM offset (09 R270). -/
def bondedChannel (off : Nat) : Nat := (off / 2 ^ 8 % 256) ^^^ (off / 2 ^ 16 % 256)

/-- Channel of an LPDDR6 offset (09 R271). -/
def lpddrChannel (off : Nat) : Nat := (off / 2 ^ 8 % 32) ^^^ (off / 2 ^ 13 % 32)

/-- Log source and lane of a DRAM offset (09 R280). -/
def dramSource (region off : Nat) : Nat × Byte :=
  if region < 4 then (region, BitVec.ofNat 8 (bondedChannel off))
  else (4 + lpddrChannel off / 16, BitVec.ofNat 8 (lpddrChannel off % 16))

/-- Where a region's offset lies (01 R12). -/
def State.siteOf (s : State) (region off : Nat) : Site :=
  if region < 4 then .die region
  else if region = 4 then .side (lpddrChannel off / 16)
  else .die ((s.physOf (off / (if region = 8 then 2 ^ 21 else 2 ^ 19))).getD 0 / 56)

/-- Index of a DRAM word in its store. -/
def dramKey (region off : Nat) : Nat := if region < 4 then 2 ^ 29 * region + off / 32 else off / 32

/-- A stored DRAM code word. -/
def Mem.raw (m : Mem) (region off : Nat) : CodeWord :=
  spGet 0 (if region < 4 then m.bonded else m.lpddr) (dramKey region off)

/-- A DRAM code word is stored. -/
def Mem.put (m : Mem) (region off : Nat) (w : CodeWord) : Mem :=
  if region < 4 then { m with bonded := spSet 0 m.bonded (dramKey region off) w }
  else { m with lpddr := spSet 0 m.lpddr (dramKey region off) w }

/-- The canonical form of the DRAM stores. -/
def Mem.wf (m : Mem) : Bool := spWf 0 m.bonded && spWf 0 m.lpddr

/-- A read of a DRAM word, decoded, logged, written back (09 R263 to R266). -/
def State.readDram (s : State) (region off : Nat) (patrol : Bool) : RWord × State :=
  let raw := s.mem.raw region off
  let (o, after, rw) := decodeWord raw
  let (src, lane) := dramSource region off
  let s := { s with mem := s.mem.put region off after }
  (rw, s.logWord src o raw (s.physAddr region (off / 32 * 32)) lane patrol false)

/-- A write of a DRAM word: in full, or the bytes of a mask as one read-modify-write, or poison (09 R268, R269). -/
def State.writeDram (s : State) (region off : Nat) (data : Data) (mask : BitVec 32) (poison : Bool) : State :=
  let raw := s.mem.raw region off
  let (o, after) := storeWord raw data mask poison
  let (src, lane) := dramSource region off
  let s := { s with mem := s.mem.put region off after }
  match o with
  | none => s
  | some o => s.logWord src o raw (s.physAddr region (off / 32 * 32)) lane false true

/-- A word of the accumulator window: two 128-bit entries in exact mode, four 64-bit ones in compact mode (04 R133). A poisoned
tile reads as poison (DEDUCED, log 16). -/
def Bank.window (k : Bank) (off : Nat) : RWord :=
  let m := off / 2048
  let j := off % 2048
  if k.poison then { data := 0, poison := true }
  else if k.compact then
    { data := BitVec.ofNat 256 (packBits 64 ((List.range 4).map fun i => (spGet 0 k.entries (256 * m + j / 8 + i)).toNat)),
      poison := false }
  else
    { data := BitVec.ofNat 256 (packBits 128 ((List.range 2).map fun i => (spGet 0 k.entries (256 * m + j / 16 + i)).toNat)),
      poison := false }

/-- A read of a word of the module by a site (01 R20, R22, R23). -/
def State.readWord (s : State) (to_ : Site) (region off : Nat) : RWord × State :=
  let (rw, s) :=
    if region < 5 then s.readDram region off false
    else if region = 8 then
      match s.physOf (off / 2 ^ 21) with
      | some p =>
        let (rw, c) := (s.core p).readDecoupled (s.coreEnv p) (off % 2 ^ 21 / 32)
        (rw, s.onCore p fun _ _ => c)
      | none => ({ data := 0, poison := false }, s)
    else
      match s.physOf (off / 2 ^ 19) with
      | some p => (((s.core p).bank (decide (off % 2 ^ 19 ≥ 2 ^ 18))).window (off % 2 ^ 18 / 32 * 32), s)
      | none => ({ data := 0, poison := false }, s)
  (rw, s.crossing (s.siteOf region off) to_ rw.poison)

/-- A write of a word of the module from a site (01 R20, R22). -/
def State.writeWord (s : State) (from_ : Site) (region off : Nat) (data : Data) (mask : BitVec 32) (poison : Bool) : State :=
  let s := s.crossing from_ (s.siteOf region off) poison
  if region < 5 then s.writeDram region off data mask poison
  else
    match s.physOf (off / 2 ^ 21) with
    | some p =>
      s.onCore p fun _ c => c.commit { word := off % 2 ^ 21 / 32, data := data, mask := mask, poison := poison } true
    | none => s

/-- The window entry that maps a physical page, if one whose owner is not FREE does (12 R385, R388). -/
def State.windowOf (s : State) (region off : Nat) : Option (Nat × WinEntry) :=
  s.host.window.find? fun e => e.2.owner ≠ 0 && e.2.region.toNat == region && e.2.ppn.toNat == off / 2 ^ 21

/-- An ownership refusal is latched, counted, and raised through vector 12 (12 R386, R387, R389). -/
def State.ownRefused (s : State) (write modSide : Bool) (page : Nat) : State :=
  let h := s.host
  let h := if h.ownValid then h
    else { h with ownValid := true, ownWrite := write, ownMod := modSide, ownPage := BitVec.ofNat 15 page }
  let h := if modSide then { h with modRefused := satInc h.modRefused } else { h with hostRefused := satInc h.hostRefused }
  ({ s with host := h } : State).msix 12

/-- Whether a module access to a physical page is refused, and by which window page (12 R385). -/
def State.ownerRefuses (s : State) (region off : Nat) (write : Bool) : Option Nat :=
  match s.windowOf region off with
  | some (page, e) => if e.owner = 1 ∨ (write ∧ e.owner = 3) then some page else none
  | none => none

/-- What the module keeps of a step changes (13 R398 to R400). -/
def State.modStep (s : State) (step : BitVec 32) (f : StepInfo → StepInfo) : State :=
  { s with job := { s.job with steps := spMod StepInfo.reset s.job.steps step.toNat f } }

/-- Status codes of a refusal (12 R372). -/
def stOk : BitVec 16 := 0x0000
def stAccepted : BitVec 16 := 0x0001
def stBadOpcode : BitVec 16 := 0x0010
def stBadParam : BitVec 16 := 0x0011
def stBadState : BitVec 16 := 0x0012
def stBusy : BitVec 16 := 0x0013
def stNoSuchEngine : BitVec 16 := 0x0020
def stEngineFused : BitVec 16 := 0x0021
def stImemBusy : BitVec 16 := 0x0022
def stTimeout : BitVec 16 := 0x0030
def stHung : BitVec 16 := 0x0031
def stNotResident : BitVec 16 := 0x0040
def stOwnership : BitVec 16 := 0x0041
def stNoRoute : BitVec 16 := 0x0042
def stGenStale : BitVec 16 := 0x0043
def stPoison : BitVec 16 := 0x0050
def stCheckFail : BitVec 16 := 0x0051
def stEpochMismatch : BitVec 16 := 0x0052
def stModeLate : BitVec 16 := 0x0053
def stInexact : BitVec 16 := 0x0060
def stAuthFail : BitVec 16 := 0x0070
def stRollback : BitVec 16 := 0x0071
def stInternal : BitVec 16 := 0x00F0

end Sys2Proof.Machine
end

