-- ==== Sys2Proof/Machine/ArrayGroup.lean ====
section
/-! DEFINITION. The array group's instructions and the ends of their work (04 R91 to R115, 06 R179 to R194). -/

namespace Sys2Proof.Machine

/-- Whether an instruction is MATMUL. -/
def isMatmul (i : Insn) : Bool :=
  match i with
  | .matmul _ => true
  | _ => false

/-- MATMUL (06 R179 to R182): the stream's instruction issues if it is this one. -/
def execMatmul (c : CoreId) (k : StreamId) (s : State) : Host.Outcome State Fault Refusal :=
  .next (s.issue c k isMatmul bodyMatmul)

/-- Whether an instruction is WLOAD. -/
def isWload (i : Insn) : Bool :=
  match i with
  | .wload _ _ _ => true
  | _ => false

/-- WLOAD (06 R183 to R185): the stream's instruction issues if it is this one. -/
def execWload (c : CoreId) (k : StreamId) (s : State) : Host.Outcome State Fault Refusal :=
  .next (s.issue c k isWload bodyWload)

/-- Whether an instruction is WSWAP. -/
def isWswap (i : Insn) : Bool :=
  match i with
  | .wswap => true
  | _ => false

/-- WSWAP (06 R186): the stream's instruction issues if it is this one. -/
def execWswap (c : CoreId) (k : StreamId) (s : State) : Host.Outcome State Fault Refusal :=
  .next (s.issue c k isWswap bodyWswap)

/-- Whether an instruction is DRAIN. -/
def isDrain (i : Insn) : Bool :=
  match i with
  | .drain _ => true
  | _ => false

/-- DRAIN (06 R189): the stream's instruction issues if it is this one. -/
def execDrain (c : CoreId) (k : StreamId) (s : State) : Host.Outcome State Fault Refusal :=
  .next (s.issue c k isDrain bodyDrain)

/-- Whether an instruction is BFILL. -/
def isBfill (i : Insn) : Bool :=
  match i with
  | .bfill _ => true
  | _ => false

/-- BFILL (06 R187): the stream's instruction issues if it is this one. -/
def execBfill (c : CoreId) (k : StreamId) (s : State) : Host.Outcome State Fault Refusal :=
  .next (s.issue c k isBfill bodyBfill)

/-- MATMUL_FEED_END (04 R95, R113). -/
def execMatmulFeedEnd (c : CoreId) (s : State) : Host.Outcome State Fault Refusal :=
  .next (s.atCore c.val fun env x => x.feedEnd env)

/-- P96_ACCUMULATE (03 R74, 04 R93). -/
def execP96Accumulate (c : CoreId) (s : State) : Host.Outcome State Fault Refusal :=
  .next (s.atCore c.val fun env x => x.p96Accumulate env)

/-- WLOAD_COMPLETE (04 R96). -/
def execWloadComplete (c : CoreId) (s : State) : Host.Outcome State Fault Refusal :=
  .next (s.atCore c.val fun env x => x.wloadComplete env)

/-- BANK_TAIL_END (04 R102). -/
def execBankTailEnd (c : CoreId) (s : State) : Host.Outcome State Fault Refusal :=
  .next (s.atCore c.val fun env x => x.bankTailEnd env)

/-- BANK_DRAIN_END (04 R102). -/
def execBankDrainEnd (c : CoreId) (s : State) : Host.Outcome State Fault Refusal :=
  .next (s.atCore c.val fun env x => x.bankDrainEnd env)

/-- BFILL_COMPLETE (04 R113). -/
def execBfillComplete (c : CoreId) (s : State) : Host.Outcome State Fault Refusal :=
  .next (s.atCore c.val fun env x => x.bfillComplete env)

end Sys2Proof.Machine
end

