-- ==== Sys2Proof/Machine/CollData.lean ====
section
/-! DEFINITION. The reduction engine's arithmetic on buckets: the trees, contributions, sums, checksums, layouts and headers
(11 R319 to R346). -/

namespace Sys2Proof.Machine

/-- Elements of a bucket (11 R319). -/
def bucketSize : Nat := 16384

/-- Width of a bucket format (11 R319). -/
def xWidth (fmt : Nat) : Nat := fmtBits fmt

/-- The format in which a contribution enters (11 R322). -/
def CollEntry.entryFmt (e : CollEntry) : Nat :=
  if e.kind = 1 ∨ e.kind = 2 then 0x1F else if e.staged then 6 else e.fmt.toNat

/-- Slots of an instance (11 R318). -/
def CollEntry.need (e : CollEntry) : Nat :=
  if e.kind = 1 then 8 else if e.kind = 2 then 4 else if e.fmt = 9 then 4 else if e.fmt = 10 then 8 else 16

/-- Whether a hall stage of the collective is one of arrival mode; the observation collective is always exact (11 R338, 07 R224). -/
def CollEntry.arrives (e : CollEntry) : Bool := e.arrival && !Config.observes e.cid.toNat

/-- Result stride; `hall`: after an arrival-mode hall stage (11 R327). -/
def CollEntry.stride (e : CollEntry) (hall : Bool) : Nat :=
  if hall then 0x10000 else if e.kind = 1 then 0x20000 else if e.kind = 2 then 0x8000
  else if e.fmt = 9 then 0x10000 else if e.fmt = 10 then 0x20000 else 0x40000

/-- Ranks of the group by position (11 R319). -/
def CollEntry.ranks (e : CollEntry) : List Nat :=
  (List.range e.rcount.toNat).map fun j => e.rfirst.toNat + j * e.rstep.toNat

/-- Tree offset of a bucket over n nodes (11 R333). -/
def treeOffset (n b : Nat) : Nat := (b % 16 + 16 * (b / 16 % ((n + 15) / 16))) % n

/-- The node at index q has these children, by index (11 R333). -/
def treeKids (n b q : Nat) : List Nat :=
  let t := treeOffset n b
  let r := (q + n - t) % n
  ([2 * r + 1, 2 * r + 2].filter (· < n)).map fun c => (c + t) % n

/-- The parent of the node at index q; none at the root (11 R333). -/
def treeParent (n b q : Nat) : Option Nat :=
  let t := treeOffset n b
  let r := (q + n - t) % n
  if r = 0 then none else some (((r - 1) / 2 + t) % n)

/-- Rack groups in order of the lowest position each holds: the rack, and its members' modules by position (11 R333, R336). -/
def rackGroups (mods : List (BitVec 12)) : List (Nat × List (BitVec 12)) :=
  mods.foldl (fun gs m =>
    let r := m.toNat / 64
    if gs.any fun g => g.1 == r then gs.map fun g => if g.1 = r then (r, g.2 ++ [m]) else g
    else gs ++ [(r, [m])]) []

/-- This module's place in the trees of a bucket (11 R333 to R338). -/
structure Topo where
  /-- Children and parent in the rack tree. -/
  rackKids   : List (BitVec 12)
  rackParent : Option (BitVec 12)
  /-- Children and parent in the hall tree; only a rack root has them. -/
  hallKids   : List (BitVec 12)
  hallParent : Option (BitVec 12)
  /-- Roots of the rack groups in order, and the root of the whole tree. -/
  roots      : List (BitVec 12)
  root       : BitVec 12
  owner      : BitVec 12

/-- The trees of bucket b over the members' modules, seen from module `me`. -/
def topoOf (mods : List (BitVec 12)) (me : BitVec 12) (b : Nat) : Topo :=
  let gs := rackGroups mods
  let roots := gs.map fun g => g.2.getD (treeOffset g.2.length b) 0
  let ms := ((gs.find? fun g => g.1 == me.toNat / 64).map (·.2)).getD [me]
  let q := (ms.findIdx? (· == me)).getD 0
  let rp := (treeParent ms.length b q).map fun i => ms.getD i 0
  let g := (gs.findIdx? fun g => g.1 == me.toNat / 64).getD 0
  { rackKids := (treeKids ms.length b q).map fun i => ms.getD i 0, rackParent := rp,
    hallKids := if rp.isSome then [] else (treeKids roots.length b g).map fun i => roots.getD i 0,
    hallParent := if rp.isSome then none else (treeParent roots.length b g).map fun i => roots.getD i 0,
    roots := roots, root := roots.getD (treeOffset roots.length b) me, owner := mods.getD (b % mods.length) me }

/-- The member that sends this one the result down the tree. -/
def Topo.parent (t : Topo) : Option (BitVec 12) := t.rackParent.orElse fun _ => t.hallParent

/-- The members to which this one sends the result down the tree. -/
def Topo.kids (t : Topo) : List (BitVec 12) := t.hallKids ++ t.rackKids

/-- A bucket with nothing in it. -/
def Bucket.empty (fmt : Nat) (e : Int) : Bucket :=
  { elems := [], present := [], lost := 0, poison := [], dead := false, hurt := false, flags := 0, budget := 0, e := e, peak := none,
    csum := 0, bstat := 0, ncontrib := 1, stage := 0, fmt := fmt }

/-- The larger of two peaks (11 R330). -/
def peakMax (a b : Option Int) : Option Int :=
  match a, b with
  | none, x => x
  | x, none => x
  | some x, some y => some (max x y)

/-- Peak of a magnitude m × 2^e: the smallest L with m × 2^e below 2^L (11 R330). -/
def peakOf (m : Nat) (e : Int) : Option Int := if m = 0 then none else some (topBit m e + 1)

/-- Peak of integer values times 2^e. -/
def peakList (l : Sparse Int) (e : Int) : Option Int :=
  l.foldl (fun p x => peakMax p (peakOf x.2.natAbs e)) none

/-- Pairs of elements of word j of g elements. -/
def wordPairs (g j : Nat) : List Nat := (List.range (g / 2)).map fun k => g / 2 * j + k

/-- Whether element i lies in a word with poison. -/
def Bucket.hit (b : Bucket) (i : Nat) : Bool := b.dead || b.poison.contains (i / 2)

/-- The checksum of a bucket's data: words with poison count as 0 (11 R340). -/
def Bucket.check (b : Bucket) : Nat :=
  if b.dead then 0
  else ((b.elems.foldl (fun (a : Int) x => if b.hit x.1 then a else a + ((x.1 : Int) + 1) * x.2) 0) % (fpMod : Int)).toNat

/-- The bucket with the checksum of its data. -/
def Bucket.sealed (b : Bucket) : Bucket := { b with csum := b.check }

/-- The bucket with every word poisoned (11 R342, R347). -/
def Bucket.killed (b : Bucket) (bstat : Nat) : Bucket :=
  { b with elems := [], dead := true, hurt := true, bstat := bstat, csum := 0 }

/-- Signed codes of a word of g elements of w bits, zeros left out. -/
def wordElems (w g j : Nat) (d : Data) : Sparse Int :=
  if d = 0 then []
  else (List.range g).filterMap fun k =>
    let x := codeOf w true (bitsOf d.toNat (w * k) w)
    if x = 0 then none else some (g * j + k, x)

/-- A word with the elements of a list that belong to it, and what is left: w bits each, g to a word. -/
def takeWord (w g j : Nat) (l : Sparse Int) : Data × Sparse Int × Sparse Int :=
  let mine := l.takeWhile fun x => x.1 < g * (j + 1)
  (BitVec.ofNat 256 (mine.foldl (fun a x => a + (x.2 % 2 ^ w).toNat * 2 ^ (w * (x.1 - g * j))) 0), mine, l.drop mine.length)

/-- A word of a bucket's layout: its data, the elements whose checksum it carries, its poison. -/
structure LWord where
  data   : Data
  elems  : Sparse Int
  poison : Bool

/-- n words of elements from word j on. -/
def denseWords (b : Bucket) (n w g j : Nat) (l : Sparse Int) : List LWord :=
  match n with
  | 0 => []
  | k + 1 =>
    let (d, mine, rest) := takeWord w g j l
    let p := b.dead || (wordPairs g j).any b.poison.contains
    { data := if p then 0 else d, elems := if p then [] else mine, poison := p } :: denseWords b k w g (j + 1) rest

/-- A top-k list in words of 4 entries: value in bytes 0 to 3, logical index in bytes 4 to 7 (04 R111, 11 R344). -/
def listWords (b : Bucket) (base : Nat) (l : List Nat) : List LWord :=
  (chunksOf l.length 4 l).map fun is =>
    let es := is.map fun i => (i, spGet 0 b.elems i)
    let p := b.dead || is.any b.hit
    { data := if p then 0 else BitVec.ofNat 256 (packBits 64 ((es.map fun (i, x) => (x % 2 ^ 32).toNat + 2 ^ 32 * (base + i)) ++
        List.replicate (4 - is.length) (0xFFFFFFFF * 2 ^ 32))),
      elems := if p then [] else es, poison := p }

/-- The word of a sign bucket's magnitude sum (11 R345). -/
def sumWord (b : Bucket) : LWord :=
  let m := spGet 0 b.elems bucketSize
  let p := b.hit bucketSize
  { data := if p then 0 else BitVec.ofNat 256 (m % 2 ^ 64).toNat, elems := if p then [] else [(bucketSize, m)], poison := p }

/-- The data words of a bucket as a result or a packet carries them, without a sign bucket's magnitude (11 R327, R344, R345). -/
def Bucket.words (kind : BitVec 2) (base : Nat) (b : Bucket) : List LWord :=
  if kind = 1 then listWords b base b.present ++ List.replicate ((b.lost + 3) / 4) { data := 0, elems := [], poison := true }
  else if kind = 2 then denseWords b 1024 16 16 0 (b.elems.filter fun x => x.1 < bucketSize)
  else
    let w := fmtBits b.fmt
    denseWords b (bucketSize * w / 256) w (256 / w) 0 b.elems

/-- The words of a sign bucket at a node with no children: bits, 1 for −1 (11 R345). -/
def Bucket.signBits (b : Bucket) : List LWord :=
  let neg : Sparse Int := b.elems.filterMap fun x => if x.1 < bucketSize ∧ x.2 < 0 then some (x.1, 1) else none
  let ws := denseWords b 64 1 256 0 neg
  (ws.zip (List.range 64)).map fun (x, j) =>
    { x with elems := if x.poison then [] else b.elems.filter fun y => 256 * j ≤ y.1 ∧ y.1 < 256 * (j + 1) }

/-- Code words of a layout. -/
def LWord.code (x : LWord) : CodeWord := if x.poison then poisonWord else encodeWord x.data

/-- Poison pairs of a list of words of g elements. -/
def poisonPairs (g : Nat) (ws : List RWord) : List Nat :=
  ((List.range ws.length).zip ws).flatMap fun (j, w) => if w.poison then wordPairs g j else []

/-- Elements of a list of words, those with poison left out. -/
def elemsOf (w g : Nat) (ws : List RWord) : Sparse Int :=
  ((List.range ws.length).zip ws).flatMap fun (j, x) => if x.poison then [] else wordElems w g j x.data

/-- Entries of a list: index and value bits (11 R344). -/
def listEntries (ws : List RWord) : List (Nat × Nat) :=
  ws.flatMap fun x => if x.poison then [] else
    (List.range 4).filterMap fun k =>
      let i := bitsOf x.data.toNat (64 * k + 32) 32
      if i = 0xFFFFFFFF then none else some (i, bitsOf x.data.toNat (64 * k) 32)

/-- Whether a top-k contribution's words hold no entry outside its bucket (11 R344). -/
def listOk (b : Nat) (ws : List RWord) : Bool :=
  (listEntries ws).all fun e => bucketSize * b ≤ e.1 && e.1 < bucketSize * (b + 1)

/-- Insertion into a rising list without repeats. -/
def insertNat (x : Nat) (l : List Nat) : List Nat :=
  match l with
  | [] => [x]
  | y :: r => if x < y then x :: y :: r else if x = y then y :: r else y :: insertNat x r

/-- An FP32 value at staged entry: its code, flags, and peak (11 R323, R330). -/
def stagedElem (w : Nat) (q : Int) (bits : Nat) : Int × Byte × Option Int :=
  let v := unpackFp fp32 bits
  let (x, fl) := toExchange w v q
  (x, fl, match v with
    | .fin _ m e => peakOf m e
    | _ => none)

/-- This module's contribution at scale Q (11 R323, R324, R330, R344, R345). -/
def Contrib.bucket (c : Contrib) (e : CollEntry) (q : Int) (noScale : Bool) : Bucket :=
  let ws := c.words.map fun x => (decodeWord x).2.2
  let fmt := e.fmt.toNat
  let w := fmtBits fmt
  let b0 := Bucket.empty fmt q
  let any := ws.any (·.poison)
  let lost := 4 * (ws.filter (·.poison)).length
  if noScale then
    let known := if e.kind = 1 then (listEntries ws).foldl (fun l x => insertNat (x.1 - bucketSize * c.id.bucket.toNat) l) [] else []
    ({ b0 with present := known, lost := if e.kind = 1 then min (bucketSize - known.length) lost else 0, dead := true, hurt := true } :
      Bucket).sealed
  else if e.kind = 1 then
    let base := bucketSize * c.id.bucket.toNat
    let es := listEntries ws
    let one := fun (x : Nat) => if e.staged then stagedElem 32 q x else
      let v := codeOf 32 true x
      (v, if v = 2 ^ 31 - 1 ∨ v = -(2 ^ 31) then flagSat else 0, peakOf v.natAbs q)
    let rs := es.map fun (i, x) => (i - base, one x)
    let known := rs.foldl (fun l r => insertNat r.1 l) []
    ({ b0 with
      elems := rs.foldl (fun l r => spMod 0 l r.1 (· + r.2.1)) [], present := known, lost := min (bucketSize - known.length) lost,
      hurt := any, bstat := if any then 1 else 0, flags := orFlags (rs.map fun r => r.2.2.1),
      peak := rs.foldl (fun p r => peakMax p r.2.2.2) none } : Bucket).sealed
  else if e.kind = 2 then
    let bits := ws.take 64
    let last := ws.getD 64 { data := 0, poison := true }
    let (m, fl, pk) := if e.staged then stagedElem 64 q (bitsOf last.data.toNat 0 32) else
      let v := codeOf 64 true last.data.toNat
      (v, if v = 2 ^ 63 - 1 ∨ v = -(2 ^ 63) then flagSat else 0, peakOf v.natAbs q)
    let signs : Sparse Int := ((List.range 64).zip bits).flatMap fun (j, x) => if x.poison then [] else
      (List.range 256).map fun k => (256 * j + k, if x.data.getLsbD k then -1 else 1)
    let psn := poisonPairs 256 bits ++ (if last.poison then [bucketSize / 2] else [])
    ({ b0 with
      elems := if last.poison ∨ m = 0 then signs else signs ++ [(bucketSize, m)], poison := psn, hurt := any,
      bstat := if any then 1 else 0, flags := if last.poison then 0 else fl, peak := if last.poison then none else pk } : Bucket).sealed
  else if e.staged then
    let rs := ((List.range ws.length).zip ws).flatMap fun (j, x) => if x.poison ∨ x.data = 0 then [] else
      (List.range 8).map fun k => (8 * j + k, stagedElem w q (bitsOf x.data.toNat (32 * k) 32))
    ({ b0 with
      elems := rs.filterMap fun (i, r) => if r.1 = 0 then none else some (i, r.1), poison := poisonPairs 8 ws, hurt := any,
      bstat := if any then 1 else 0, flags := orFlags (rs.map fun r => r.2.2.1),
      peak := rs.foldl (fun p r => peakMax p r.2.2.2) none } : Bucket).sealed
  else
    let es := elemsOf w (256 / w) ws
    let b := { b0 with elems := es, poison := poisonPairs (256 / w) ws, hurt := any, bstat := if any then 1 else 0 }
    if fmt = 11 then
      let sm := (decodeWord (c.summary.getD 0)).2.2
      let x := sm.data.toNat
      let dead := sm.poison || decide (bitsOf x 72 1 = 1)
      let e0 := codeOf 16 true x
      let b := { b with e := e0, budget := bitsOf x 16 41, flags := BitVec.ofNat 8 (bitsOf x 64 8), peak := peakList es e0 }
      if dead then ({ b with elems := [], dead := true, hurt := true, bstat := 1 } : Bucket).sealed else b.sealed
    else
      let ext := es.any fun x => x.2 = 2 ^ (w - 1) - 1 ∨ x.2 = -(2 ^ (w - 1))
      ({ b with flags := if ext then flagSat else 0, peak := peakList es q } : Bucket).sealed

/-- Sum of two sparse lists of integers, the second shifted left. -/
def addElems (n : Nat) (sh : Nat) (a b : Sparse Int) : Sparse Int :=
  match n, a, b with
  | k + 1, (i, x) :: r, (j, y) :: t =>
    if i < j then (i, x) :: addElems k sh r ((j, y) :: t)
    else if j < i then (j, y * 2 ^ sh) :: addElems k sh ((i, x) :: r) t
    else if x + y * 2 ^ sh = 0 then addElems k sh r t
    else (i, x + y * 2 ^ sh) :: addElems k sh r t
  | _, a, [] => a
  | _, [], b => b.map fun x => (x.1, x.2 * 2 ^ sh)
  | 0, a, _ => a

/-- The worse of two `BSTAT` values: 3 above 2 above 1 above 0 (11 R352). -/
def worseBstat (a b : Nat) : Nat := max a b

/-- A node's sum of its inputs, its adders making errors `err` by element: the carried checksum that its inputs give it, the checksum of
the sum, and the sum as it is sent (11 R334, R342, R349, R514, 03 R79). The comparison is made before a sum saturates (DEDUCED,
log 90). -/
def sumBuckets (kind : BitVec 2) (ins : List Bucket) (err : Sparse Int) : Nat × Nat × Bucket :=
  match ins with
  | [] => (0, 0, Bucket.empty 9 0)
  | b0 :: _ =>
    let fmt := b0.fmt
    let w := fmtBits fmt
    let emin := if fmt = 11 then ins.foldl (fun m b => min m b.e) b0.e else b0.e
    let sh := fun (b : Bucket) => if fmt = 11 then (b.e - emin).toNat else 0
    let psn := ins.foldl (fun l b => l ++ b.poison.filter fun p => !l.contains p) []
    let dead := ins.any (·.dead)
    let clean := fun (b : Bucket) => if dead then [] else b.elems.filter fun x => !psn.contains (x.1 / 2)
    let sum := ins.foldl (fun a b => addElems (a.length + b.elems.length) (sh b) a (clean b)) []
    let sum := addElems (sum.length + err.length) 0 sum err
    let exact : Bucket := { b0 with elems := sum, poison := psn, dead := dead, e := emin }
    -- the carried checksums less what the words left out count for
    let carried : Int := ins.foldl (fun a b =>
      let left := b.elems.foldl (fun (x : Int) y => if dead || psn.contains (y.1 / 2) then x + ((y.1 : Int) + 1) * y.2 else x) 0
      a + ((b.csum : Int) - left) * 2 ^ (sh b % 61)) 0
    let flags := orFlags (ins.map (·.flags))
    let budget := ins.foldl (fun a b => min (a + b.budget * 2 ^ (min (sh b) 41)) (2 ^ 41 - 1)) 0
    let width := fun (i : Nat) => if kind = 2 then (if i = bucketSize then 64 else 16) else w
    let ovr := fmt ≠ 11 ∧ sum.any fun x => x.2 > 2 ^ (width x.1 - 1) - 1 ∨ x.2 < -(2 ^ (width x.1 - 1))
    let elems := if fmt = 11 then sum.filterMap fun x =>
          let y := codeOf 128 true (x.2 % 2 ^ 128).toNat
          if y = 0 then none else some (x.1, y)
      else if ovr then sum.map fun x => (x.1, max (-(2 ^ (width x.1 - 1))) (min (2 ^ (width x.1 - 1) - 1) x.2))
      else sum
    let scaled := if kind = 2 then sum.filter fun x => x.1 = bucketSize else sum
    let known := ins.foldl (fun l b => b.present.foldl (fun l i => insertNat i l) l) []
    let out : Bucket :=
      { exact with
        elems := elems, present := known, lost := min (bucketSize - known.length) ((ins.map (·.lost)).foldl (· + ·) 0),
        hurt := ins.any (·.hurt) || dead || !psn.isEmpty,
        flags := flags ||| (if ovr then flagSat else 0) ||| (if fmt = 11 ∧ 2 ^ 40 < budget then flagAccOvf else 0),
        budget := if fmt = 11 then budget else 0,
        peak := ins.foldl (fun p b => peakMax p b.peak) (peakList scaled emin),
        bstat := ins.foldl (fun x b => worseBstat x b.bstat) 0,
        ncontrib := min 4096 (ins.foldl (fun n b => n + b.ncontrib) 0) }
    let out := if out.hurt then { out with bstat := worseBstat out.bstat 1 } else out
    ((carried % (fpMod : Int)).toNat, exact.check, if 2 ≤ out.bstat then out.killed out.bstat else out.sealed)

/-- Peak as `PEAK` holds it (11 R328, R330). -/
def peakField (p : Option Int) : Nat :=
  match p with
  | none => 0x8000
  | some l => ((max (-32767) (min 32767 l)) % 65536).toNat

/-- A bucket header (11 R328). -/
def Bucket.header (b : Bucket) (kind : BitVec 2) (attempt : Bool) (npkt : Nat) (step : BitVec 32) : Data :=
  BitVec.ofNat 256 ((b.e % 65536).toNat + 2 ^ 16 * b.budget + 2 ^ 64 * b.flags.toNat + (if b.hurt then 2 ^ 72 else 0)
    + (if attempt then 2 ^ 73 else 0) + 2 ^ 74 * b.stage + 2 ^ 76 * b.bstat + 2 ^ 80 * b.fmt + 2 ^ 84 * kind.toNat
    + 2 ^ 88 * peakField b.peak + 2 ^ 104 * npkt + 2 ^ 113 * (b.present.length + b.lost) + 2 ^ 128 * b.csum + 2 ^ 192 * step.toNat
    + 2 ^ 224 * (b.ncontrib % 8192))

/-- A field of a header word. -/
def hfield (d : Data) (lo n : Nat) : Nat := bitsOf d.toNat lo n

/-- Whether a bucket that is being received is complete: its META, and every data packet that the META counts. A META that carries
poison counts no packets (DESIGN CHOICE, log 23). -/
def NodeInput.complete (n : NodeInput) : Bool :=
  match n.header with
  | some (w :: _) =>
    let h := (decodeWord w).2.2
    h.poison || (List.range (hfield h.data 104 9)).all fun k => !(spGet [] n.pkts k).isEmpty
  | _ => false

/-- The code words that an input holds. -/
def NodeInput.stored (n : NodeInput) : List CodeWord := n.header.getD [] ++ n.pkts.flatMap (·.2)

/-- The bucket that a complete input holds (11 R328, R344, R345). The entries of a list that its words do not show are lost to poison (DESIGN
CHOICE, log 116). A META that carries poison gives a poisoned input (DESIGN CHOICE,
log 23). -/
def NodeInput.bucket (n : NodeInput) (kind : BitVec 2) (fmt : Nat) (q : Int) (base : Nat) (down : Bool) : Bucket :=
  let hs := (n.header.getD []).map fun w => (decodeWord w).2.2
  let h := hs.getD 0 { data := 0, poison := true }
  if h.poison then { (Bucket.empty fmt q).killed 1 with lost := if kind = 1 then bucketSize else 0 }
  else
    let npkt := hfield h.data 104 9
    let ws := (List.range npkt).flatMap fun k => (spGet [] n.pkts k).map fun w => (decodeWord w).2.2
    let bstat := hfield h.data 76 4
    let b : Bucket :=
      { Bucket.empty (hfield h.data 80 4) (codeOf 16 true (hfield h.data 0 16)) with
        hurt := decide (hfield h.data 72 1 = 1) || ws.any (·.poison), flags := BitVec.ofNat 8 (hfield h.data 64 8),
        budget := hfield h.data 16 41, peak := if hfield h.data 88 16 = 0x8000 then none else some (codeOf 16 true (hfield h.data 88 16)),
        csum := hfield h.data 128 61, bstat := if 4 < bstat then 2 else bstat, ncontrib := hfield h.data 224 13,
        stage := hfield h.data 74 2 }
    if kind = 1 then
      let es := (listEntries ws).filterMap fun (i, x) => if base ≤ i ∧ i < base + bucketSize then some (i - base, codeOf 32 true x) else none
      let known := es.foldl (fun l x => insertNat x.1 l) []
      { b with elems := es.foldl (fun l x => spMod 0 l x.1 (· + x.2)) [], present := known, lost := hfield h.data 113 15 - known.length }
    else if kind = 2 then
      let (n64, w, g) := if ws.length = 65 then (64, 1, 256) else (1024, 16, 16)
      let data := ws.take n64
      let es := if w = 1 then
          ((List.range 64).zip data).flatMap fun (j, x) => if x.poison then [] else
            (List.range 256).map fun k => (256 * j + k, if x.data.getLsbD k then -1 else 1)
        else elemsOf 16 16 data
      let last := if down then hs.getD 1 { data := 0, poison := false } else ws.getD n64 { data := 0, poison := false }
      let m := codeOf 64 true last.data.toNat
      { b with elems := if last.poison ∨ m = 0 then es else es ++ [(bucketSize, m)],
               poison := poisonPairs g data ++ (if last.poison then [bucketSize / 2] else []),
               hurt := b.hurt || last.poison }
    else
      let w := fmtBits b.fmt
      if w = 0 then b.killed 2
      else { b with elems := elemsOf w (256 / w) ws, poison := poisonPairs (256 / w) ws }

/-- The layout of a bucket in the buffers and in its packets: data packets of up to 32 words (11 R334, R344, R345). `up`: as an UP or ARRIVE
bucket, with the word of a sign bucket's magnitude; `leaf`: at a node with no children. -/
def Bucket.layout (b : Bucket) (kind : BitVec 2) (base : Nat) (up leaf : Bool) : List (List LWord) :=
  let ws := if up ∧ kind = 2 then (if leaf then b.signBits else b.words kind base) ++ [sumWord b] else b.words kind base
  chunksOf ws.length 32 ws

/-- The word that a sign bucket's DOWN META carries second: M, then the ranks summed. The spec places neither (DESIGN CHOICE,
log 26). -/
def Bucket.signWord (b : Bucket) : LWord :=
  let x := (spGet 0 b.elems bucketSize % 2 ^ 64).toNat + 2 ^ 64 * b.ncontrib
  { sumWord b with data := if b.hit bucketSize then 0 else BitVec.ofNat 256 x }

/-- The words of a bucket's META (11 R328, R345, R354). -/
def Bucket.metaWords (b : Bucket) (kind : BitVec 2) (attempt down : Bool) (npkt : Nat) (step : BitVec 32) : List CodeWord :=
  let h := encodeWord (b.header kind attempt npkt step)
  if down ∧ kind = 2 then [h, b.signWord.code] else [h]

/-- A bucket that this module has made, as the buffers hold it: code words (11 R318). -/
def Bucket.store (b : Bucket) (src : BitVec 12) (kind : BitVec 2) (base : Nat) (attempt down : Bool) (step : BitVec 32) : NodeInput :=
  let ps := b.layout kind base (!down) false
  { src := src, pkts := ((List.range ps.length).zip ps).map fun (k, ws) => (k, ws.map LWord.code),
    header := some (b.metaWords kind attempt down ps.length step) }

/-- A data word of a DOWN bucket as it is read from the buffers, the j-th of its layout: its elements again, for the checksum of its packet
(11 R341, R344, R345). -/
def lwordOf (kind : BitVec 2) (fmt base j : Nat) (w : RWord) : LWord :=
  if w.poison then { data := 0, elems := [], poison := true }
  else
    let width := if kind = 2 then 16 else fmtBits fmt
    { data := w.data, poison := false,
      elems := if kind = 1 then (listEntries [w]).map fun (i, x) => (i - base, codeOf 32 true x)
        else wordElems width (256 / width) j w.data }

/-- The data packets of a stored DOWN bucket as they are read from the buffers (11 R335, R343). -/
def NodeInput.layout (n : NodeInput) (kind : BitVec 2) (fmt base : Nat) : List (List LWord) :=
  n.pkts.map fun (k, ws) => ((List.range ws.length).zip ws).map fun (j, w) => lwordOf kind fmt base (32 * k + j) (decodeWord w).2.2

/-- An X32 rack result as the exact hall stage carries it: X64 at the same Q (11 R337). Top-k and sign buckets keep their layouts,
which have no X64 form (DESIGN CHOICE, log 24). -/
def Bucket.widen (b : Bucket) (kind : BitVec 2) : Bucket :=
  if b.fmt = 9 ∧ kind ≠ 1 ∧ kind ≠ 2 then { b with fmt := 10, stage := 1 } else { b with stage := 1 }

/-- The hall root narrows an X64 hall sum back to X32 (11 R337). -/
def Bucket.narrow (b : Bucket) : Bucket :=
  let ovr := b.elems.any fun x => x.2 > 2 ^ 31 - 1 ∨ x.2 < -(2 ^ 31)
  ({ b with fmt := 9, flags := if ovr then b.flags ||| flagSat else b.flags,
            poison := if b.poison.isEmpty then [] else (List.range 2048).flatMap fun j =>
              if (wordPairs 8 j).any b.poison.contains then wordPairs 8 j else [],
            elems := b.elems.map fun x => (x.1, max (-(2 ^ 31)) (min (2 ^ 31 - 1) x.2)) } : Bucket).sealed

/-- FP32 value of a pattern held as a signed integer. -/
def patVal (x : Int) : FVal := unpackFp fp32 (x % 2 ^ 32).toNat

/-- Peak of FP32 values held as patterns (11 R330). -/
def patPeak (l : Sparse Int) : Option Int :=
  l.foldl (fun p x => match patVal x.2 with
    | .fin _ m e => peakMax p (peakOf m e)
    | _ => p) none

/-- A rack result as an arrival-mode hall stage carries it: FP32 by RNE, patterns as signed integers, the rounded values measured (11 R330,
R338, R340). -/
def Bucket.toArrival (b : Bucket) : Bucket :=
  let rs := b.elems.map fun x => (x.1, toFp fp32 0 0 (fvalOfInt x.2 b.e))
  let es : Sparse Int := rs.filterMap fun r => if r.2.1 = 0 then none else some (r.1, codeOf 32 true r.2.1)
  let w := fmtBits b.fmt
  ({ b with fmt := 6, stage := 2, peak := peakMax b.peak (patPeak es), flags := b.flags ||| orFlags (rs.map fun r => r.2.2),
            poison := if w = 64 ∧ !b.poison.isEmpty then (List.range 2048).flatMap fun j =>
              if (wordPairs 8 j).any b.poison.contains then wordPairs 8 j else [] else b.poison,
            elems := es } : Bucket).sealed

/-- FP32 sum of two sparse lists of patterns by RNE (11 R338). -/
def addPats (n : Nat) (a b : Sparse Int) : Sparse Int :=
  let add := fun (x y : Int) => codeOf 32 true (ieee32 (fvalAdd (patVal x) (patVal y))).toNat
  let put := fun (i : Nat) (v : Int) (r : Sparse Int) => if v = 0 then r else (i, v) :: r
  match n, a, b with
  | k + 1, (i, x) :: r, (j, y) :: t =>
    if i < j then put i (add x 0) (addPats k r ((j, y) :: t))
    else if j < i then put j (add 0 y) (addPats k ((i, x) :: r) t)
    else put i (add x y) (addPats k r t)
  | _, a, [] => a.filterMap fun x => let v := add x.2 0; if v = 0 then none else some (x.1, v)
  | _, [], b => b.filterMap fun x => let v := add 0 x.2; if v = 0 then none else some (x.1, v)
  | 0, a, _ => a

/-- One rack result is added to the hall root's running sum and the sum is measured, elements in poisoned pairs apart (11 R330, R338). -/
def addArrival (psn : List Nat) (a : Sparse Int × Option Int) (b : Bucket) : Sparse Int × Option Int :=
  let sum := addPats (a.1.length + b.elems.length) a.1 b.elems
  (sum, peakMax a.2 (patPeak (sum.filter fun x => !psn.contains (x.1 / 2))))

/-- The hall root's arrival-mode sum over the rack results in their order; every running sum is measured (11 R330, R338). -/
def sumArrival (ins : List Bucket) : Bucket :=
  match ins with
  | [] => Bucket.empty 6 0
  | b0 :: _ =>
    let psn := ins.foldl (fun l b => l ++ b.poison.filter fun p => !l.contains p) []
    let (sum, peaks) := ins.foldl (addArrival psn) ([], none)
    let dead := ins.any (·.dead)
    let out : Bucket :=
      { b0 with
        elems := if dead then [] else sum.filter fun x => !psn.contains (x.1 / 2), poison := psn, dead := dead,
        hurt := ins.any (·.hurt) || !psn.isEmpty || dead, flags := orFlags (ins.map (·.flags)),
        peak := ins.foldl (fun p b => peakMax p b.peak) peaks,
        bstat := ins.foldl (fun x b => worseBstat x b.bstat) 0,
        ncontrib := min 4096 (ins.foldl (fun n b => n + b.ncontrib) 0), fmt := 6, stage := 2 }
    let out := if out.hurt then { out with bstat := worseBstat out.bstat 1 } else out
    if 2 ≤ out.bstat then out.killed out.bstat else out.sealed

/-- Q clamped to 16 bits (11 R331). -/
def clampQ (q : Int) : Int := max (-32768) (min 32767 q)

/-- Bits of X32 or X64 in the scale rules (11 R331). -/
def CollEntry.w (e : CollEntry) : Int := fmtBits e.fmt.toNat

end Sys2Proof.Machine
end

