-- ==== Sys2Proof/Machine/Erg.lean ====
section
/-! DEFINITION. The Erg router: translation, checks and service of accesses, routing, sequence streams, links (10). -/

namespace Sys2Proof.Machine

/-- A field of an Erg address. -/
def adr (a : BitVec 64) (lo n : Nat) : Nat := bitsOf a.toNat lo n

/-- An Erg address with a byte distance added to its low 48 bits (08 R236). -/
def adrAdd (a : BitVec 64) (d : Int) : BitVec 64 :=
  BitVec.ofNat 64 (2 ^ 48 * adr a 48 16 + (((adr a 0 48 : Int) + d) % 2 ^ 48).toNat)

/-- A packet's header with every field 0. -/
def ErgHdr.zero : ErgHdr :=
  { dst := 0, src := 0, gen := 0, opc := 0, vl := 0, plane := 0, len := 0, space := false, bopc := 0, epoch := 0, seq := 0,
    addr := 0, rank := 0, rsv := 0, psn := 0, csum := 0 }

/-- The job page table entry of a page (10 R298). -/
def State.pageEntry (s : State) (n : Nat) : BitVec 32 := spGet 0 s.erg.pages n

/-- Region and offset of an address of this module, or the refusal of its translation (10 R298). -/
def State.translate (s : State) (a : BitVec 64) : Except (BitVec 16) (Nat × Nat) :=
  if adr a 60 4 = 0 then .ok (adr a 44 4, adr a 0 44)
  else
    let off := adr a 0 48
    let e := (s.pageEntry (off / 2 ^ 21)).toNat
    if 2 ^ 40 ≤ off then .error stBadParam
    else if bitsOf e 0 2 ≠ 3 then .error stNotResident
    else .ok (bitsOf e 2 4, 2 ^ 21 * bitsOf e 6 18 + off % 2 ^ 21)

/-- Whether every stream of a core is halted; an Idle stream counts as halted (DEDUCED, log 17). -/
def Core.allHalted (c : Core) : Bool :=
  [c.f, c.b, c.u].all fun st => st.state == .idle || st.state == .halted

/-- The refusal of an access to bytes of a region, if it is refused (01 R20, R21, R23, 12 R385, R387). -/
def State.refuses (s : State) (region off n : Nat) (write : Bool) : Option (BitVec 16) × State :=
  if s.regionSize region < off + n ∨ (region = 9 ∧ write) then (some stBadParam, s)
  else if region = 9 then
    match s.physOf (off / 2 ^ 19) with
    | some p => (if (s.core p).allHalted then none else some stBusy, s)
    | none => (some stBadParam, s)
  else if region < 5 then
    match s.ownerRefuses region off write with
    | some page => (some stOwnership, s.ownRefused write true page)
    | none => (none, s)
  else (none, s)

/-- Byte mask of word i of a write of n words from FBYTE through LBYTE (10 R294). -/
def writeMask (n i fbyte lbyte : Nat) : BitVec 32 :=
  BitVec.ofNat 32 (((List.range 32).filter fun j =>
    (i ≠ 0 || decide (fbyte ≤ j)) && (i + 1 ≠ n || decide (j ≤ lbyte))).foldl (fun acc j => acc + 2 ^ j) 0)

/-- Words are read from an offset on. -/
def State.readWords (s : State) (to_ : Site) (region off n : Nat) : List RWord × State :=
  match n with
  | 0 => ([], s)
  | k + 1 =>
    let (w, s) := s.readWord to_ region off
    let (ws, s) := s.readWords to_ region (off + 32) k
    (w :: ws, s)

/-- Words are written from an offset on: word i of n with its byte mask. -/
def State.writeWords (s : State) (from_ : Site) (region off n i fbyte lbyte : Nat) (ws : List RWord) : State :=
  match ws with
  | [] => s
  | w :: r =>
    (s.writeWord from_ region off w.data (writeMask n i fbyte lbyte) w.poison).writeWords from_ region (off + 32) n (i + 1)
      fbyte lbyte r

/-- An access to this module is served: 0x01 writes the payload, 0x02 reads `RLEN` + 1 words (10 R294, R298, R311). -/
def State.serve (s : State) (site : Site) (opc : BitVec 6) (a : BitVec 64) (rlen fbyte lbyte : Nat) (payload : List RWord) :
    Answer × State :=
  let n := if opc = 0x01 then payload.length else rlen + 1
  if adr a 0 5 ≠ 0 ∨ 1024 < adr a 0 10 + 32 * n then (.refused stBadParam, s)
  else
    match s.translate a with
    | .error st => (.refused st, s)
    | .ok (region, off) =>
      match s.refuses region off (32 * n) (opc == 0x01) with
      | (some st, s) => (.refused st, s)
      | (none, s) =>
        if opc = 0x01 then (.wrote, s.writeWords site region off n 0 fbyte lbyte payload)
        else
          let (ws, s) := s.readWords site region off n
          (.data ws, s)

/-- A port of the router. -/
def State.port (s : State) (p : Fin 16) : Port := s.erg.ports[p]

/-- A port changes. -/
def State.modPort (s : State) (p : Fin 16) (f : Port → Port) : State :=
  { s with erg := { s.erg with ports := s.erg.ports.set p (f s.erg.ports[p]) } }

/-- An ERG_CNT counter goes up (10 R316). -/
def State.ergCount (s : State) (i : Fin 8) : State :=
  { s with erg := { s.erg with cnt := s.erg.cnt.set i (satInc s.erg.cnt[i]) } }

/-- Planes whose port is Up. -/
def State.upPlanes (s : State) : BitVec 16 :=
  BitVec.ofNat 16 (packBits 1 (s.erg.ports.toList.map fun p => if p.lstate = .up then 1 else 0))

/-- The active rank entry of a rank (10 R301). -/
def Fabric.rankOf (f : Fabric) (r : Nat) : BitVec 32 := spGet 0 (if f.active then f.rank1 else f.rank0) r

/-- The active route entry of a module (10 R301). -/
def Fabric.routeOf (f : Fabric) (m : Nat) : BitVec 32 := spGet 0 (if f.active then f.route1 else f.route0) m

/-- Planes usable toward a module (10 R302, R308). -/
def State.usable (s : State) (dst : BitVec 12) : BitVec 16 :=
  let r := s.erg.routeOf dst.toNat
  if r.getLsbD 31 then r.extractLsb' 0 16 &&& s.upPlanes &&& ~~~ (spGet 0 s.erg.bounced dst.toNat) else 0

/-- The first usable plane from a plane on, upward and round (10 R307). -/
def firstPlane (usable : BitVec 16) (from_ : Nat) : Option (Fin 16) :=
  ((List.range 16).map fun i => (from_ + i) % 16).findSome? fun p =>
    if usable.getLsbD p then (if h : p < 16 then some ⟨p, h⟩ else none) else none

/-- Replay buffer of a port: 64 KiB of frames, 36 bytes for each code word. The spec gives no positive acknowledgement of frames:
the oldest leave when newer ones fill the buffer (DESIGN CHOICE, log 18). -/
def trimReplay (fuel : Nat) (l : List (BitVec 12 × ErgPacket)) : List (BitVec 12 × ErgPacket) :=
  match fuel, l with
  | k + 1, x :: r =>
    if 65536 < (l.map fun e => 36 * (1 + e.2.payload.length)).foldl (· + ·) 0 then trimReplay k r else x :: r
  | _, l => l

/-- The code words of a packet: its header word, then its payload (10 R291). -/
def packetWords (pkt : ErgPacket) : List CodeWord := encodeWord pkt.hdr.word :: pkt.payload

/-- CRC-32 with the IEEE 802.3 polynomial over bits in their order (10 R286). -/
def crc32 (bits : List Bool) : BitVec 32 :=
  ~~~ bits.foldl (fun (c : BitVec 32) b => (c >>> 1) ^^^ (if c.getLsbD 0 != b then 0xEDB88320 else 0)) (BitVec.allOnes 32)

/-- The CRC of a link frame, over its sequence number and its packet (10 R286). DESIGN CHOICE (log 110): the number first, then the code
words in order, each from its lowest bit. -/
def frameCrc (seq : BitVec 12) (pkt : ErgPacket) : BitVec 32 :=
  crc32 ((List.range 12).map seq.getLsbD ++ (packetWords pkt).flatMap fun w => (List.range 288).map w.getLsbD)

/-- Whether a lane can send: a packet waits, and the transmitter holds credits for all of it (10 R288). -/
def Port.ready (q : Port) (v : Fin 4) : Bool :=
  match q.lanes[v] with
  | [] => false
  | pkt :: _ => decide (pkt.size ≤ q.credits[v])

/-- The lane that sends next: management, then response, then request and collective by turns (10 R289). -/
def Port.nextLane (q : Port) : Option (Fin 4) :=
  if q.ready 3 then some 3
  else if q.ready 1 then some 1
  else if q.ready 0 && !(q.collTurn && q.ready 2) then some 0
  else if q.ready 2 then some 2
  else none

/-- A port that has sent a packet on a lane: credits, turn, replay buffer. A frame that has left the buffer has failed no more (10 R286 to
R289). -/
def Port.sent (q : Port) (v : Fin 4) (pkt : ErgPacket) (rest : List ErgPacket) : Port :=
  let buf := q.replayBuf ++ [(q.txSeq, pkt)]
  let buf := trimReplay buf.length buf
  { q with
    lanes := q.lanes.set v rest, credits := q.credits.set v (q.credits[v] - pkt.size),
    collTurn := if v = 0 then true else if v = 2 then false else q.collTurn, txSeq := q.txSeq + 1, replayBuf := buf,
    fails := if buf.any (fun e => e.1 == q.failSeq) then q.fails else 0 }

/-- An Up port sends what its lanes hold in link frames, as far as its credits go: n packets at most (10 R286 to R289). -/
def State.transmit (n : Nat) (s : State) (p : Fin 16) : State :=
  match n with
  | 0 => s
  | k + 1 =>
    let q := s.port p
    if q.lstate ≠ .up then s
    else
      match q.nextLane with
      | none => s
      | some v =>
        match q.lanes[v] with
        | [] => s
        | pkt :: rest => ((s.modPort p fun q => q.sent v pkt rest).send (.frame p.val q.txSeq pkt)).transmit k p

/-- Packets that wait in a port's lanes. -/
def Port.queued (q : Port) : Nat := (q.lanes.toList.map List.length).foldl (· + ·) 0

/-- A packet enters its lane of a port, and the port sends (10 R288, R289). -/
def State.sendFrame (s : State) (p : Fin 16) (pkt : ErgPacket) : State :=
  let s := s.modPort p fun q => { q with lanes := q.lanes.set pkt.lane (q.lanes[pkt.lane] ++ [pkt]) }
  s.transmit (s.port p).queued p

/-- The receivers of the links have consumed what was sent, and their credits are back (DESIGN CHOICE, log 111). -/
def State.creditsBack (s : State) : State :=
  (List.finRange 16).foldl (fun (s : State) p =>
    let s := s.modPort p fun q => { q with credits := laneBuffers }
    s.transmit (s.port p).queued p) s

/-- The epoch in force for a step (13 R402). -/
def JobRegs.epochFor (j : JobRegs) (step : BitVec 32) : Byte :=
  if j.pendValid ∧ j.pendStep.toNat ≤ step.toNat then j.pendEpoch else j.epoch

/-- What the module stamps on every packet (10 R295, 13 R402). -/
def State.stamp (s : State) (step : Option (BitVec 32)) (h : ErgHdr) : ErgHdr :=
  { h with src := s.ident.id, gen := s.ident.generation, epoch := s.job.epochFor (step.getD s.job.begun) }

/-- A response, ACK or management packet goes out on a plane, or on the next usable one; none where no plane is usable
(10 R307). -/
def State.respond (s : State) (plane : Nat) (pkt : ErgPacket) : State :=
  match firstPlane (s.usable pkt.hdr.dst) plane with
  | some p => s.sendFrame p { pkt with hdr := s.stamp none pkt.hdr }
  | none => s

/-- A send stream by destination and stream id (10 R305); a fresh one starts at 0. -/
def Fabric.txOf (f : Fabric) (dst : BitVec 12) (sid : BitVec 16) : TxStream :=
  (f.tx.find? fun t => t.dst == dst && t.sid == sid).getD { dst := dst, sid := sid, next := 0, unacked := [], waiting := [] }

/-- The router with a send stream put in place. -/
def Fabric.putTx (f : Fabric) (t : TxStream) : Fabric :=
  { f with tx := (f.tx.filter fun u => !(u.dst == t.dst && u.sid == t.sid)) ++ [t] }

/-- The plane that a sequenced packet prefers (10 R307): a collective one its `PLANE`, a request (`SEQ` + `SRC`) mod 16. -/
def planeFor (h : ErgHdr) : Nat := if h.vl = 2 then h.plane.toNat else (h.seq.toNat + h.src.toNat) % 16

/-- Why a packet is dropped at its arrival, as the number of its counter; none where it is taken: before the lock (01 R27), by
10 R292, by its generation (R314) or by a closing job (13 R415). -/
def State.dropCounter (s : State) (pkt : ErgPacket) : Option (Fin 8) :=
  let h := pkt.hdr
  let vlOk := if h.opc.toNat ≤ 2 then h.vl = 0 else if h.opc.toNat ≤ 0x0A then h.vl = 1
    else if h.opc.toNat < 0x20 then h.vl = 2 else h.vl = 3
  let mgmt : Bool := decide (0x20 ≤ h.opc.toNat)
  let response : Bool := decide (0x08 ≤ h.opc.toNat) && decide (h.opc.toNat ≤ 0x0A)
  if !s.ident.coordLock then some 0
  else if ¬ vlOk ∨ 32 < h.len.toNat ∨ h.rsv ≠ 0 ∨ (h.opc ≠ 0x31 ∧ h.bopc ≠ 0)
      ∨ (h.opc.toNat ≤ 9 ∧ h.csum.extractLsb' 32 32 ≠ 0) then some 4
  else if mgmt then none
  else if !s.ident.jobOpen || h.gen != s.ident.generation || (s.job.closingDown && !response) then some 1
  else none

/-- A sequenced packet is handed to a port; none where no plane is usable: its resend timer covers it (10 R307, R310). One to this module
takes no port: what reaches its own stream again has been dropped before (R300). -/
def State.handOver (s : State) (pkt : ErgPacket) : State :=
  if pkt.hdr.dst = s.ident.id then
    match s.dropCounter pkt with
    | some i => s.ergCount i
    | none => s
  else
  match firstPlane (s.usable pkt.hdr.dst) (planeFor pkt.hdr) with
  | some p => s.sendFrame p pkt
  | none => s

/-- Packets that wait for their stream are stamped and sent while fewer than 512 are unacknowledged (10 R305, R307). -/
def State.pump (n : Nat) (s : State) (dst : BitVec 12) (sid : BitVec 16) : State :=
  match n with
  | 0 => s
  | k + 1 =>
    let t := s.erg.txOf dst sid
    match t.waiting with
    | [] => s
    | r :: rest =>
      if 512 ≤ t.unacked.length then s
      else
        let r := { r with pkt := { r.pkt with hdr := { r.pkt.hdr with seq := t.next } } }
        let t := { t with next := t.next + 1, unacked := t.unacked ++ [r], waiting := rest }
        (({ s with erg := s.erg.putTx t } : State).handOver r.pkt).pump k dst sid

/-- A packet enters its send stream (10 R305). -/
def State.sendSeq (s : State) (sid : BitVec 16) (pkt : ErgPacket) (access : Option ErgAccess) (step : Option (BitVec 32)) :
    State :=
  let pkt := { pkt with hdr := s.stamp step pkt.hdr }
  let t := s.erg.txOf pkt.hdr.dst sid
  let t := { t with waiting := t.waiting ++ [{ pkt := pkt, access := access, resends := 0 }] }
  ({ s with erg := s.erg.putTx t } : State).pump t.waiting.length pkt.hdr.dst sid

/-- The request packet of an access to a module: overlay fields that its opcode does not use are 0 (10 R291 to R293, R297). -/
def requestPacket (a : ErgAccess) (dst : BitVec 12) : ErgPacket :=
  let virt := adr a.addr 60 4 = 1
  let psn := packBits 1 (a.payload.map fun w => if w = poisonWord then 1 else 0)
  { hdr := { ErgHdr.zero with
      dst := dst, opc := a.opc, len := BitVec.ofNat 6 a.payload.length, space := virt, addr := BitVec.ofNat 48 (adr a.addr 0 48),
      rank := if virt then BitVec.ofNat 12 (adr a.addr 48 12) else 0, psn := BitVec.ofNat 32 psn,
      csum := BitVec.ofNat 64 (a.tag % 65536
        + (if a.opc = 0x01 then 2 ^ 16 * a.fbyte.toNat + 2 ^ 21 * a.lbyte.toNat else 2 ^ 26 * a.rlen.toNat)) },
    payload := a.payload }

/-- An access is parked in the router, and counted (10 R302). -/
def State.park (s : State) (a : ErgAccess) : State :=
  ({ s with erg := { s.erg with parked := s.erg.parked ++ [a] } } : State).ergCount 7

/-- Where an access comes from (01 R12). -/
def ErgAccess.site (a : ErgAccess) : Site :=
  match a.issuer with
  | .qanat p _ => .die (p / 56)
  | .command _ | .result _ | .record _ => .io

/-- The words of a payload as they are stored. -/
def rwords (ws : List CodeWord) : List RWord := ws.map fun w => (decodeWord w).2.2

/-- A receive stream by source and stream id; a fresh one expects 0 (10 R305, R306). -/
def Fabric.rxOf (f : Fabric) (src : BitVec 12) (sid : BitVec 16) : RxStream :=
  (f.rx.find? fun t => t.src == src && t.sid == sid).getD
    { src := src, sid := sid, x := 0, received := [], held := [], sinceAck := 0, plane := none }

/-- The router with a receive stream put in place. -/
def Fabric.putRx (f : Fabric) (t : RxStream) : Fabric :=
  { f with rx := (f.rx.filter fun u => !(u.src == t.src && u.sid == t.sid)) ++ [t] }

/-- An access to this module is answered: one whose rank is not this module's is parked (10 R303). -/
def State.serveOwn (s : State) (site : Site) (a : ErgAccess) : Option Answer × State :=
  if adr a.addr 60 4 = 1 ∧ adr a.addr 48 12 ≠ s.job.rank.toNat then (none, s.park a)
  else
    let (ans, s) := s.serve site a.opc a.addr a.rlen.toNat a.fbyte.toNat a.lbyte.toNat (rwords a.payload)
    (some ans, s)

/-- Whether an access comes from the management processor or from Notar, for a command of theirs (12 R371). They reach this module's memory
without the router (DEDUCED, log 109). -/
def State.byFirmware (s : State) (a : ErgAccess) : Bool :=
  match a.issuer with
  | .command id => s.host.cmds.any fun c =>
      c.id == id && !(decide (0x0100 ≤ bitsOf c.raw.toNat 0 16) && decide (bitsOf c.raw.toNat 0 16 < 0x0400))
  | .qanat _ _ | .result _ | .record _ => false

/-- An access to this module goes through the I/O die as a packet of one more stream: it takes the next number of the stream, and is
served and acknowledged at once; a packet that its checks drop stays unacknowledged, and is sent again (10 R300, R305, R310, R314). -/
def State.loopback (s : State) (site : Site) (a : ErgAccess) : Option Answer × State :=
  let pkt := requestPacket a s.ident.id
  match s.dropCounter { pkt with hdr := s.stamp a.step pkt.hdr } with
  | some _ => (none, s.sendSeq 0xFFFF pkt (some a) a.step)
  | none =>
    let n := (s.erg.txOf s.ident.id 0xFFFF).next + 1
    let tx := { s.erg.txOf s.ident.id 0xFFFF with next := n }
    let rx := { s.erg.rxOf s.ident.id 0xFFFF with x := n }
    ({ s with erg := (s.erg.putTx tx).putRx rx } : State).serveOwn site a

/-- Poisoned words of an access cross from its site to the I/O die, whose link receivers count them (09 R265, R280). -/
def State.crossOut (s : State) (site : Site) (ws : List CodeWord) : State :=
  ws.foldl (fun (s : State) w => s.crossing site .io (w == poisonWord)) s

/-- ROUTE: an access goes to this module, to another one, or is parked (10 R300, R302). Where it is served at once, its answer comes
with it. From action 2 of JOB_CLOSE on no request goes out: one is refused with BAD_STATE (13 R415; the status DESIGN CHOICE, log 104). -/
def State.route (s : State) (site : Site) (a : ErgAccess) : Option Answer × State :=
  let space := adr a.addr 60 4
  if 1 < space then (some (.refused stBadParam), s)
  else
    let e := s.erg.rankOf (adr a.addr 48 12)
    let dst : BitVec 12 := if space = 1 then e.extractLsb' 0 12 else BitVec.ofNat 12 (adr a.addr 48 12)
    let own : Bool := dst == s.ident.id
    if own && s.byFirmware a && (space == 0 || e.getLsbD 31) then s.serveOwn site a
    else if s.job.closingDown then (some (.refused stBadState), s)
    else if space = 1 ∧ e.getLsbD 31 = false then (none, s.park a)
    else if own then s.loopback site a
    else if s.usable dst = 0 then (none, s.park a)
    else (none, (s.crossOut site a.payload).sendSeq 0xFFFF (requestPacket a dst) (some a) a.step)

/-- A new access is numbered and routed; while it has no answer it is kept among the requests out. The number comes with it. -/
def State.request (s : State) (site : Site) (a : ErgAccess) : Nat × Option Answer × State :=
  let tag := s.erg.nextTag
  let a := { a with tag := tag }
  let s := { s with erg := { s.erg with nextTag := tag + 1 } }
  match s.route site a with
  | (some ans, s) => (tag, some ans, s)
  | (none, s) => (tag, none, { s with erg := { s.erg with reqs := s.erg.reqs ++ [a] } })

/-- The request out that a returned `TAG` names: the oldest with it. -/
def Fabric.reqOf (f : Fabric) (tag : Nat) : Option ErgAccess := f.reqs.find? fun a => a.tag % 65536 == tag

/-- A request is no longer out. -/
def Fabric.dropReq (f : Fabric) (tag : Nat) : Fabric :=
  { f with reqs := f.reqs.filter fun a => a.tag != tag, parked := f.parked.filter fun a => a.tag != tag }

/-- The receive buffer of a link has a packet no more, and its credits go back (10 R288, R290). -/
def State.returnCredits (s : State) (p : Fin 16) (pkt : ErgPacket) : State := s.send (.credits p.val pkt.hdr.vl pkt.size)

/-- Whether a port receives packets: its link is Up and discards no frames (10 R286, R287). Before the lock, while main power is good,
a packet that arrives all the same is received only to be counted (01 R27, 10 R315); in the control cycle of the lock it is accepted
(R315). -/
def State.receives (s : State) (p : Fin 16) : Bool :=
  if s.ident.coordLock then s.erg.lockCycle || ((s.port p).lstate == .up && !(s.port p).discarding) else s.power.mainGood

/-- A packet of an opcode arrives on a port: dropped and counted, or taken. Nothing happens where no such packet can arrive. -/
def State.arrives (s : State) (p : Fin 16) (pkt : ErgPacket) (ops : List Nat) (f : State → State) : State :=
  if !s.receives p || !ops.contains pkt.hdr.opc.toNat then s
  else
    match s.dropCounter pkt with
    | some i => (s.ergCount i).returnCredits p pkt
    | none => f s

/-- A packet of the request, response or management lane arrives. It is consumed as it comes, whatever the other lanes hold, and its credits
go back (10 R290). An ACK counts in the control cycle in which its link enters Down (R310). -/
def State.consumes (s : State) (p : Fin 16) (pkt : ErgPacket) (ops : List Nat) (f : State → State) : State :=
  if s.cycle.any (fun k => k.downs.contains p.val) && pkt.hdr.opc == 0x0A && (s.dropCounter pkt).isNone && ops == [0x0A] then f s
  else s.arrives p pkt ops fun s => f (s.returnCredits p pkt)

/-- The module-physical Erg address of a packet's first payload word, for the log (09 R280): a WRITE's in this module, a READ_DATA's in the
module that sends it. None where the module cannot know it: job-virtual data of another module, an unmapped page, collective packets. -/
def State.payloadAddr (s : State) (h : ErgHdr) : Option (BitVec 64) :=
  if h.opc = 0x01 then
    match s.translate (BitVec.ofNat 64 ((if h.space then 2 ^ 60 else 0) + h.addr.toNat)) with
    | .ok (region, off) => some (s.physAddr region off)
    | .error _ => none
  else if h.opc = 0x08 ∧ h.space = false then some (BitVec.ofNat 64 (2 ^ 48 * h.src.toNat + h.addr.toNat))
  else none

/-- A word without a module-physical Erg address is logged at a source; the address of an uncorrectable one is a free value (09 R280,
log 113). -/
def State.logUnplaced (s : State) (src : Nat) (o : DecodeOutcome) (w : CodeWord) (lane : Byte) : State :=
  match o with
  | .uncorrectable =>
    let (z, s) := s.draw 14
    s.logWord src .uncorrectable w (BitVec.ofNat 64 z) lane false false
  | o => s.logWord src o w 0 lane false false

/-- A received word is logged at source 19 (09 R280). -/
def State.logReceived (s : State) (plane : Nat) (o : DecodeOutcome) (w : CodeWord) (base : Option (BitVec 64)) (i : Nat) : State :=
  match base with
  | some a => s.logWord 19 o w (a + BitVec.ofNat 64 (32 * i)) (BitVec.ofNat 8 plane) false false
  | none => s.logUnplaced 19 o w (BitVec.ofNat 8 plane)

/-- The payload of a packet as the destination takes it: decoded and logged at source 19, a set `PSN` bit marking poison (09 R265,
R280, 10 R291, R296). -/
def State.takePayload (s : State) (plane : Nat) (pkt : ErgPacket) : List RWord × State :=
  ((List.range pkt.hdr.len.toNat).zip pkt.payload).foldl (fun (x : List RWord × State) (i, w) =>
    let marked := pkt.hdr.psn.getLsbD i
    let (o, _, rw) := if marked then (DecodeOutcome.poison, poisonWord, { data := 0, poison := true }) else decodeWord w
    (x.1 ++ [rw], x.2.logReceived plane o w (s.payloadAddr pkt.hdr) i)) ([], s)

/-- Whether a sequence number beyond x has been received. -/
def RxStream.has (t : RxStream) (seq : BitVec 32) : Bool := t.received.any fun q => q.1 == seq

/-- x of a receive stream passes a sequence number. -/
def RxStream.passed (t : RxStream) : RxStream := { t with x := t.x + 1, received := t.received.filter fun q => q.1 != t.x }

/-- The ACK of a receive stream (10 R309). -/
def RxStream.ack (t : RxStream) : ErgPacket :=
  let sack := packBits 1 ((List.range 64).map fun i => if t.has (t.x + 1 + BitVec.ofNat 32 i) then 1 else 0)
  { hdr := { ErgHdr.zero with
      dst := t.src, opc := 0x0A, vl := 1, seq := t.x, addr := BitVec.ofNat 48 (2 ^ 32 * t.sid.toNat), csum := BitVec.ofNat 64 sack },
    payload := [] }

/-- An ACK of a stream goes out on the plane of the packet that caused it (10 R307, R309). It covers what lies within `SACK`;
the next timer is that of the first packet beyond. -/
def State.sendAck (s : State) (src : BitVec 12) (sid : BitVec 16) (plane : Nat) : State :=
  let t := s.erg.rxOf src sid
  let far := t.received.find? fun q => decide (64 < (q.1 - t.x).toNat)
  ({ s with erg := s.erg.putRx { t with sinceAck := 0, plane := far.map (·.2) } } : State).respond plane t.ack

/-- The STATUS that refuses a request (10 R293, R311). -/
def statusPacket (req : ErgHdr) (st : BitVec 16) : ErgPacket :=
  { hdr := { ErgHdr.zero with
      dst := req.src, opc := 0x09, vl := 1, seq := req.seq, addr := st.setWidth 48, csum := req.csum &&& 0xFFFF },
    payload := [] }

/-- The READ_DATA that answers a READ (10 R308). -/
def readDataPacket (req : ErgHdr) (ws : List RWord) : ErgPacket :=
  { hdr := { ErgHdr.zero with
      dst := req.src, opc := 0x08, vl := 1, len := BitVec.ofNat 6 ws.length, space := req.space, addr := req.addr,
      rank := req.rank, csum := req.csum &&& 0xFFFF,
      psn := BitVec.ofNat 32 (packBits 1 (ws.map fun w => if w.poison then 1 else 0)) },
    payload := ws.map codeOfWord }

/-- A request of another module is applied and answered (10 R294, R303, R311, R312). -/
def State.applyRequest (s : State) (plane : Nat) (pkt : ErgPacket) (payload : List RWord) : State :=
  let h := pkt.hdr
  if h.space ∧ h.rank ≠ s.job.rank then s.respond plane (statusPacket h stNoRoute)
  else
    let a := BitVec.ofNat 64 ((if h.space then 2 ^ 60 else 0) + h.addr.toNat)
    let x := h.csum.toNat
    match s.serve .io h.opc a (bitsOf x 26 6) (bitsOf x 16 5) (bitsOf x 21 5) payload with
    | (.wrote, s) => s
    | (.data ws, s) => s.respond plane (readDataPacket h ws)
    | (.refused st, s) => s.respond plane (statusPacket h st)

/-- Held packets that now follow in order are applied (10 R306). -/
def State.applyHeld (n : Nat) (s : State) (src : BitVec 12) : State :=
  match n with
  | 0 => s
  | k + 1 =>
    let t := s.erg.rxOf src 0xFFFF
    match t.held.find? fun e => e.2.hdr.seq == t.x with
    | none => s
    | some (plane, pkt) =>
      let t := { t.passed with held := t.held.filter (fun e => e.2.hdr.seq != t.x), sinceAck := t.sinceAck + 1,
                               plane := t.plane.or (some plane) }
      let s := { s with erg := s.erg.putRx t }
      let (ws, s) := s.takePayload plane pkt
      (s.applyRequest plane pkt ws).applyHeld k src

/-- Packets in the reorder pool (10 R306). -/
def Fabric.pool (f : Fabric) : Nat := (f.rx.map fun t => t.held.length).foldl (· + ·) 0

/-- ACKs that are due after a packet of a stream: 16 applied, or no packet held any more (10 R309). -/
def State.ackDue (s : State) (src : BitVec 12) (sid : BitVec 16) (plane : Nat) : State :=
  let t := s.erg.rxOf src sid
  if 16 ≤ t.sinceAck ∨ t.held = [] then s.sendAck src sid plane else s

/-- A request packet that has been taken goes through its stream (10 R306, R312). -/
def State.sequenceRequest (s : State) (p : Fin 16) (pkt : ErgPacket) : State :=
  let src := pkt.hdr.src
  let t := s.erg.rxOf src 0xFFFF
  let d := (pkt.hdr.seq - t.x).toNat
  if d = 0 then
    let t := { t.passed with sinceAck := t.sinceAck + 1, plane := t.plane.or (some p.val) }
    let s := { s with erg := s.erg.putRx t }
    let (ws, s) := s.takePayload p.val pkt
    ((s.applyRequest p.val pkt ws).applyHeld t.held.length src).ackDue src 0xFFFF p.val
  else if 2 ^ 31 ≤ d ∨ t.has pkt.hdr.seq then
    let s := (s.ergCount 2).sendAck src 0xFFFF p.val
    if pkt.hdr.opc = 0x02 then s.applyRequest p.val pkt [] else s
  else if 511 < d then s.ergCount 4
  else if 4096 ≤ s.erg.pool then s.ergCount 3
  else
    { s with erg := s.erg.putRx { t with received := t.received ++ [(pkt.hdr.seq, p.val)], held := t.held ++ [(p.val, pkt)],
                                              plane := t.plane.or (some p.val) } }

/-- x of a collective stream passes every packet received (10 R306). -/
def passReceived (n : Nat) (t : RxStream) : RxStream :=
  match n with
  | 0 => t
  | k + 1 => if t.has t.x then passReceived k t.passed else t

/-- A collective packet that has been taken goes through its stream, and is handed on where it is no duplicate (10 R306). None is ever
held, so that an ACK follows every 16 delivered (R309). -/
def State.sequenceColl (s : State) (p : Fin 16) (pkt : ErgPacket) (f : State → List RWord → State) : State :=
  let src := pkt.hdr.src
  let sid : BitVec 16 := pkt.hdr.addr.extractLsb' 32 16
  let t := s.erg.rxOf src sid
  let d := (pkt.hdr.seq - t.x).toNat
  if 2 ^ 31 ≤ d ∨ t.has pkt.hdr.seq then ((s.ergCount 2).returnCredits p pkt).sendAck src sid p.val
  else if 511 < d then (s.ergCount 4).returnCredits p pkt
  else
    let t := if d = 0 then passReceived t.received.length t.passed else { t with received := t.received ++ [(pkt.hdr.seq, p.val)] }
    let t := { t with sinceAck := t.sinceAck + 1, plane := t.plane.or (some p.val) }
    let s := { s with erg := s.erg.putRx t }
    let s := if 16 ≤ t.sinceAck then s.sendAck src sid p.val else s
    let (ws, s) := s.takePayload p.val pkt
    f s ws

/-- Whether an ACK covers a sequence number (10 R309). -/
def ackCovers (x : BitVec 32) (sack : BitVec 64) (seq : BitVec 32) : Bool :=
  decide (2 ^ 31 ≤ (seq - x).toNat) || (decide (1 ≤ (seq - x).toNat) && sack.getLsbD ((seq - x).toNat - 1))

/-- An ACK marks packets of a stream acknowledged; WRITEs that it covers are complete (10 R309, R312). -/
def State.ackStream (s : State) (dst : BitVec 12) (sid : BitVec 16) (x : BitVec 32) (sack : BitVec 64) :
    List (ErgAccess × Answer) × State :=
  let t := s.erg.txOf dst sid
  let done := t.unacked.filter fun r => ackCovers x sack r.pkt.hdr.seq
  let t' := { t with unacked := t.unacked.filter fun r => !ackCovers x sack r.pkt.hdr.seq }
  let wrote := (done.filterMap fun r => r.access).filter fun a => a.opc == 0x01 && (s.erg.reqs.any fun b => b.tag == a.tag)
  let s := if done.isEmpty then s else { s with erg := s.erg.putTx t' }
  let s := wrote.foldl (fun s a => { s with erg := s.erg.dropReq a.tag }) s
  (wrote.map fun a => (a, .wrote), s.pump t'.waiting.length dst sid)

/-- A packet of a send stream is sent again, counted, or refused with TIMEOUT after `RESEND_MAX` resends, which leaves its place to one that
waits (10 R307, R308, R310); what its access is answered comes with it. -/
def State.resend (s : State) (dst : BitVec 12) (sid : BitVec 16) (seq : BitVec 32) (byTimer : Bool) :
    List (ErgAccess × Answer) × State :=
  let t := s.erg.txOf dst sid
  match t.unacked.find? fun r => r.pkt.hdr.seq == seq with
  | none => ([], s)
  | some r =>
    let max := if s.erg.resendMax = 0 then 16 else s.erg.resendMax.toNat
    if max ≤ r.resends then
      if byTimer then
        let s := ({ s with erg := s.erg.putTx { t with unacked := t.unacked.filter fun r => r.pkt.hdr.seq != seq } } : State).pump
          t.waiting.length dst sid
        match r.access with
        | none => ([], s)
        | some a =>
          if s.erg.reqs.any fun b => b.tag == a.tag then
            ([(a, .refused stTimeout)], { s with erg := s.erg.dropReq a.tag })
          else ([], s)
      else ([], s)
    else
      let unacked := t.unacked.map fun r => if r.pkt.hdr.seq = seq then { r with resends := r.resends + 1 } else r
      ([], (({ s with erg := s.erg.putTx { t with unacked := unacked } } : State).ergCount 6).handOver r.pkt)

/-- Whether the module is quiet: every probe has returned and no sequenced packet is unacknowledged (10 R300). -/
def State.isQuiet (s : State) : Bool :=
  s.erg.probes == 0 && s.erg.tx.all fun t => t.unacked.isEmpty && t.waiting.isEmpty

/-- Quiet probes go out on every Up port (10 R300). -/
def State.sendProbes (s : State) : State :=
  let up := s.upPlanes
  let probe : ErgPacket := { hdr := { ErgHdr.zero with dst := s.ident.id, opc := 0x30, vl := 3 }, payload := [] }
  let s := { s with erg := { s.erg with probes := up, quietBusy := true } }
  (List.finRange 16).foldl (fun s p => if up.getLsbD p.val then s.sendFrame p { probe with hdr := s.stamp none probe.hdr } else s) s

/-- The banks of both tables are exchanged; the `BOUNCED` masks are cleared; with `COPYBACK` the new active bank is copied into
the new shadow bank (10 R304). -/
def Fabric.swap (f : Fabric) : Fabric :=
  let f := { f with active := !f.active, bounced := [], swapPending := false }
  if f.copyback then
    if f.active then { f with rank0 := f.rank1, route0 := f.route1 } else { f with rank1 := f.rank0, route1 := f.route0 }
  else f

/-- Every parked access is tried again after a swap (10 R302); what is answered at once comes with it. -/
def State.retryParked (s : State) : List (ErgAccess × Answer) × State :=
  let parked := s.erg.parked
  parked.foldl (fun (x : List (ErgAccess × Answer) × State) a =>
    match x.2.route a.site a with
    | (some ans, s) => (x.1 ++ [(a, ans)], { s with erg := s.erg.dropReq a.tag })
    | (none, s) => (x.1, s)) ([], { s with erg := { s.erg with parked := [] } })

/-- A link leaves or enters a state; entering Recovery or Down raises vector 10 (12 R359). -/
def State.setLink (s : State) (p : Fin 16) (l : LinkState) : State :=
  let q := s.port p
  let (locks, s) := s.draw 4
  let lanes : BitVec 8 := match l with
    | .off => 0
    | .up => 0xFF
    | _ => BitVec.ofNat 8 locks
  let s := s.modPort p fun q =>
    { q with lstate := l, laneLock := lanes, fails := 0, discarding := false,
             recoveries := if l = .recovery then satInc q.recoveries else q.recoveries,
             replayBuf := if l = .down ∨ l = .off then [] else q.replayBuf,
             lanes := if l = .down ∨ l = .off then Vector.replicate 4 [] else q.lanes,
             credits := if l = .up ∨ l = .recovery then q.credits else laneBuffers }
  let s := if q.lstate = .up ∧ l = .down ∧ q.discarding = false then s.mark fun k => { k with downs := p.val :: k.downs } else s
  if q.lstate ≠ l ∧ (l = .recovery ∨ l = .down) then s.msix 10 else s

/-- A port's link starts: Training, or Down while `FORCE_DOWN` holds it (10 R315, R316). -/
def State.startLink (s : State) (p : Fin 16) : State := s.setLink p (if (s.port p).forceDown then .down else .training)

/-- The streams are cleared: JOB_OPEN starts every stream at 0 (10 R305), JOB_CLOSE clears them (R316). -/
def Fabric.clearStreams (f : Fabric) : Fabric := { f with tx := [], rx := [] }

end Sys2Proof.Machine
end

