-- ==== Sys2Proof/Machine/Coll.lean ====
section
/-! DEFINITION. The reduction engine: contributions, admission, nodes, packets, results, failures (11 R317 to R354, R514). -/

namespace Sys2Proof.Machine

/-- Pieces of n words from word w on that lie in one aligned 1 KiB block each: offset and count (10 R294). -/
def blocksOf (fuel w off n : Nat) : List (Nat × Nat) :=
  match fuel with
  | 0 => []
  | k + 1 =>
    if n = 0 then []
    else
      let c := min n (32 - w % 32)
      (off, c) :: blocksOf k (w + c) (off + c) (n - c)

/-- An access with its fields at rest. -/
def ErgAccess.blank (i : Issuer) (step : Option (BitVec 32)) (opc : BitVec 6) (addr : BitVec 64) : ErgAccess :=
  { issuer := i, tag := 0, step := step, opc := opc, addr := addr, rlen := 0, fbyte := 0, lbyte := 31, payload := [] }

/-- Words are written from an address on, in WRITEs of at most 1 KiB: the numbers of those that are not complete, and the first
refusal among those answered at once. -/
def State.writeOut (s : State) (i : Issuer) (step : Option (BitVec 32)) (addr : BitVec 64) (ws : List CodeWord) :
    List Nat × Option (BitVec 16) × State :=
  (blocksOf (ws.length + 1) (adr addr 5 43) 0 ws.length).foldl (fun (x : List Nat × Option (BitVec 16) × State) (off, n) =>
    let a := { ErgAccess.blank i step 0x01 (adrAdd addr (32 * off : Nat)) with payload := (ws.drop off).take n }
    match x.2.2.request .io a with
    | (tag, none, s) => (x.1 ++ [tag], x.2.1, s)
    | (_, some (.refused st), s) => (x.1, x.2.1.or (some st), s)
    | (_, some _, s) => (x.1, x.2.1, s)) ([], none, s)

/-- A collective's entry (11 R319). -/
def State.collEntry (s : State) (cid : BitVec 16) : Option CollEntry := spGet none s.coll.table cid.toNat

/-- A counter of the engine goes up (11 R355). -/
def State.collCount (s : State) (i : Fin 12) : State :=
  { s with coll := { s.coll with cnt := s.coll.cnt.set i (satInc s.coll.cnt[i]) } }

/-- The trees of a bucket (11 R333): the members' modules by the rank table, this module's rank by itself. -/
def State.topo (s : State) (e : CollEntry) (b : Nat) : Topo :=
  topoOf (e.ranks.map fun r => if r = s.job.rank.toNat then s.ident.id else (s.erg.rankOf r).extractLsb' 0 12) s.ident.id b

/-- Address of a scale entry (11 R329). -/
def State.xscaleAddr (s : State) (idx : Nat) : Nat := adr s.job.xscale 0 48 + 4 * idx

/-- Q and `SET` of a scale entry; none where it reads as poison or its read is refused (11 R329). -/
def State.xscale (s : State) (idx : Nat) : Option (Int × Bool) × State :=
  let a := s.xscaleAddr idx
  match s.serve .io 0x02 (BitVec.ofNat 64 (2 ^ 48 * adr s.job.xscale 48 16 + a / 32 * 32)) 0 0 31 [] with
  | (.data (w :: _), s) =>
    if w.poison then (none, s)
    else
      let x := bitsOf w.data.toNat (8 * (a % 32)) 32
      (some (codeOf 16 true x, decide (bitsOf x 16 1 = 1)), s)
  | (_, s) => (none, s)

/-- A scale entry is written; `full`: with its whole word, the rest of which becomes 0 (11 R329, 09 R269). -/
def State.xscaleWrite (s : State) (idx : Nat) (q : Int) (set full : Bool) : State :=
  let a := s.xscaleAddr idx
  let o := a % 32
  let v := (q % 65536).toNat + (if set then 65536 else 0)
  let w : RWord := { data := BitVec.ofNat 256 (v * 256 ^ o), poison := false }
  (s.serve .io 0x01 (BitVec.ofNat 64 (2 ^ 48 * adr s.job.xscale 48 16 + a / 32 * 32)) 0 (if full then 0 else o)
    (if full then 31 else o + 3) [w]).2

/-- Whether the exchange port takes a contribution of n buckets in a format (11 R322, R329). -/
def State.handleOk (s : State) (handle : BitVec 64) (n fmt : Nat) : Bool × State :=
  let b0 := bitsOf handle.toNat 16 16
  match s.collEntry (handle.extractLsb' 0 16) with
  | none => (false, s)
  | some e =>
    if bitsOf handle.toNat 32 32 ≠ 0 ∨ e.nbkt.toNat < b0 + n ∨ fmt ≠ e.entryFmt then (false, s)
    else if e.fmt = 11 then (true, s)
    else (List.range n).foldl (fun (x : Bool × State) i =>
      match x.2.xscale (e.sbase.toNat + b0 + i) with
      | (some (_, false), s) => (false, s)
      | (_, s) => (x.1, s)) (true, s)

/-- An instance that the engine has admitted. -/
def State.instOf (s : State) (id : InstId) : Option Inst := s.coll.insts.find? fun i => i.id == id

/-- An instance is put in place. -/
def State.putInst (s : State) (i : Inst) : State :=
  { s with coll := { s.coll with
      insts := if s.coll.insts.any fun j => j.id == i.id then s.coll.insts.map fun j => if j.id = i.id then i else j
               else s.coll.insts ++ [i] } }

/-- A collective packet of an instance goes to a member (10 R305, 11 R354). -/
def State.sendColl (s : State) (id : InstId) (dst : BitVec 12) (opc : BitVec 6) (k csum : Nat) (payload : List CodeWord) : State :=
  let psn := packBits 1 (payload.map fun w => if w = poisonWord then 1 else 0)
  s.sendSeq id.cid
    { hdr := { ErgHdr.zero with
        dst := dst, opc := opc, vl := 2, plane := id.bucket.setWidth 4, len := BitVec.ofNat 6 payload.length,
        addr := BitVec.ofNat 48 (2 ^ 32 * id.cid.toNat + 2 ^ 16 * id.bucket.toNat + 2 ^ 8 * k + id.step.toNat % 256),
        psn := BitVec.ofNat 32 psn, csum := BitVec.ofNat 64 csum },
      payload := payload } none (some id.step)

/-- Which way a bucket goes. -/
inductive Way where
  | up | down | arrive
  deriving DecidableEq, Repr

/-- Opcodes of a bucket's data packets and its META (11 R354). -/
def Way.opcodes (w : Way) (attempt : Bool) : BitVec 6 × BitVec 6 :=
  match w with
  | .up => (if attempt then 0x11 else 0x10, 0x14)
  | .down => (if attempt then 0x13 else 0x12, 0x15)
  | .arrive => (0x19, 0x1A)

/-- A bucket goes to a member: its data packets, each with the checksum of its elements, then its META (11 R334, R341, R354). -/
def State.sendPackets (s : State) (i : Inst) (dst : BitVec 12) (way : Way) (pkts : List (List LWord)) (meta_ : List CodeWord) (csum : Nat) :
    State :=
  let (opc, mopc) := way.opcodes i.attempt
  let s := ((List.range pkts.length).zip pkts).foldl (fun s (k, ws) =>
    let c := ((ws.flatMap (·.elems)).foldl (fun (a : Int) x => a + ((x.1 : Int) + 1) * x.2) 0) % (fpMod : Int)
    s.sendColl i.id dst opc k c.toNat (ws.map LWord.code)) s
  s.sendColl i.id dst mopc 0 csum meta_

/-- A bucket that has just been made goes to a member. -/
def State.sendBucket (s : State) (e : CollEntry) (i : Inst) (leaf : Bool) (dst : BitVec 12) (way : Way) (b : Bucket) : State :=
  let pkts := b.layout e.kind (bucketSize * i.id.bucket.toNat) (way == .up) leaf
  s.sendPackets i dst way pkts (b.metaWords e.kind i.attempt (way == .down) pkts.length i.id.step) b.csum

/-- Words of the engine's buffers are read: decoded, and logged at source 18 (09 R265, R280). -/
def State.readBuffers (s : State) (ws : List CodeWord) : State :=
  ws.foldl (fun (s : State) w => s.logUnplaced 18 (decodeWord w).1 w 0) s

/-- BACK goes to members (11 R335, R343). -/
def State.sendBack (s : State) (id : InstId) (to_ : List (BitVec 12)) : State :=
  to_.foldl (fun s m => s.sendColl id m 0x16 0 0 []) s

/-- The first failed instance is latched (11 R355). -/
def State.latchColl (s : State) (i : Inst) (b : Bucket) (src : BitVec 12) : State :=
  if b.bstat = 0 ∨ s.coll.errValid then s
  else
    { s with coll := { s.coll with
        errCid := i.id.cid, errBucket := i.id.bucket, errStep := i.id.step, errValid := true,
        errBstat := BitVec.ofNat 4 b.bstat, errAttempt := i.attempt, errStage := BitVec.ofNat 2 b.stage,
        errSrc := if b.bstat = 3 then i.badEpoch.getD src else if b.bstat = 2 then src else 0 } }

/-- The token of an instance is posted once its result writes are complete; a factor collective posts one, once every bucket of the
step has completed (11 R327). -/
def State.settleToken (s : State) (id : InstId) : State :=
  match s.collEntry id.cid with
  | none => s
  | some e =>
    let core := fun (b : Nat) => (e.tokCore0.toNat + b / (if e.tokBpc = 0 then 65536 else e.tokBpc.toNat)) % max 1 s.coreCount
    if e.kind = 3 then
      let mine := s.coll.insts.filter fun i => i.id.cid == id.cid && i.id.step == id.step
      if (mine.filter fun i => i.phase == .done).length = e.nbkt.toNat ∧ mine.all (fun i => i.writes.isEmpty) ∧
          mine.any (·.tokenDue) then
        ({ s with coll := { s.coll with
            insts := s.coll.insts.map fun i => if i.id.cid = id.cid ∧ i.id.step = id.step then { i with tokenDue := false } else i } } :
          State).post (core 0) e.tokCtr 1
      else s
    else
      match s.instOf id with
      | some i =>
        if i.tokenDue ∧ i.writes.isEmpty then (s.putInst { i with tokenDue := false }).post (core id.bucket.toNat) e.tokCtr 1 else s
      | none => s

/-- Slots and retained buckets are given up once the instance has completed and every BACK has come (11 R318, R335). -/
def Inst.released (i : Inst) : Inst :=
  if i.phase = .done ∧ i.upOwed = false ∧ i.owed = [] then
    { i with slots := 0, own := none, inputs := [], arrived := [], rack := none, kept := none }
  else i

/-- The bucket's scale entry is set for the next instance (11 R329, R331). Observation buckets stay at Q = 0 (07 R224). -/
def State.scaleNext (s : State) (e : CollEntry) (i : Inst) (b : Bucket) : State :=
  let idx := e.sbase.toNat + i.id.bucket.toNat
  if e.fmt = 11 ∨ Config.observes e.cid.toNat then s
  else if i.noScale then s.xscaleWrite idx 0 false true
  else
    match b.peak with
    | none => s
    | some l => s.xscaleWrite idx (clampQ (max (-32767) (min 32767 l) - e.w + 1 + (e.headroom.toNat : Int))) true false

/-- A word of this module as an engine reads it; none where the address is not served here, or the word reads as poison. -/
def State.localWord (s : State) (addr : BitVec 64) : Option Nat × State :=
  if adr addr 48 12 ≠ (if adr addr 60 4 = 1 then s.job.rank.toNat else s.ident.id.toNat) then (none, s)
  else
    match s.serve .io 0x02 addr 0 0 31 [] with
    | (.data (w :: _), s) => (if w.poison then none else some w.data.toNat, s)
    | (_, s) => (none, s)

/-- A word of this module is written in full by an engine. -/
def State.putLocal (s : State) (addr : BitVec 64) (x : Nat) : State :=
  (s.serve .io 0x01 addr 0 0 31 [{ data := BitVec.ofNat 256 x, poison := false }]).2

/-- A scale record (07 R223). One that cannot be read, or reads as poison, is left as it is. -/
def State.scaleRecord (s : State) (i : Nat) : Option Nat × State :=
  let a := adrAdd s.job.scaleTab (64 * i : Nat)
  match s.localWord a with
  | (none, s) => (none, s)
  | (some x, s) =>
    match s.localWord (adrAdd a 32) with
    | (none, s) => (none, s)
    | (some y, s) => (some (x + 2 ^ 256 * y), s)

/-- A scale record is written. -/
def State.putScaleRecord (s : State) (i x : Nat) : State :=
  let a := adrAdd s.job.scaleTab (64 * i : Nat)
  (s.putLocal a (x % 2 ^ 256)).putLocal (adrAdd a 32) (x / 2 ^ 256)

/-- A scale record with its changing fields replaced; its `REV` goes up by one (07 R223). -/
def scaleWith (x state count forStep : Nat) (a b : Int) (hist : Nat) : Nat :=
  bitsOf x 0 80 + 2 ^ 80 * state + 2 ^ 82 * bitsOf x 82 6 + 2 ^ 88 * count + 2 ^ 93 * bitsOf x 93 3 + 2 ^ 96 * (forStep % 2 ^ 32)
    + 2 ^ 128 * (a % 256).toNat + 2 ^ 136 * (b % 256).toNat + 2 ^ 144 * ((bitsOf x 144 16 + 1) % 2 ^ 16) + 2 ^ 160 * bitsOf x 160 96
    + 2 ^ 256 * hist

/-- The coarse scale that a record gives a step (07 R223). -/
def scaleFor (x step : Nat) : Int :=
  codeOf 8 true (if bitsOf x 96 32 = step then bitsOf x 136 8 else bitsOf x 128 8)

/-- An observation bucket of a step has completed: the observation of each of its records is kept, and a saturating one corrects its
record at once (07 R224, R225, R227). -/
def State.observe (s : State) (id : InstId) (elems : Sparse Int) : State :=
  let step := id.step.toNat
  (List.range 512).foldl (fun (s : State) j =>
    let i := 512 * id.bucket.toNat + j
    let hit := (elems.filter fun e => 32 * j ≤ e.1 && e.1 < 32 * (j + 1)).map fun e => e.1 - 32 * j
    match hit.foldl (fun (m : Option Nat) k => some (max (m.getD 0) k)) none with
    | none => s
    | some k =>
      if s.job.nscale.toNat ≤ i then s
      else
        match s.scaleRecord i with
        | (none, s) => s
        | (some x, s) =>
          if bitsOf x 80 2 = 0 ∨ bitsOf x 80 2 = 3 then s
          else
            let c := scaleFor x step
            let s := { s with job := { s.job with
              observed := spSet none s.job.observed (8192 * step + i) (some (k, c)) } }
            if k = 31 then
              s.putScaleRecord i (scaleWith x 1 0 (step + 1) (min 127 (c + 2)) (min 127 (c + 2)) 0)
            else s) s

/-- The scale controller moves a record at the commit of a step (07 R226). `HIST` holds the oldest observation in entry 0 and takes a new one
in entry `COUNT`: DESIGN CHOICE (log 131), as the spec does not say which end is which. -/
def scaleCommitted (x step : Nat) (obs : Option (Nat × Int)) : Nat :=
  let st := bitsOf x 80 2
  let a := codeOf 8 true (bitsOf x 136 8)
  let h := (bitsOf x 72 3 : Int)
  let count := bitsOf x 88 5
  let hist := bitsOf x 256 256
  if st = 0 ∨ st = 3 then x
  else
    match obs with
    | some (31, _) => x
    | some (k, c) =>
      let o := c + (k : Int) - 16
      let old := (List.range (min count 16)).map fun j => codeOf 16 true (bitsOf hist (16 * j) 16)
      let new := (if 16 ≤ count then old.drop 1 else old) ++ [o]
      let top := new.foldl max o
      scaleWith x 2 new.length (step + 2) a (min 127 (max (-128) (top - 15 + h)))
        (packBits 16 (new.map fun v => (v % 65536).toNat))
    | none => scaleWith x st count (step + 2) a a hist

/-- The scale controller acts at the commit of a step; the observations of the step are used up (07 R226). -/
def State.scaleCommit (s : State) (step : BitVec 32) : State :=
  let s := (List.range s.job.nscale.toNat).foldl (fun (s : State) i =>
    match s.scaleRecord i with
    | (none, s) => s
    | (some x, s) =>
      let y := scaleCommitted x step.toNat (spGet none s.job.observed (8192 * step.toNat + i))
      if y = x then s else s.putScaleRecord i y) s
  { s with job := { s.job with observed := spDrop s.job.observed (8192 * step.toNat) 8192 } }

/-- Whether the results of a collective come from an arrival-mode hall stage: its members lie in several racks (11 R336, R338). -/
def State.hallArrival (s : State) (e : CollEntry) : Bool := e.arrives && decide (1 < (s.topo e 0).roots.length)

/-- Format of a collective's results (11 R327, R328). -/
def State.resultFmt (s : State) (e : CollEntry) : Nat := if s.hallArrival e then 6 else e.fmt.toNat

/-- A bucket sent down before is read from the buffers and goes to a member again (09 R265, 11 R335, R343). -/
def State.sendKept (s : State) (e : CollEntry) (i : Inst) (dst : BitVec 12) (n : NodeInput) : State :=
  let hs := (n.header.getD []).map fun w => (decodeWord w).2.2
  let h := (hs.getD 0 { data := 0, poison := true }).data
  (s.readBuffers n.stored).sendPackets i dst .down (n.layout e.kind (s.resultFmt e) (bucketSize * i.id.bucket.toNat)) (hs.map codeOfWord)
    (hfield h 128 61)

/-- An instance completes on this module with a result; `deliver`: this member receives it (11 R327, R328, R331, R339, R349,
13 R399). -/
def State.finishInst (s : State) (e : CollEntry) (i : Inst) (b : Bucket) (deliver : Bool) (src : BitVec 12) : State :=
  let b := if b.hurt ∧ b.bstat = 0 then { b with bstat := 1 } else b
  let s := s.collCount 0
  let s := if b.bstat = 1 then s.collCount 10 else if b.bstat = 3 then s.collCount 5 else if b.bstat = 4 then s.collCount 6 else s
  let s := if b.stage = 2 then s.collCount 9 else s
  let s := s.latchColl i b src
  let s := s.modStep i.id.step fun x =>
    { x with
      flags := x.flags ||| b.flags, bstat1 := x.bstat1 || b.bstat == 1, bstat2 := x.bstat2 || b.bstat == 2,
      bstat3 := x.bstat3 || b.bstat == 3, bstat4 := x.bstat4 || b.bstat == 4,
      nbad := if b.bstat = 0 then x.nbad else satInc x.nbad,
      hallExact := x.hallExact || b.stage == 1, hallArrival := x.hallArrival || b.stage == 2 }
  let s := s.scaleNext e i b
  let s := if Config.observes i.id.cid.toNat ∧ b.bstat = 0 then s.observe i.id b.elems else s
  let i := { i with phase := .done, delivered := deliver, tokenDue := deliver, down := none }
  if deliver then
    let base := bucketSize * i.id.bucket.toNat
    let ws := (b.words e.kind base).map fun x => if b.bstat ≠ 0 then poisonWord else x.code
    -- a bucket that completes without data still writes every word of its result poisoned
    let step := some i.id.step
    let n := i.id.bucket.toNat
    let npkt := (ws.length + 31) / 32
    let (t1, _, s) := s.writeOut (.result i.id) step (adrAdd e.result (n * e.stride (s.hallArrival e) : Nat)) ws
    let hdrAt := adrAdd e.rhdr (32 * n : Nat)
    let (t2, _, s) := s.writeOut (.result i.id) step hdrAt [encodeWord (b.header e.kind i.attempt npkt i.id.step)]
    let (t3, _, s) := if e.kind = 2 then
        s.writeOut (.result i.id) step (adrAdd hdrAt 0x100000) [if b.bstat ≠ 0 then poisonWord else (Bucket.signWord b).code]
      else ([], none, s)
    (s.putInst { i with writes := t1 ++ t2 ++ t3 }.released).settleToken i.id
  else (s.putInst i.released).settleToken i.id

/-- The tree's DOWN META of an owner-only collective goes on to this member's children; it counts no data packets (11 R334; that
`NPKT` tells it from the owner's own META is DEDUCED, log 25). -/
def State.treeMeta (s : State) (e : CollEntry) (i : Inst) (t : Topo) (b : Bucket) : State :=
  t.kids.foldl (fun s m => s.sendColl i.id m 0x15 0 b.csum (b.metaWords e.kind i.attempt true 0 i.id.step)) s

/-- An attempt 1 starts at scale Q′ (11 R332): partials are discarded, REDO goes to the children. An arrival-mode hall stage redoes
within the rack, and keeps what has come of other racks' results (R338). -/
def State.startRedo (s : State) (e : CollEntry) (i : Inst) (t : Topo) (q : Int) : State :=
  let i := { i with
    attempt := true, q := q, inputs := if e.arrives then i.inputs.filter fun n => !t.rackKids.contains n.src else [], rack := none,
    fault := none, phase := .gather }
  let h := encodeWord ((Bucket.empty e.fmt.toNat q).header e.kind true 0 i.id.step)
  (if e.arrives then t.rackKids else t.kids).foldl (fun s m => s.sendColl i.id m 0x18 0 0 [h]) ((s.collCount 1).putInst i)

/-- Q′ of a redo (11 R332). -/
def redoQ (e : CollEntry) (q : Int) (peak : Option Int) : Int :=
  match peak with
  | none => clampQ (q + 2)
  | some l => clampQ (max (q + 2) (max (-32767) (min 32767 l) - e.w + 1 + (e.headroom.toNat : Int)))

/-- Whether a root asks for attempt 1 (11 R332, R352). -/
def wantsRedo (e : CollEntry) (i : Inst) (b : Bucket) : Bool :=
  e.staged && !i.attempt && b.flags &&& flagSat != 0 && decide (b.bstat < 2)

/-- A bucket that this module sends down, as its buffers keep it (11 R335). -/
def State.keep (s : State) (e : CollEntry) (i : Inst) (b : Bucket) : NodeInput :=
  b.store s.ident.id e.kind (bucketSize * i.id.bucket.toNat) i.attempt true i.id.step

/-- A rack result, as a rack root's buffers hold it while the hall stage goes on (11 R336 to R338). -/
def State.hold (s : State) (e : CollEntry) (i : Inst) (b : Bucket) : NodeInput :=
  b.store s.ident.id e.kind (bucketSize * i.id.bucket.toNat) i.attempt false i.id.step

/-- The root of the whole tree completes the instance with its sum (11 R334). -/
def State.rootDone (s : State) (e : CollEntry) (i : Inst) (t : Topo) (b : Bucket) : State :=
  if e.ownerOnly then
    let s := s.treeMeta e i t b
    let i := { i with fwd := true }
    if t.owner = s.ident.id then s.finishInst e i b true (i.fault.getD 0)
    else
      let s := s.sendBucket e i false t.owner .down b
      s.finishInst e { i with kept := some (s.keep e i b), owed := [t.owner] } b false (i.fault.getD 0)
  else
    let s := t.kids.foldl (fun s m => s.sendBucket e i false m .down b) s
    s.finishInst e { i with kept := some (s.keep e i b), owed := t.kids } b true (i.fault.getD 0)

/-- The complete input from a member. -/
def Inst.inputOf (i : Inst) (m : BitVec 12) : Option NodeInput := i.inputs.find? fun n => n.src == m && n.complete

/-- Buckets of members, once all are complete. -/
def Inst.inputsOf (e : CollEntry) (i : Inst) (fmt : Nat) (ms : List (BitVec 12)) : Option (List Bucket) :=
  ms.foldr (fun m acc => match acc, i.inputOf m with
    | some l, some n => some (n.bucket e.kind fmt i.q (bucketSize * i.id.bucket.toNat) false :: l)
    | _, _ => none) (some [])

/-- The buffered words of the complete inputs from members. -/
def Inst.rawOf (i : Inst) (ms : List (BitVec 12)) : List CodeWord := ms.flatMap fun m => ((i.inputOf m).map NodeInput.stored).getD []

/-- The check of a node's output: where its checksum differs from the one that its inputs carry, the node adds again, and the majority
decides (11 R342): the output, and the counter that goes up. -/
def checkedSum (kind : BitVec 2) (ins : List Bucket) (first again : Sparse Int) : Bucket × Option (Fin 12) :=
  let (want, c, b) := sumBuckets kind ins first
  if c = want then (b, none)
  else
    let (_, c', b') := sumBuckets kind ins again
    let (_, own, _) := sumBuckets kind ins []
    if c' = want then (b', some 2)
    else if b' = b ∧ own = c then (b, some 3)
    else (b.killed 2, some 4)

/-- The input that gave a sum its `BSTAT` 2 or 3 is kept with the instance (11 R355). -/
def Inst.blame (i : Inst) (me : BitVec 12) (ins : List (BitVec 12 × Bucket)) (bstat : Nat) : Inst :=
  match ins.find? fun x => 2 ≤ x.2.bstat && x.2.bstat == bstat with
  | some x => if x.1 = me then i else { i with fault := some x.1 }
  | none => i

/-- A node's sum of its inputs, which are read from the buffers, with its check counted, and an epoch mismatch marked (11 R342, R347). -/
def State.nodeSum (s : State) (e : CollEntry) (i : Inst) (raw : List CodeWord) (ins : List (BitVec 12 × Bucket)) (first again : Sparse Int) :
    Bucket × Inst × State :=
  let s := s.readBuffers raw
  let (b, n) := checkedSum e.kind (ins.map (·.2)) first again
  let s := match n with
    | some n => (s.readBuffers raw).collCount n
    | none => s
  (if i.badEpoch.isSome then b.killed 3 else b, i.blame s.ident.id ins b.bstat, s)

/-- A rack result is complete at the hall root: it is added after those of earlier control cycles, and among those of this one in ascending
rack group index (11 R338, R352). -/
def Inst.arrive (i : Inst) (k : Option CycleMarks) (t : Topo) (n : NodeInput) : Inst :=
  let now := fun (m : NodeInput) => k.any fun k => k.arrived.contains (i.id, m.src)
  let place := fun (m : NodeInput) => (t.roots.findIdx? (· == m.src)).getD 0
  { i with arrived := i.arrived.filter (fun m => !now m) ++ insertDue place n (i.arrived.filter now) }

/-- The control cycle notes a rack result that has become complete. -/
def State.noteArrived (s : State) (id : InstId) (src : BitVec 12) : State :=
  s.mark fun k => { k with arrived := (id, src) :: k.arrived }

/-- The rack stage of a node (11 R334, R337, R338). -/
def State.rackOutput (s : State) (e : CollEntry) (i : Inst) (t : Topo) (own : Contrib) (kids : List Bucket) (first again : Sparse Int) : State :=
  let i := if own.epoch = s.job.epochFor i.id.step then i else { i with badEpoch := i.badEpoch.or (some s.ident.id) }
  let ins := (s.ident.id, own.bucket e i.q i.noScale) :: t.rackKids.zip kids
  let (b, i, s) := s.nodeSum e i (own.words ++ own.summary.toList ++ i.rawOf t.rackKids) ins first again
  let s := s.sendBack i.id t.rackKids
  match t.rackParent with
  | some p => (s.sendBucket e i t.rackKids.isEmpty p .up b).putInst { i with phase := .sent, upOwed := true }
  | none =>
    if t.roots.length ≤ 1 ∨ e.arrives then
      if wantsRedo e i b then s.startRedo e i t (redoQ e i.q b.peak)
      else if t.roots.length ≤ 1 then s.rootDone e i t b
      else
        let a := if b.bstat < 2 then b.toArrival else { b with fmt := 6, stage := 2 }
        if t.root = s.ident.id then (s.noteArrived i.id s.ident.id).putInst { i.arrive s.cycle t (s.hold e i a) with rack := some (s.hold e i b) }
        else (s.sendBucket e i false t.root .arrive a).putInst { i with phase := .sent, upOwed := true }
    else s.putInst { i with rack := some (s.hold e i b) }

/-- The hall stage of a rack root (11 R336 to R338). The hall root of an arrival-mode stage answers the rack roots with BACK when
it has added their results (DESIGN CHOICE, log 27). -/
def State.hallOutput (s : State) (e : CollEntry) (i : Inst) (t : Topo) (rack : NodeInput) (first again : Sparse Int) : State :=
  let base := bucketSize * i.id.bucket.toNat
  if e.arrives then
    if i.arrived.length < t.roots.length then s
    else
      let ins := i.arrived.map fun n => (n.src, n.bucket e.kind 6 i.q base false)
      let b := sumArrival (ins.map (·.2))
      let i' := i.blame s.ident.id ins b.bstat
      let b := if i.badEpoch.isSome then b.killed 3 else b
      let s := s.readBuffers (i.arrived.flatMap NodeInput.stored)
      let i := i'
      (s.sendBack i.id (t.roots.filter (· != s.ident.id))).rootDone e i t b
  else
    let w := (rack.bucket e.kind e.fmt.toNat i.q base false).widen e.kind
    match i.inputsOf e w.fmt t.hallKids with
    | none => s
    | some kids =>
      let (b, i, s) := s.nodeSum e i (rack.stored ++ i.rawOf t.hallKids) ((s.ident.id, w) :: t.hallKids.zip kids) first again
      let s := s.sendBack i.id t.hallKids
      match t.hallParent with
      | some p => (s.sendBucket e i t.kids.isEmpty p .up b).putInst { i with phase := .sent, upOwed := true }
      | none =>
        let b := if b.fmt = 10 ∧ e.fmt = 9 then (if b.bstat < 2 then b.narrow else { b with fmt := 9 }) else b
        if wantsRedo e i b then s.startRedo e i t (redoQ e i.q b.peak) else s.rootDone e i t b

/-- With all inputs present a node adds them, checks its sum, and sends it up, or as root completes or redoes the instance
(11 R332, R334, R342). -/
def State.nodeOutput (s : State) (id : InstId) (first again : Sparse Int) : State :=
  match s.instOf id, s.collEntry id.cid with
  | some i, some e =>
    if i.phase ≠ .gather then s
    else
      let t := s.topo e id.bucket.toNat
      match i.rack with
      | some r => s.hallOutput e i t r first again
      | none =>
        match i.own, i.inputsOf e e.fmt.toNat t.rackKids with
        | some own, some kids => s.rackOutput e i t own kids first again
        | _, _ => s
  | _, _ => s

/-- The input under a sender changes. -/
def modInput (l : List NodeInput) (src : BitVec 12) (f : NodeInput → NodeInput) : List NodeInput :=
  if l.any fun n => n.src == src then l.map fun n => if n.src = src then f n else n
  else l ++ [f { src := src, pkts := [], header := none }]

/-- Index of a data packet within its bucket (11 R354). -/
def pktIndex (h : ErgHdr) : Nat := bitsOf h.addr.toNat 8 8

/-- Whether the header of a META fits its instance: kind, step, format (11 R354). -/
def metaFits (e : CollEntry) (id : InstId) (fmts : List Nat) (ws : List RWord) : Bool :=
  match ws with
  | [] => false
  | h :: _ => h.poison || (hfield h.data 84 2 == e.kind.toNat && hfield h.data 192 32 == id.step.toNat
      && fmts.contains (hfield h.data 80 4))

/-- The result has been received in full: it is compared, passed on, delivered (11 R334, R343). -/
def State.downDone (s : State) (e : CollEntry) (i : Inst) (t : Topo) (n : NodeInput) : State :=
  let s := s.readBuffers n.stored
  let b := n.bucket e.kind (s.resultFmt e) i.q (bucketSize * i.id.bucket.toNat) true
  let bad := b.check ≠ b.csum
  if bad ∧ i.resent = false then
    ((s.collCount 8).putInst { i with resent := true, down := none }).sendColl i.id n.src 0x17 0 0 []
  else
    let s := if bad then s.collCount 4 else s
    let b := if bad then b.killed 2 else b
    let b := if i.badEpoch.isSome then b.killed 3 else if 2 ≤ b.bstat then b.killed b.bstat else b
    let s := s.sendBack i.id [n.src]
    if e.ownerOnly then s.finishInst e i b true n.src
    else
      let s := t.kids.foldl (fun s m => s.sendBucket e i false m .down b) s
      s.finishInst e { i with kept := if t.kids.isEmpty then none else some (s.keep e i b), owed := t.kids } b true n.src

/-- A DOWN packet (11 R334, R343, R354): data by packet index, or the META. -/
def State.takeDown (s : State) (e : CollEntry) (i : Inst) (t : Topo) (h : ErgHdr) (ws : List RWord) : State :=
  let isMeta : Bool := h.opc == 0x15
  let d := i.down.getD { src := h.src, pkts := [], header := none }
  let ws := ws.map codeOfWord
  let d := if isMeta then { d with header := some ws } else { d with pkts := spSet [] d.pkts (pktIndex h) ws }
  let i := { i with down := some d }
  if d.complete then s.downDone e i t d else s.putInst i

/-- A DOWN META that runs down the tree of an owner-only collective, from a member; an epoch mismatch marks what goes on (11 R334,
R347). -/
def State.takeTreeMeta (s : State) (e : CollEntry) (i : Inst) (t : Topo) (src : BitVec 12) (ws : List RWord) : State :=
  let n : NodeInput := { src := src, pkts := [], header := some (ws.map codeOfWord) }
  let b := n.bucket e.kind (s.resultFmt e) i.q (bucketSize * i.id.bucket.toNat) true
  let b := { b with csum := hfield ((ws.getD 0 { data := 0, poison := true }).data) 128 61 }
  let b := if i.badEpoch.isSome then { b with bstat := 3, hurt := true } else b
  let s := s.treeMeta e i t b
  let i := { i with fwd := true }
  if t.owner = s.ident.id then s.putInst i
  else s.finishInst e i b false src

/-- Whether every input that a node's next sum needs has come (11 R334, R337, R338). -/
def Inst.ready (i : Inst) (e : CollEntry) (t : Topo) : Bool :=
  i.phase == .gather &&
  match i.rack with
  | none => i.own.isSome && t.rackKids.all fun m => (i.inputOf m).isSome
  | some _ => if e.arrives then decide (t.roots.length ≤ i.arrived.length) else t.hallKids.all fun m => (i.inputOf m).isSome

/-- An instance is put in place with an input that has come; where that was the last, the control cycle notes it (11 R352). -/
def State.putReady (s : State) (e : CollEntry) (i : Inst) : State :=
  let s := s.putInst i
  if i.ready e (s.topo e i.id.bucket.toNat) then s.mark fun k => { k with ready := i.id :: k.ready } else s

/-- A packet reaches its admitted instance (11 R334, R335, R343, R347, R350, R352, R354). A result of arrival mode that
comes from another rack, by the hall tree or from the hall root, has no attempt in common with this rack, which redoes for itself (R338). -/
def State.instPacket (s : State) (e : CollEntry) (i : Inst) (h : ErgHdr) (ws : List RWord) : State :=
  let t := s.topo e i.id.bucket.toNat
  let src := h.src
  let o := h.opc.toNat
  let raw := ws.map codeOfWord
  let isMeta := o = 0x14 ∨ o = 0x15 ∨ o = 0x1A
  let attemptOf := fun (lo : Nat) => if o = 0x14 ∨ o = 0x15 ∨ o = 0x1A
    then decide (hfield (ws.getD 0 { data := 0, poison := true }).data 73 1 = 1) else decide (o = lo + 1)
  let epochBad := (o = 0x10 ∨ o = 0x11 ∨ isMeta) ∧ h.epoch ≠ s.job.epochFor i.id.step
  let i' := if epochBad ∧ i.phase ≠ .done then { i with badEpoch := i.badEpoch.or (some src) } else i
  let late := s.collCount 7
  let waits : Bool := i.phase == .gather && i.attempt == attemptOf 0x10
  if o = 0x16 then
    if src ∈ i.owed then s.putInst { i with owed := i.owed.filter (· != src) }.released
    else if i.upOwed ∧ (t.parent = some src ∨ (e.arrives ∧ src = t.root)) then s.putInst { i with upOwed := false }.released
    else late
  else if o = 0x17 then
    match i.kept with
    | some n => if src ∈ i.owed then s.sendKept e i src n else late
    | none => late
  else if o = 0x18 then
    if t.parent = some src ∧ i.attempt = false ∧ i.phase ≠ .done then
      s.startRedo e i t (codeOf 16 true (hfield (ws.getD 0 { data := 0, poison := true }).data 0 16))
    else late
  else if o = 0x10 ∨ o = 0x11 ∨ o = 0x14 then
    let rackSide := decide (src ∈ t.rackKids)
    let fmts := if rackSide then [e.fmt.toNat] else if e.fmt = 9 ∧ e.kind ≠ 1 ∧ e.kind ≠ 2 then [10] else [e.fmt.toNat]
    if waits ∧ (rackSide ∨ (src ∈ t.hallKids ∧ e.arrives = false)) ∧ (o ≠ 0x14 ∨ metaFits e i.id fmts ws) then
      s.putReady e { i' with inputs := modInput i'.inputs src fun n =>
        if o = 0x14 then { n with header := some raw } else { n with pkts := spSet [] n.pkts (pktIndex h) raw } }
    else late
  else if o = 0x19 ∨ o = 0x1A then
    if e.arrives ∧ i.phase = .gather ∧ t.root = s.ident.id ∧ src ∈ t.roots ∧ i.arrived.all (fun a => a.src != src) ∧
        (o = 0x19 ∨ metaFits e i.id [6] ws) then
      let l := modInput i'.inputs src fun n =>
        if o = 0x1A then { n with header := some raw } else { n with pkts := spSet [] n.pkts (pktIndex h) raw }
      match l.find? fun n => n.src == src && n.complete with
      | some n => (s.noteArrived i.id src).putReady e { i'.arrive s.cycle t n with inputs := l.filter (fun n => n.src != src) }
      | none => s.putInst { i' with inputs := l }
    else late
  else if o = 0x12 ∨ o = 0x13 ∨ o = 0x15 then
    let fmts := [e.fmt.toNat, if e.arrives then 6 else e.fmt.toNat]
    let npkt := hfield (ws.getD 0 { data := 0, poison := true }).data 104 9
    let attempt : Bool := i.attempt == attemptOf 0x12 || (e.arrives && decide (1 < t.roots.length) && (src == t.root || t.hallParent == some src))
    if o = 0x15 ∧ metaFits e i.id fmts ws = false then late
    else if e.ownerOnly then
      let tree : Bool := o == 0x15 && t.parent == some src && !i.fwd && (t.owner != s.ident.id || src != t.root || npkt == 0)
      if tree ∧ (i.phase = .sent ∨ (i.phase = .done ∧ t.owner = s.ident.id)) then s.takeTreeMeta e i' t src ws
      else if i.phase = .sent ∧ t.owner = s.ident.id ∧ src = t.root ∧ attempt then s.takeDown e i' t h ws
      else late
    else if i.phase = .sent ∧ t.parent = some src ∧ attempt then s.takeDown e i' t h ws
    else late
  else late

/-- The step that a packet's step bits name (11 R354). -/
def State.stepOfBits (s : State) (x : Nat) : Option (BitVec 32) :=
  if (s.job.committed + 1).toNat % 256 = x then some (s.job.committed + 1)
  else if (s.job.committed + 2).toNat % 256 = x then some (s.job.committed + 2)
  else none

/-- Whether `LEN`, `SPACE`, `RANK` and `PLANE` of a collective packet are those of its opcode and bucket (11 R333, R354). -/
def collShape (e : CollEntry) (h : ErgHdr) : Bool :=
  let n := h.len.toNat
  !h.space && h.rank == 0 && h.plane.toNat == bitsOf h.addr.toNat 16 4 &&
    match h.opc.toNat with
    | 0x10 | 0x11 | 0x12 | 0x13 | 0x19 => decide (1 ≤ n) && decide (n ≤ 32)
    | 0x14 | 0x18 | 0x1A => n == 1
    | 0x15 => n == (if e.kind = 2 then 2 else 1)
    | 0x16 | 0x17 => n == 0
    | _ => false

/-- A collective packet reaches the engine: it goes to its instance, waits in its port's buffer of the lane, or is discarded; its credits go
back when it does not wait (10 R288, 11 R321, R326, R350, R354, 13 R407). -/
def State.offer (s : State) (p : Fin 16) (pkt : ErgPacket) (ws : List RWord) : State :=
  let wait : Fin 16 × ErgPacket := (p, { pkt with payload := ws.map codeOfWord })
  let a := pkt.hdr.addr.toNat
  let cid := BitVec.ofNat 16 (bitsOf a 32 16)
  let b := bitsOf a 16 16
  let x := bitsOf a 0 8
  match s.collEntry cid with
  | none => (s.collCount 11).returnCredits p pkt
  | some e =>
    if e.nbkt.toNat ≤ b ∨ collShape e pkt.hdr = false then (s.collCount 7).returnCredits p pkt
    else if s.job.fence ∧ (x = s.job.fenceStep.toNat % 256 ∨ x = (s.job.fenceStep + 1).toNat % 256) then (s.collCount 7).returnCredits p pkt
    else
      match s.stepOfBits x with
      | none => { s with coll := { s.coll with waiting := s.coll.waiting ++ [wait] } }
      | some step =>
        let id : InstId := { cid := cid, bucket := BitVec.ofNat 16 b, step := step }
        match s.instOf id with
        | some i => (s.returnCredits p pkt).instPacket e i pkt.hdr ws
        | none =>
          { s with coll := { s.coll with
              waiting := s.coll.waiting ++ [wait],
              known := if s.coll.known.any fun k => k.id == id then s.coll.known else s.coll.known ++ [{ id := id, own := none }] } }

/-- Packets that wait in the lane's buffer reach the engine again, in their order. -/
def State.offerWaiting (s : State) : State :=
  s.coll.waiting.foldl (fun s x => s.offer x.1 x.2 (rwords x.2.payload)) { s with coll := { s.coll with waiting := [] } }

/-- Free buffer slots (11 R318, R355). -/
def Coll.slotsFree (c : Coll) : Nat := 1024 - (c.insts.map (·.slots)).foldl (· + ·) 0

/-- Whether an earlier step of a bucket is still open on this module (11 R325). -/
def Coll.heldBack (c : Coll) (id : InstId) : Bool :=
  (c.insts.any fun i => i.id.cid == id.cid && i.id.bucket == id.bucket && i.id.step.toNat < id.step.toNat && i.phase != .done)
    || c.known.any fun k => k.id.cid == id.cid && k.id.bucket == id.bucket && k.id.step.toNat < id.step.toNat

/-- The engine admits an instance: the first in arrival order that no earlier step holds back, once its slots are free (11 R318,
R325, R329). Packets that waited for it reach it. -/
def State.admitInst (s : State) (id : InstId) : State :=
  match s.coll.known.find? fun k => !s.coll.heldBack k.id with
  | none => s
  | some k =>
    match s.collEntry id.cid with
    | none => s
    | some e =>
      if k.id ≠ id ∨ s.coll.slotsFree < e.need then s
      else
        let (q, s) := if e.fmt = 11 ∨ Config.observes id.cid.toNat then (some (0, true), s) else s.xscale (e.sbase.toNat + id.bucket.toNat)
        let i : Inst :=
          { id := id, phase := .gather, attempt := false, q := (q.map (·.1)).getD 0, noScale := q.isNone, own := k.own,
            badEpoch := none, fault := none, inputs := [], arrived := [], rack := none, down := none, resent := false, kept := none, owed := [],
            upOwed := false, fwd := false, slots := e.need, delivered := false, writes := [], tokenDue := false }
        let s := { s with coll := { s.coll with known := s.coll.known.filter fun x => x.id != id } }
        (s.putInst i).offerWaiting

/-- The oldest contribution at the exchange port enters the engine, or is refused (11 R322, R325, R329): whom it answers, and how. A
contribution to an instance that has one already, or that has completed, is discarded. -/
def State.takeContribution (s : State) : Option (Issuer × Nat × Answer) × State :=
  match s.coll.contribs with
  | [] => (none, s)
  | c :: rest =>
    let s := { s with coll := { s.coll with contribs := rest } }
    match s.collEntry c.id.cid with
    | none => (some (c.issuer, c.tag, .refused stBadParam), s)
    | some e =>
      match s.handleOk (BitVec.ofNat 64 (c.id.cid.toNat + 65536 * c.id.bucket.toNat)) 1 e.entryFmt with
      | (false, s) => (some (c.issuer, c.tag, .refused stBadParam), s)
      | (true, s) =>
        let s :=
          match s.instOf c.id with
          | some i => if i.phase = .gather ∧ i.own.isNone then s.putReady e { i with own := some c } else s
          | none =>
            let ks := s.coll.known
            { s with coll := { s.coll with
                known := if ks.any fun k => k.id == c.id then
                    ks.map fun k => if k.id = c.id ∧ k.own.isNone then { k with own := some c } else k
                  else ks ++ [{ id := c.id, own := some c }] } }
        (some (c.issuer, c.tag, .wrote), s)

/-- `BKT_TO` expires: the node completes its instance locally with `BSTAT` 4, sends nothing and releases its slots (11 R350). Where the last
input came in the same control cycle the instance goes on (R352). -/
def State.bucketTimeout (s : State) (id : InstId) : State :=
  match s.instOf id, s.collEntry id.cid with
  | some i, some e =>
    if i.phase = .done ∨ s.cycle.any (fun k => k.ready.contains id) then s
    else
      let t := s.topo e id.bucket.toNat
      let b := { (Bucket.empty (s.resultFmt e) i.q).killed 4 with lost := if e.kind = 1 then bucketSize else 0 }
      s.finishInst e { i with owed := [], upOwed := false, kept := none, fwd := true } b
        (!e.ownerOnly || t.owner == s.ident.id) 0
  | _, _ => s

/-- Instances, contributions and packets of every step from one on are discarded; none where `from_` is none: all of them (11 R353,
13 R407). -/
def Coll.discard (c : Coll) (from_ : Option (BitVec 32)) : Coll :=
  let keep := fun (step : BitVec 32) => match from_ with
    | none => false
    | some x => decide (step.toNat < x.toNat)
  { c with insts := c.insts.filter fun i => keep i.id.step, contribs := c.contribs.filter fun x => keep x.id.step,
           known := c.known.filter fun k => keep k.id.step }

/-- Completed instances of committed steps are no longer listed: their packets never reach the engine again (11 R354). -/
def Coll.prune (c : Coll) (committed : BitVec 32) : Coll :=
  { c with insts := c.insts.filter fun i => decide (committed.toNat < i.id.step.toNat) || i.slots != 0 || !i.writes.isEmpty || i.tokenDue }

/-- Packets that wait with the step bits of an aborted step or of the one after it are discarded and counted (13 R407). -/
def State.discardWaiting (s : State) (step : BitVec 32) : State :=
  let mine := fun (x : Fin 16 × ErgPacket) =>
    let b := bitsOf x.2.hdr.addr.toNat 0 8
    b == step.toNat % 256 || b == (step + 1).toNat % 256
  let gone := s.coll.waiting.filter mine
  gone.foldl (fun s x => s.returnCredits x.1 x.2) { s with coll := { s.coll with
      waiting := s.coll.waiting.filter fun x => !mine x, cnt := s.coll.cnt.set 7 (satAdd s.coll.cnt[7] gone.length) } }

/-- A collective's result write has been answered (11 R327). -/
def State.resultAnswered (s : State) (id : InstId) (tag : Nat) : State :=
  match s.instOf id with
  | some i => (s.putInst { i with writes := i.writes.filter (· != tag) }).settleToken id
  | none => s

end Sys2Proof.Machine
end

