-- ==== Sys2Proof/Machine/HostOps.lean ====
section
/-! DEFINITION. Completion entries, completion rings and mailbox replies (12 R364 to R368, R381). -/

namespace Sys2Proof.Machine

/-- A completion entry with its phase bit 0 (12 R367). -/
def cplEntry (status opc : BitVec 16) (seq : BitVec 32) (type : Nat) (flags : Byte) (elapsed detail : Nat) : BitVec 256 :=
  BitVec.ofNat 256 (status.toNat + 2 ^ 16 * opc.toNat + 2 ^ 32 * seq.toNat + 2 ^ 64 * type + 2 ^ 80 * flags.toNat
    + 2 ^ 96 * min elapsed (2 ^ 32 - 1) + 2 ^ 128 * (detail % 2 ^ 128))

/-- A command queue. -/
def State.queue (s : State) (q : Fin 8) : Queue := s.host.queues[q]

/-- A command queue changes. -/
def State.modQueue (s : State) (q : Fin 8) (f : Queue → Queue) : State :=
  { s with host := { s.host with queues := s.host.queues.set q (f s.host.queues[q]) } }

/-- Entries of a completion ring, and of a command ring (12 R360). -/
def Queue.cplCount (x : Queue) : Nat := 2 ^ (x.cplSize.toNat + 4)
/-- Entries of a command ring (12 R360). -/
def Queue.cmdCount (x : Queue) : Nat := 2 ^ (x.cmdSize.toNat + 4)

/-- Whether a completion ring has no free entry (12 R364). -/
def Queue.cplFull (x : Queue) : Bool := (x.cplTail.toNat + 1) % x.cplCount == x.cplHead.toNat

/-- An entry is written at the tail of a completion ring, with its phase; its vector follows; a ring that is full stalls its queue
(12 R364, R367). -/
def State.writeEntry (s : State) (q : Fin 8) (h : HeldEntry) : State :=
  let x := s.queue q
  let e := h.entry.toNat + (if x.phase then 2 ^ 72 else 0)
  let t := (x.cplTail.toNat + 1) % x.cplCount
  let s := s.dma (x.cplBase.toNat + 32 * x.cplTail.toNat) (leBytes 32 e)
  let s := s.modQueue q fun x => { x with cplTail := BitVec.ofNat 16 t, phase := if t = 0 then !x.phase else x.phase }
  let s := s.modQueue q fun x => { x with state := if x.state = .running ∧ x.cplFull then .stalled else x.state }
  if h.irq || x.irqAll then s.msix q.val else s

/-- An entry that is ready is written, or held while the ring is full: its queue stalls (12 R364). -/
def State.postEntry (s : State) (q : Fin 8) (entry : BitVec 256) (irq : Bool) : State :=
  let x := s.queue q
  if x.held.isEmpty && !x.cplFull then s.writeEntry q { entry := entry, irq := irq }
  else s.modQueue q fun x =>
    { x with held := x.held ++ [{ entry := entry, irq := irq }], state := if x.state = .running then .stalled else x.state }

/-- Held entries are written while the ring has free entries, n at most; with none held a stalled queue runs again (12 R364). -/
def State.releaseHeld (n : Nat) (s : State) (q : Fin 8) : State :=
  match n with
  | 0 => s
  | k + 1 =>
    let x := s.queue q
    match x.held with
    | [] => s.modQueue q fun x => { x with state := if x.state = .stalled ∧ x.cplFull = false then .running else x.state }
    | h :: r => if x.cplFull then s else ((s.modQueue q fun x => { x with held := r }).writeEntry q h).releaseHeld k q

/-- The LAUNCH that started a stream (05 R160, 08 R252). -/
def State.launchOf (s : State) (id : Option Nat) : Option LaunchRec :=
  match id with
  | none => none
  | some n => s.host.launches.find? fun l => l.id == n

/-- An event or report of a stream's work goes to the completion ring of the queue that issued its LAUNCH (05 R160, 08 R252, R257,
12 R367). -/
def State.reportLaunch (s : State) (launch : Option Nat) (type : Nat) (status : BitVec 16) (detail : Nat) : State :=
  match s.launchOf launch with
  | none => s
  | some l => s.postEntry l.queue (cplEntry status 0x0201 l.seq type 0 0 detail) true

/-- The code of an agent (12 R384). -/
def agentCode (a : Agent) : BitVec 12 :=
  match a with
  | .host => 0x001
  | .mgmt => 0x002
  | .rmc => 0x003
  | .notar => 0x004
  | .core n => BitVec.ofNat 12 (0x100 + n)

/-- A mailbox. -/
def State.mailbox (s : State) (m : Fin 16) : Mailbox := s.host.mail[m]

/-- A mailbox changes. -/
def State.modMail (s : State) (m : Fin 16) (f : Mailbox → Mailbox) : State :=
  { s with host := { s.host with mail := s.host.mail.set m (f s.host.mail[m]) } }

/-- A notice reaches an agent: the host by vector 8, the RMC by the in-band interrupt 0x01 (12 R381, 15 R451). -/
def State.notice (s : State) (to_ : BitVec 12) : State :=
  if to_ = 0x001 then s.msix 8 else if to_ = 0x003 then s.ibi 0x01 else s

/-- A mailbox becomes Acked with a code, with a notice to its sender (12 R381). -/
def State.ackMail (s : State) (m : Fin 16) (code : BitVec 16) : State :=
  (s.modMail m fun x => { x with state := .acked, code := code }).notice (s.mailbox m).sender

end Sys2Proof.Machine
end

