-- ==== Sys2Proof/Machine/Qanat.lean ====
section
/-! DEFINITION. Qanat: descriptors, their checks, the transfer with its conversions, tokens, pauses and faults (08). -/

namespace Sys2Proof.Machine

/-- One side of a descriptor (08 R232 to R236): kind, main address, companion address field, strides in words, companion pitch,
format, square blocking, coarse scale. -/
structure QSide where
  kind   : Nat
  addr   : BitVec 64
  aux    : Nat
  s1     : Int
  s2     : Int
  s3     : Int
  pitch  : Nat
  fmt    : Nat
  sq     : Bool
  coarse : Byte

/-- A descriptor's fields (08 R232). -/
structure QF where
  src     : QSide
  dst     : QSide
  n0      : Nat
  n1      : Nat
  n2      : Nat
  n3      : Nat
  round   : BitVec 2
  plane   : Nat
  auxsh   : Nat
  rtokEn  : Bool
  rtok    : BitVec 5
  ctokEn  : Bool
  ctok    : BitVec 5
  cremote : Bool
  ccore   : Nat
  rsv     : Nat

/-- The 512 bits of a descriptor. -/
def QDesc.raw (d : QDesc) : Nat :=
  (decodeWord d.w0).2.2.data.toNat + 2 ^ 256 * (decodeWord d.w1).2.2.data.toNat

/-- Whether a descriptor was read with poison (09 R278). -/
def QDesc.poisoned (d : QDesc) : Bool := (decodeWord d.w0).2.2.poison || (decodeWord d.w1).2.2.poison

/-- A side with the QPUSH adjustment, if its kind is 0 (06 R178, 08 R233, R237). -/
def QSide.adjusted (x : QSide) (auxsh : Nat) (adj : Option Int) : QSide :=
  match adj with
  | some d =>
    if x.kind = 0 then
      { x with
        addr := BitVec.ofNat 64 (2 ^ 21 * (x.addr.toNat / 2 ^ 21) + (((x.addr.toNat : Int) + d) % 2 ^ 21).toNat),
        aux := if 8 < auxsh then x.aux else (((x.aux : Int) + d / 2 ^ auxsh) % 2 ^ 21).toNat }
    else x
  | none => x

/-- A descriptor's fields, the QPUSH adjustment applied (08 R232, R237). -/
def QDesc.fields (d : QDesc) : QF :=
  let x := d.raw
  let auxsh := bitsOf x 476 4
  let st := fun (lo : Nat) => codeOf 22 true (bitsOf x lo 22)
  let src : QSide :=
    { kind := bitsOf x 440 2, addr := BitVec.ofNat 64 (bitsOf x 0 64), aux := bitsOf x 128 48, s1 := st 276, s2 := st 298,
      s3 := st 320, pitch := bitsOf x 408 16, fmt := bitsOf x 444 5, sq := decide (bitsOf x 472 1 = 1),
      coarse := BitVec.ofNat 8 (bitsOf x 454 8) }
  let dst : QSide :=
    { kind := bitsOf x 442 2, addr := BitVec.ofNat 64 (bitsOf x 64 64), aux := bitsOf x 176 48, s1 := st 342, s2 := st 364,
      s3 := st 386, pitch := bitsOf x 424 16, fmt := bitsOf x 449 5, sq := decide (bitsOf x 473 1 = 1),
      coarse := BitVec.ofNat 8 (bitsOf x 462 8) }
  { src := src.adjusted auxsh d.adjust, dst := dst.adjusted auxsh d.adjust,
    n0 := bitsOf x 224 16 + 1, n1 := bitsOf x 240 12 + 1, n2 := bitsOf x 252 12 + 1, n3 := bitsOf x 264 12 + 1,
    round := BitVec.ofNat 2 (bitsOf x 470 2), plane := bitsOf x 474 2, auxsh := auxsh, rtokEn := decide (bitsOf x 480 1 = 1),
    rtok := BitVec.ofNat 5 (bitsOf x 481 5), ctokEn := decide (bitsOf x 486 1 = 1), ctok := BitVec.ofNat 5 (bitsOf x 487 5),
    cremote := decide (bitsOf x 492 1 = 1), ccore := bitsOf x 493 8, rsv := bitsOf x 501 11 }

/-- Rows of a transfer (08 R235). -/
def QF.rows (f : QF) : Nat := f.n1 * f.n2 * f.n3

/-- Width of an element by format code; raw bytes have 8 bits (08 R234). -/
def qBits (fmt : Nat) : Nat := if fmt = 0x1F then 8 else fmtBits fmt

/-- Whether a format is one of the MX element formats that are taken (08 R234). -/
def isMx (fmt : Nat) : Bool := 0x12 ≤ fmt && fmt ≤ 0x15

/-- Whether a format code is refused (08 R234). -/
def fmtRefused (fmt : Nat) : Bool := (0x0D ≤ fmt && fmt ≤ 0x0F) || (0x16 ≤ fmt && fmt ≤ 0x1E)

/-- The format in which the destination's elements are stored: a byte plane's under `PLANE` (08 R241). -/
def QF.store (f : QF) : Nat := planeFmt f.dst.fmt f.plane

/-- Companion bytes of a row or band of a side in a format (08 R236). -/
def compBytes (fmt n0 : Nat) : Nat := if isB fmt || isMx fmt then n0 / 32 else if fmt = 12 then 2 * n0 else 0

/-- Companion bytes on the destination: none for the low byte plane (08 R241). -/
def QF.dstComp (f : QF) : Nat := if f.plane = 2 then 0 else compBytes f.dst.fmt f.n0

/-- Whether a descriptor converts (08 R239). A plane form alone is none: the codes are split as they stand. -/
def QF.converts (f : QF) : Bool :=
  f.src.fmt != f.dst.fmt || (isB f.src.fmt && (f.src.coarse != f.dst.coarse || f.src.sq != f.dst.sq))

/-- An address on a side moves by bytes: a scratchpad address modulo 2²¹ (08 R236). -/
def QSide.step (x : QSide) (a : BitVec 64) (d : Int) : BitVec 64 :=
  if x.kind = 0 then BitVec.ofNat 64 (((a.toNat : Int) + d) % 2 ^ 21).toNat else adrAdd a d

/-- Main address of a row (08 R235). -/
def QF.rowAddr (f : QF) (x : QSide) (r : Nat) : BitVec 64 :=
  let i1 := r % f.n1
  let i2 := r / f.n1 % f.n2
  let i3 := r / f.n1 / f.n2
  x.step x.addr (((i1 : Int) * x.s1 + (i2 : Int) * x.s2 + (i3 : Int) * x.s3) * 32)

/-- Companion base address of a side (08 R236). -/
def QSide.compBase (x : QSide) : BitVec 64 :=
  if x.kind = 0 then BitVec.ofNat 64 (x.aux % 2 ^ 21) else BitVec.ofNat 64 (2 ^ 48 * adr x.addr 48 16 + x.aux)

/-- Companion address of a row, or of its band (08 R236). -/
def QSide.compAddr (x : QSide) (r : Nat) : BitVec 64 :=
  x.step x.compBase (((if x.sq then r / 32 else r) * x.pitch : Nat) : Int)

/-- The largest size that any grade gives a region (08 R238). -/
def largestRegion (region : Nat) : Nat :=
  if region < 4 then 2 ^ 34 else if region = 4 then 2 ^ 39 else if region = 8 then 224 * 2 ^ 21 else if region = 9 then 224 * 2 ^ 19
  else 0

/-- Whether bytes lo to hi from a module-physical address lie within its region; job-virtual ones are checked as the transfer runs
(01 R19 to R21, 08 R238). -/
def State.extentOk (s : State) (a : BitVec 64) (lo hi : Int) (write : Bool) : Bool :=
  let space := adr a 60 4
  if space = 1 then true
  else if space ≠ 0 then false
  else
    let region := adr a 44 4
    let size := if adr a 48 12 = s.ident.id.toNat then s.regionSize region else largestRegion region
    decide (0 ≤ (adr a 0 44 : Int) + lo) && decide ((adr a 0 44 : Int) + hi < size) && !(region == 9 && write)

/-- Whether a side's extents are allowed: its rows of n bytes and its companions of c bytes (08 R238). -/
def State.sideOk (s : State) (f : QF) (x : QSide) (n c : Nat) (write : Bool) : Bool :=
  if x.kind ≠ 1 then true
  else
    let dims : List (Nat × Int) := [(f.n1, x.s1), (f.n2, x.s2), (f.n3, x.s3)]
    let lo := dims.foldl (fun (a : Int) d => a + min 0 (((d.1 - 1 : Nat) : Int) * d.2)) 0 * 32
    let hi := dims.foldl (fun (a : Int) d => a + max 0 (((d.1 - 1 : Nat) : Int) * d.2)) 0 * 32 + n - 1
    let last := f.rows - 1
    s.extentOk x.addr lo hi write
      && (c == 0 || s.extentOk (BitVec.ofNat 64 (2 ^ 48 * adr x.addr 48 16 + x.aux)) 0
            (((if x.sq then last / 32 else last) * x.pitch + c - 1 : Nat) : Int) write)

/-- Buckets that a contribution holds (11 R322): whole buckets of elements, one top-k list, or 65 words for each sign bucket. -/
def QF.bucketCount (f : QF) (e : CollEntry) : Option Nat :=
  let total := f.n0 * f.rows
  if e.kind = 1 then (if total ≤ 8 * bucketSize then some 1 else none)
  else
    let one := if e.kind = 2 then 65 * 32 else bucketSize
    if total % one = 0 then some (total / one) else none

/-- Words of a bucket in its entry format (11 R322). -/
def CollEntry.entryWords (e : CollEntry) (total : Nat) : Nat :=
  if e.kind = 1 then total / 32 else if e.kind = 2 then 65 else bucketSize * qBits e.entryFmt / 256

/-- Whether the tile summary words that an X128 exchange descriptor of n buckets reads lie in their region (08 R238, 11 R322). -/
def State.summariesOk (s : State) (x : QSide) (n : Nat) : Bool :=
  x.kind != 1 || s.extentOk x.compBase 0 (((n - 1) * x.pitch + 31 : Nat) : Int) false

/-- The collective that a handle names. -/
def QF.entry (f : QF) (s : State) : Option CollEntry := s.collEntry (f.dst.addr.extractLsb' 0 16)

/-- The checks of a descriptor at its start (08 R238, R239, R241, R242, 11 R322). FP8 and MX data are the source of an ingest conversion
only, never a target, and not copied as such (02 R37). -/
def State.descOk (s : State) (f : QF) (ctx : EvalCtx) : Bool × State :=
  let sf := f.src.fmt
  let df := f.dst.fmt
  let sk := f.src.kind
  let dk := f.dst.kind
  let ws := qBits sf
  let wt := if f.plane = 0 then qBits df else 8
  let blk := isB sf || isMx sf || isB df || isMx df
  let fixed := fun (x : Nat) => x == 9 || x == 10 || x == 11 || x == 0x1F
  let bad := f.rsv ≠ 0 ∨ sk = 3 ∨ dk = 3 ∨ sk = 2 ∨ (sk = 0 ∧ dk = 0) ∨ fmtRefused sf ∨ fmtRefused df ∨ (16 ≤ df ∧ df ≤ 21) ∨ f.round = 3
    ∨ (9 ≤ f.auxsh ∧ f.auxsh ≤ 14) ∨ f.plane = 3 ∨ (f.plane ≠ 0 ∧ df ≠ 4 ∧ df ≠ 5)
    ∨ (sk = 0 ∧ f.src.addr.toNat ≥ 2 ^ 21) ∨ (dk = 0 ∧ f.dst.addr.toNat ≥ 2 ^ 21)
    ∨ (if f.cremote then s.coreCount ≤ f.ccore else f.ccore ≠ 0)
    ∨ (sf ≠ df ∧ (fixed sf ∨ fixed df ∨ (pairOk sf df = false ∧ (mxK sf df).isNone)))
    ∨ f.n0 * ws % 256 ≠ 0 ∨ f.n0 * wt % 256 ≠ 0 ∨ (blk ∧ f.n0 % 32 ≠ 0)
    ∨ adr f.src.addr 0 5 ≠ 0 ∨ (dk ≠ 2 ∧ adr f.dst.addr 0 5 ≠ 0)
    ∨ (f.src.sq ∧ isB sf = false) ∨ (f.dst.sq ∧ isB df = false) ∨ ((f.src.sq ∨ f.dst.sq) ∧ f.rows % 32 ≠ 0)
    ∨ (f.dst.sq ∧ ctx.l.toNat % 32 ≠ 0)
    ∨ s.sideOk f f.src (f.n0 * ws / 8) (compBytes sf f.n0) false = false
    ∨ s.sideOk f f.dst (f.n0 * wt / 8) f.dstComp true = false
  if bad then (false, s)
  else if dk = 2 then
    match f.entry s with
    | none => (false, s)
    | some e =>
      match f.bucketCount e with
      | some n => if sf = df ∧ (e.fmt ≠ 11 ∨ s.summariesOk f.src n = true) then s.handleOk f.dst.addr n df else (false, s)
      | none => (false, s)
  else (true, s)

/-- A channel of a core. -/
def State.chan (s : State) (p : Nat) (ch : Fin 4) : Channel := (s.core p).ch[ch]

/-- A channel changes. -/
def State.modChan (s : State) (p : Nat) (ch : Fin 4) (f : Channel → Channel) : State :=
  let c := s.core p
  s.setCore p { c with ch := c.ch.set ch (f c.ch[ch]) }

/-- What an access of a descriptor brings is recorded with its row (08 R251, R257). -/
def Channel.answered (c : Channel) (row : Nat) (addr : BitVec 64) (ans : Answer) : Channel :=
  match ans with
  | .wrote => c
  | .data ws => { c with fetched := c.fetched ++ ((List.range ws.length).zip ws).map fun (i, w) => (addr.toNat + 32 * i, w) }
  | .refused st => { c with refused := c.refused ++ [(row, st, addr)] }

/-- A descriptor's access goes to the router; before the coordinates are locked it is refused with BAD_STATE (10 R315). -/
def State.qAccess (s : State) (p : Nat) (ch : Fin 4) (row : Nat) (a : ErgAccess) : State :=
  if !s.ident.coordLock then s.modChan p ch fun c => c.answered row a.addr (.refused stBadState)
  else
    match s.request (.die (p / 56)) a with
    | (tag, none, s) => s.modChan p ch fun c => { c with waitingOn := c.waitingOn ++ [(tag, row)] }
    | (_, some ans, s) => s.modChan p ch fun c => c.answered row a.addr ans

/-- READs of n words from a word address on, each within a 1 KiB block (10 R294). -/
def State.qReads (s : State) (p : Nat) (ch : Fin 4) (row : Nat) (step : BitVec 32) (addr : BitVec 64) (n : Nat) : State :=
  (blocksOf (n + 1) (adr addr 5 43) 0 n).foldl (fun s (off, k) =>
    s.qAccess p ch row { ErgAccess.blank (.qanat p ch.val) (some step) 0x02 (adrAdd addr (32 * off : Nat)) with
      rlen := BitVec.ofNat 6 (k - 1) }) s

/-- The word of a byte address. -/
def wordOf (a : BitVec 64) : BitVec 64 := BitVec.ofNat 64 (a.toNat / 32 * 32)

/-- Words that n bytes from an address touch: the first, and how many. -/
def spanOf (a : BitVec 64) (n : Nat) : BitVec 64 × Nat := (wordOf a, (adr a 0 5 + n + 31) / 32)

/-- The reads of an Erg source, row by row from a row on: main words, then the companion words not read for the row before. -/
def State.qFetch (n : Nat) (s : State) (p : Nat) (ch : Fin 4) (f : QF) (step : BitVec 32) (r : Nat) (seen : Option (BitVec 64)) :
    State :=
  match n with
  | 0 => s
  | k + 1 =>
    let s := s.qReads p ch r step (f.rowAddr f.src r) (f.n0 * qBits f.src.fmt / 256)
    let c := compBytes f.src.fmt f.n0
    if c = 0 then s.qFetch k p ch f step (r + 1) none
    else
      let (a, m) := spanOf (f.src.compAddr r) c
      let last := f.src.step a (32 * (m - 1) : Nat)
      if seen = some last then s.qFetch k p ch f step (r + 1) seen
      else if seen = some a then
        (s.qReads p ch r step (f.src.step a 32) (m - 1)).qFetch k p ch f step (r + 1) (some last)
      else (s.qReads p ch r step a m).qFetch k p ch f step (r + 1) (some last)

/-- The word at a byte address among the words that reads have returned. -/
def gotAt (l : List (Nat × RWord)) (a : Nat) : RWord :=
  match l with
  | [] => { data := 0, poison := false }
  | (b, w) :: r => if b = a then w else gotAt r a

/-- Source words of a descriptor: from the scratchpad, or as the reads returned them. -/
def State.qWords (s : State) (p : Nat) (ch : Fin 4) (x : QSide) (a : BitVec 64) (n : Nat) : List RWord × State :=
  (List.range n).foldl (fun (acc : List RWord × State) i =>
    let b := x.step a (32 * i : Nat)
    if x.kind = 0 then
      let (w, c) := (acc.2.core p).readDecoupled (acc.2.coreEnv p) (b.toNat / 32)
      (acc.1 ++ [w], acc.2.onCore p fun _ _ => c)
    else (acc.1 ++ [gotAt (acc.2.chan p ch).fetched b.toNat], acc.2)) ([], s)

/-- Source bytes of a descriptor with their words' poison marks. -/
def State.qBytes (s : State) (p : Nat) (ch : Fin 4) (x : QSide) (a : BitVec 64) (n : Nat) : List (Byte × Bool) × State :=
  if n = 0 then ([], s)
  else
    let (w0, m) := spanOf a n
    let (ws, s) := s.qWords p ch x w0 m
    (((ws.flatMap fun w => (List.range 32).map fun k => (BitVec.ofNat 8 (byteOf w.data.toNat k), w.poison)).drop (adr a 0 5)).take n, s)

/-- A source row: its words, its companion bytes. -/
structure RowIn where
  words : List RWord
  comp  : List (Byte × Bool)

/-- A destination row: its words, its companion bytes where it writes them, flags, fingerprint sum and poison. -/
structure RowOut where
  words  : List RWord
  comp   : List (Byte × Bool)
  flags  : Byte
  sum    : Nat × Bool

/-- The patterns of a row's elements. -/
def rowBits (w : Nat) (ws : List RWord) (n : Nat) : List Nat :=
  let x := packBits 256 (ws.map fun v => v.data.toNat)
  (List.range n).map fun k => bitsOf x (w * k) w

/-- Whether each element of a row lies in a word with poison. -/
def rowPoison (w : Nat) (ws : List RWord) (n : Nat) : List Bool :=
  (List.range n).map fun k => (ws.getD (w * k / 256) { data := 0, poison := false }).poison

/-- A row's elements: exact value, value before an MX scale, flags of reading it, poison (02 R30 to R41, 08 R240). A poisoned B or MW40
element raises no flag here: DESIGN CHOICE (log 103), as 08 R258 does not say. -/
def RowIn.elems (f : QF) (r : RowIn) : List (FVal × FVal × Byte × Bool) :=
  let fmt := f.src.fmt
  let w := qBits fmt
  let comp := fun (i : Nat) => r.comp.getD i (0, false)
  ((List.range f.n0).zip ((rowBits w r.words f.n0).zip (rowPoison w r.words f.n0))).map fun (k, x, p) =>
    if isB fmt then
      let (v, fl) := bElem fmt x f.src.coarse.toInt (comp (k / 32)).1
      (v, v, if p then 0 else fl, p || (comp (k / 32)).2)
    else if isMx fmt then
      let v := (scalarVal fmt x 0 0).1
      let sb := (comp (k / 32)).1
      let scaled := if sb = 0xFF then FVal.nan else match v with
        | .fin n m e => .fin n m (e + (sb.toNat : Int) - 127)
        | y => y
      (scaled, v, 0, p || (comp (k / 32)).2)
    else if fmt = 12 then
      let ext := BitVec.ofNat 16 ((comp (2 * k)).1.toNat + 256 * (comp (2 * k + 1)).1.toNat)
      let (v, fl) := scalarVal 12 x 0 ext
      let q := p || (comp (2 * k)).2 || (comp (2 * k + 1)).2
      (v, v, if q then 0 else fl, q)
    else
      let (v, fl) := scalarVal fmt x 0 0
      (v, v, fl, p)

/-- Words of w-bit elements: a word with an element from a poisoned source word carries poison (08 R258). -/
def packRow (w : Nat) (xs : List (Nat × Bool)) : List RWord :=
  (chunksOf xs.length (256 / w) xs).map fun es =>
    let p := es.any (·.2)
    { data := if p then 0 else BitVec.ofNat 256 (packBits w (es.map (·.1))), poison := p }

/-- The fine scale that a companion byte gives; a reserved byte counts as 0. -/
def compFine (c : List (Byte × Bool)) (k : Nat) : Int := (fineOf (c.getD (k / 32) (0, false)).1).getD 0

/-- The ext that a companion row gives. -/
def compExt (c : List (Byte × Bool)) (k : Nat) : BitVec 16 :=
  BitVec.ofNat 16 ((c.getD (2 * k) (0, false)).1.toNat + 256 * (c.getD (2 * k + 1) (0, false)).1.toNat)

/-- Whether an element's companion, its fine scale or its ext, lies in a word with poison. -/
def compPoison (fmt : Nat) (c : List (Byte × Bool)) (k : Nat) : Bool :=
  if isB fmt then (c.getD (k / 32) (0, false)).2
  else if fmt = 12 then (c.getD (2 * k) (0, false)).2 || (c.getD (2 * k + 1) (0, false)).2 else false

/-- Fingerprint of a destination row from its words and companion bytes. An element whose word carries poison adds 0 and sets the poison bit
(14 R427); so does one whose companion word carries it (DEDUCED, log 134). -/
def rowSum (fmt w : Nat) (ctx : EvalCtx) (r : Nat) (ws : List RWord) (comp : List (Byte × Bool)) (n : Nat) : Nat × Bool :=
  if ctx.tid.extractLsb' 60 3 = 0 ∨ fmt = 0x1F then (0, false)
  else
    let ps := ((List.range n).zip (rowPoison w ws n)).map fun (k, p) => p || compPoison fmt comp k
    (((List.range n).zip ((rowBits w ws n).zip ps)).foldl (fun a (k, x, p) =>
      if p then a else fpAdd a (fpTerm (ctx.index r k).toNat (fpElem fmt x (compFine comp k) (compExt comp k)))) 0, ps.any id)

/-- The byte of a B16 code that a plane form writes (02 R35, 08 R241). -/
def planeCode (plane : Nat) (x : Int) : Int := if plane = 1 then (splitB16 x).1 else if plane = 2 then (splitB16 x).2 else x

/-- A row copied unchanged; a plane form takes one byte of each code (08 R239, R241). The fingerprint of a plane form is that of the
bytes written, at the fine scale of their block (DEDUCED, log 28). -/
def QF.copyRow (f : QF) (ctx : EvalCtx) (r : Nat) (x : RowIn) : RowOut :=
  let words := if f.plane = 0 then x.words
    else
      let ps := rowPoison 16 x.words f.n0
      packRow 8 (((rowBits 16 x.words f.n0).zip ps).map fun (b, p) => (if f.plane = 1 then b / 256 else b % 256, p))
  let w := if f.plane = 0 then qBits f.dst.fmt else 8
  { words := words, comp := x.comp.take f.dstComp, flags := 0,
    sum := rowSum f.store w ctx r words x.comp f.n0 }

/-- The random words of a row (08 R242); 0 unless `ROUND` asks for them. -/
def QF.rand (f : QF) (key : BitVec 256) (ctx : EvalCtx) (step : BitVec 32) (r k : Nat) : BitVec 32 :=
  if f.round = 2 then srWord key ctx.tid step (ctx.index r k) else 0

/-- Fine scale, codes and flags of a block of a row (08 R240): by the square's values, by the MX rule, or by the block's values.
An MX source written square-blocked takes its scale from the exact values of the square (DEDUCED, log 20). -/
def QF.block (f : QF) (square : Option (List FVal)) (scale : Byte) (es : List (FVal × FVal × BitVec 32)) : Int × List Int × Byte :=
  let fmt := f.dst.fmt
  let c := f.dst.coarse.toInt
  let vals := es.map fun (v, _, x) => (v, x)
  match square, mxK f.src.fmt fmt with
  | some ovr, _ => toBlock fmt c f.round ovr vals
  | none, some k => if isMx f.src.fmt then mxBlock fmt c k scale f.round (es.map fun (_, v, x) => (v, x))
    else toBlock fmt c f.round (vals.map (·.1)) vals
  | none, none => toBlock fmt c f.round (vals.map (·.1)) vals

/-- A converted row with a B target (08 R240, R241): `band` holds the rows of the square, where it is written square-blocked. A poisoned
word of MX scale bytes gives the scale byte 0, whose conversion raises its flags: DESIGN CHOICE (log 103), as R258 does not say. -/
def QF.toB (f : QF) (key : BitVec 256) (ctx : EvalCtx) (step : BitVec 32) (r : Nat) (x : RowIn) (band : List RowIn) : RowOut :=
  let es := x.elems f
  let bandEs := band.map fun y => y.elems f
  let nb := f.n0 / 32
  let bs := (List.range nb).map fun j =>
    let mine := ((List.range 32).zip ((es.drop (32 * j)).take 32)).map fun (k, v, u, _, _) => (v, u, f.rand key ctx step r (32 * j + k))
    let ovr := if f.dst.sq then some (bandEs.flatMap fun e => ((e.drop (32 * j)).take 32).map (·.1)) else none
    f.block ovr (x.comp.getD j (0, false)).1 mine
  let psn := es.map fun e => e.2.2.2
  let codes := bs.flatMap fun b => b.2.1
  let w := if f.plane = 0 then fmtBits f.dst.fmt else 8
  let words := packRow w ((codes.map fun q => (planeCode f.plane q % 2 ^ w).toNat).zip psn)
  let compPsn := fun (j : Nat) => if f.dst.sq then bandEs.any fun e => ((e.drop (32 * j)).take 32).any fun y => y.2.2.2
    else ((psn.drop (32 * j)).take 32).any id
  let comp := ((List.range nb).zip bs).map fun (j, b) => (fineByte b.1, compPsn j)
  { words := words, comp := if f.plane = 2 then [] else comp,
    flags := orFlags (es.map fun e => e.2.2.1) ||| orFlags (bs.map fun b => b.2.2),
    sum := rowSum f.store w ctx r words comp f.n0 }

/-- A converted row with a scalar target (08 R239, R242). -/
def QF.toScalar (f : QF) (key : BitVec 256) (ctx : EvalCtx) (step : BitVec 32) (r : Nat) (x : RowIn) : RowOut :=
  let es := x.elems f
  let rs := ((List.range f.n0).zip es).map fun (k, v, _, _, _) => scalarTo f.dst.fmt f.round (f.rand key ctx step r k) 0 v
  let psn := es.map fun e => e.2.2.2
  let w := fmtBits f.dst.fmt
  let words := packRow w ((rs.map (·.1)).zip psn)
  let comp := if f.dst.fmt = 12 then (rs.zip psn).flatMap fun (y, p) =>
      [(y.2.1.extractLsb' 0 8, p), (y.2.1.extractLsb' 8 8, p)] else []
  { words := words, comp := comp,
    flags := orFlags (es.map fun e => e.2.2.1) ||| orFlags ((rs.zip psn).map fun (y, p) => if p then 0 else y.2.2),
    sum := rowSum f.dst.fmt w ctx r words comp f.n0 }

/-- A destination row from its source row and its band (08 R239 to R243, R258). -/
def QF.outRow (f : QF) (key : BitVec 256) (ctx : EvalCtx) (step : BitVec 32) (r : Nat) (x : RowIn) (band : List RowIn) : RowOut :=
  if !f.converts then f.copyRow ctx r x
  else if isB f.dst.fmt then f.toB key ctx step r x band
  else f.toScalar key ctx step r x

/-- The source row r. -/
def State.qRow (s : State) (p : Nat) (ch : Fin 4) (f : QF) (r : Nat) : RowIn × State :=
  let (ws, s) := s.qWords p ch f.src (f.rowAddr f.src r) (f.n0 * qBits f.src.fmt / 256)
  let (bs, s) := s.qBytes p ch f.src (f.src.compAddr r) (compBytes f.src.fmt f.n0)
  ({ words := ws, comp := bs }, s)

/-- Word writes of bytes with poison marks from an address on: a word with a marked byte takes the poison code word whole (08 R247,
R258). -/
def markedWrites (a : Nat) (bs : List (Byte × Bool)) : List WriteReq :=
  let ws := byteWrites a (bs.map (·.1)) false
  ((List.range ws.length).zip ws).map fun (k, q) =>
    let lo := 32 * k - a % 32
    { q with poison := ((bs.drop lo).take (32 * (k + 1) - a % 32 - lo)).any (·.2) }

/-- Writes of a row on the destination: word writes from a word address on, each with its bytes. -/
def State.qWrite (s : State) (p : Nat) (ch : Fin 4) (row : Nat) (step : BitVec 32) (x : QSide) (a : BitVec 64)
    (qs : List WriteReq) : State :=
  let n := (qs.filter (·.poison)).length
  let s := s.modChan p ch fun c => { c with poisonWords := satAdd c.poisonWords n }
  if x.kind = 0 then
    ((List.range qs.length).zip qs).foldl (fun s (i, q) =>
      s.onCore p fun _ c => c.commit { q with word := (x.step a (32 * i : Nat)).toNat / 32 } true) s
  else
    (blocksOf (qs.length + 1) (adr a 5 43) 0 qs.length).foldl (fun s (off, k) =>
      let mine := (qs.drop off).take k
      let lowest := fun (m : BitVec 32) => ((List.range 32).find? fun i => m.getLsbD i).getD 0
      let highest := fun (m : BitVec 32) => ((List.range 32).reverse.find? fun i => m.getLsbD i).getD 31
      s.qAccess p ch row { ErgAccess.blank (.qanat p ch.val) (some step) 0x01 (adrAdd a (32 * off : Nat)) with
        fbyte := BitVec.ofNat 5 (lowest ((mine.head?.map (·.mask)).getD 0)),
        lbyte := BitVec.ofNat 5 (highest ((mine.getLast?.map (·.mask)).getD 0)),
        payload := mine.map fun q => if q.poison then poisonWord else encodeWord q.data }) s

/-- A row goes to the destination: its words, and its companion bytes with its first row of a band (08 R236, R246, R247). -/
def State.qPut (s : State) (p : Nat) (ch : Fin 4) (f : QF) (step : BitVec 32) (r : Nat) (o : RowOut) : State :=
  let s := s.modChan p ch fun c =>
    { c with flags := c.flags ||| o.flags, headFlags := c.headFlags ||| o.flags, sums := c.sums ++ [(r, o.sum.1, o.sum.2)] }
  let full := o.words.map fun w => { word := 0, data := w.data, mask := 0xFFFFFFFF, poison := w.poison : WriteReq }
  let s := s.qWrite p ch r step f.dst (f.rowAddr f.dst r) full
  if o.comp.isEmpty ∨ (f.dst.sq ∧ r % 32 ≠ 0) then s
  else
    let a := f.dst.compAddr r
    s.qWrite p ch r step f.dst (wordOf a) (markedWrites (adr a 0 5) o.comp)

/-- n rows are moved from a row on; the rows of a band are read before the first of them is written (08 R239, R240). -/
def State.qMove (n : Nat) (s : State) (p : Nat) (ch : Fin 4) (f : QF) (d : QDesc) (r : Nat) (band : List RowIn) : State :=
  match n with
  | 0 => s
  | k + 1 =>
    let key := s.job.key
    if f.converts ∧ f.dst.sq then
      let (band, s) := if r % 32 = 0 then
          (List.range 32).foldl (fun (x : List RowIn × State) i =>
            let (y, s) := x.2.qRow p ch f (r + i)
            (x.1 ++ [y], s)) ([], s)
        else (band, s)
      let x := band.getD (r % 32) { words := [], comp := [] }
      (s.qPut p ch f d.step r (f.outRow key d.ctx d.step r x band)).qMove k p ch f d (r + 1) band
    else
      let (x, s) := s.qRow p ch f r
      (s.qPut p ch f d.step r (f.outRow key d.ctx d.step r x [])).qMove k p ch f d (r + 1) []

/-- The rows from the saved position up to `upto` go to the exchange port: their words, with those of the unfinished bucket before
them, and their fingerprint sums. Poisoned ones are counted, and cross to the I/O die (08 R251, R258, 09 R265). -/
def State.qExport (s : State) (p : Nat) (ch : Fin 4) (f : QF) (d : QDesc) (upto : Nat) : State :=
  ((List.range upto).drop (s.chan p ch).moved).foldl (fun (s : State) r =>
    let (y, s) := s.qRow p ch f r
    let new := y.words.map codeOfWord
    let sm := (f.copyRow d.ctx r y).sum
    (s.crossOut (.die (p / 56)) new).modChan p ch fun c =>
      { c with held := c.held ++ new, sums := c.sums ++ [(r, sm.1, sm.2)],
               poisonWords := satAdd c.poisonWords (new.filter (· == poisonWord)).length }) s

/-- The buckets whose elements all lie before row `upto` are contributed, oldest first (11 R322). A list entry outside its bucket refuses
the descriptor (R344). -/
def State.qContribute (s : State) (p : Nat) (ch : Fin 4) (f : QF) (d : QDesc) (upto : Nat) : State :=
  match f.entry s, (f.entry s).bind f.bucketCount with
  | some e, some n =>
    let total := f.n0 * f.rows
    let per := total / n
    let nw := e.entryWords total
    let b0 := adr f.dst.addr 16 16
    let s := s.qExport p ch f d upto
    ((List.range n).drop (s.chan p ch).buckets).foldl (fun s i =>
      let ws := (s.chan p ch).held
      if ws.length < nw then s
      else
        let mine := ws.take nw
        if e.kind = 1 ∧ listOk (b0 + i) (rwords mine) = false then
          s.modChan p ch fun c => c.answered (per * i / f.n0) 0 (.refused stBadParam)
        else
          let (sm, s) := if e.fmt = 11 then
              let (bs, s) := s.qBytes p ch f.src (f.src.step f.src.compBase (i * f.src.pitch : Nat)) 32
              let x : RWord := { data := BitVec.ofNat 256 (leNat (bs.map (·.1))), poison := bs.any (·.2) }
              let s := if x.poison then s.modChan p ch fun c => { c with poisonWords := satAdd c.poisonWords 1 } else s
              (some (codeOfWord x), s.crossOut (.die (p / 56)) [codeOfWord x])
            else (none, s)
          let tag := s.erg.nextTag
          let c : Contrib :=
            { id := { cid := f.dst.addr.extractLsb' 0 16, bucket := BitVec.ofNat 16 (b0 + i), step := d.step },
              words := mine, summary := sm, epoch := s.job.epochFor d.step, issuer := .qanat p ch.val, tag := tag }
          let s := { s with erg := { s.erg with nextTag := tag + 1 }, coll := { s.coll with contribs := s.coll.contribs ++ [c] } }
          s.modChan p ch fun x =>
            { x with buckets := i + 1, held := x.held.drop nw, waitingOn := x.waitingOn ++ [(tag, per * i / f.n0)] }) s
  | _, _ => s

/-- The core's fingerprint taps of the rows before a row; raw bytes are not fingerprinted (14 R427, R428). -/
def State.qTap (s : State) (p : Nat) (ch : Fin 4) (d : QDesc) (upto : Nat) : State :=
  let c := s.chan p ch
  let mine := c.sums.filter fun x => x.1 < upto
  let s := s.modChan p ch fun c => { c with sums := [] }
  if mine.isEmpty ∨ d.ctx.tid.extractLsb' 60 3 = 0 ∨ d.fields.dst.fmt = 0x1F then s
  else s.tap { tid := d.ctx.tid, step := d.step, sum := mine.foldl (fun a x => fpAdd a x.2.1) 0, poison := mine.any fun x => x.2.2 }

/-- The position that a refusal at a row saves: its row, or the first row of its band (08 R251). -/
def QF.position (f : QF) (row : Nat) : Nat := if f.src.sq || f.dst.sq then row / 32 * 32 else row

/-- The refusal that decides: the one at the lowest row, the oldest of those (08 R251, R257; which of several decides is DEDUCED,
log 22). -/
def lowestRefusal (l : List (Nat × BitVec 16 × BitVec 64)) : Option (Nat × BitVec 16 × BitVec 64) :=
  l.foldl (fun acc x => match acc with
    | none => some x
    | some y => if x.1 < y.1 then some x else some y) none

/-- Flags of a descriptor's head go to the stream that pushed it and to its step's report: at its end, not at a pause (08 R243). -/
def State.qFlags (s : State) (p : Nat) (d : QDesc) (fl : Byte) : State :=
  let s := s.modStep d.step fun x => { x with flags := x.flags ||| fl }
  if fl = 0 then s else s.setCore p ((s.core p).flag d.stream fl)

/-- A channel enters Paged or Fault, with its report (08 R243, R251 to R253, R257). -/
def State.qStop (s : State) (p : Nat) (ch : Fin 4) (f : QF) (d : QDesc) (row : Nat) (st : BitVec 16) (addr : BitVec 64) : State :=
  let pos := f.position row
  let paged : Bool := st == stNotResident
  let page : BitVec 64 := BitVec.ofNat 64 (2 ^ 21 * (addr.toNat / 2 ^ 21))
  let s := s.qTap p ch d pos
  let fl := (s.chan p ch).headFlags
  let c := s.core p
  let s := s.setCore p (if paged && !c.anyPaged then { c with pagedFrom := c.cycle } else c)
  let s := s.modChan p ch fun c =>
    { c with
      state := if paged then .paged else .fault, phase := .waiting, lastStatus := st,
      posI1 := BitVec.ofNat 12 (pos % f.n1), posI2 := BitVec.ofNat 12 (pos / f.n1 % f.n2),
      posI3 := BitVec.ofNat 12 (pos / f.n1 / f.n2), page := if paged then page else c.page,
      moved := pos, waitingOn := [], fetched := [], refused := [], headFlags := if paged then fl else 0 }
  let s := if paged then s else s.qFlags p d fl
  let det := s.logOf p + 2 ^ 8 * ch.val
  s.reportLaunch d.launch (if paged then 2 else 3) st (if paged then det + 2 ^ 64 * page.toNat else det)

/-- The rows of a head before `upto` that have not been moved are moved or contributed, their writes no earlier than the fifth cycle
after the QPUSH (08 R244). -/
def State.qGo (s : State) (p : Nat) (ch : Fin 4) (f : QF) (d : QDesc) (upto : Nat) : State :=
  let s := (s.modChan p ch fun c => { c with phase := .writing }).onCore p fun env c => c.advanceTo env d.earliest
  if f.dst.kind = 2 then s.qContribute p ch f d upto
  else s.qMove (upto - (s.chan p ch).moved) p ch f d (s.chan p ch).moved []

/-- Once no access of a head can be refused any more, its read-done token is posted. A descriptor that pauses or faults posts no token,
and a restart reads its source again: the token of a head whose writes are still out waits for their answers (08 R245, R251, R255, R257;
DEDUCED, log 117). -/
def State.qReadToken (s : State) (p : Nat) (ch : Fin 4) (d : QDesc) : State :=
  let c := s.chan p ch
  let f := d.fields
  if c.state = .active ∧ c.phase = .writing ∧ c.waitingOn.isEmpty ∧ c.refused.isEmpty ∧ f.rtokEn then s.post (s.logOf p) f.rtok 1 else s

/-- With every answer in, a refused head moves what lies before the position and stops; one whose writes have all been answered posts
its read-done token (08 R245, R251, R257). -/
def State.qSettle (s : State) (p : Nat) (ch : Fin 4) : State :=
  let c := s.chan p ch
  match c.queue, lowestRefusal c.refused with
  | d :: _, some (row, st, addr) =>
    if c.state ≠ .active ∨ !c.waitingOn.isEmpty then s
    else
      let f := d.fields
      match c.phase with
      | .waiting => s
      | .writing => s.qStop p ch f d row st addr
      | .reading =>
        let pos := f.position row
        let s := s.qGo p ch f d pos
        let c := s.chan p ch
        match lowestRefusal c.refused with
        | some (row, st, addr) => if c.waitingOn.isEmpty then s.qStop p ch f d row st addr else s
        | none => s
  | d :: _, none => s.qReadToken p ch d
  | _, _ => s

/-- The cycle in which the next descriptor on its way to a channel enters its queue (06 R178): four cycles after its QPUSH. -/
def Core.qDue (c : Core) (ch : Fin 4) : Option Nat :=
  match c.qEntries.find? fun e => e.ch.toNat == ch.val with
  | some e => some e.due
  | none =>
    (c.accesses.find? fun a => match a.act with
      | .qpush k .. => k.toNat == ch.val
      | _ => false).map fun a => a.cycle + 4

/-- A pushed descriptor that is still on its way reaches its queue (06 R178). -/
def State.qArrive (s : State) (p : Nat) (ch : Fin 4) : State :=
  let c := s.core p
  match c.qDue ch with
  | some t => if c.ch[ch].queue.isEmpty then s.onCore p fun env c => c.advanceTo env t else s
  | none => s

/-- The descriptor at the head of a channel's queue starts (08 R231, R238, R257, 09 R278): it is checked, and the reads of an Erg
source go out. -/
def State.qStart (s : State) (p : Nat) (ch : Fin 4) : State :=
  let s := s.qArrive p ch
  let c := s.chan p ch
  match c.queue with
  | [] => s
  | d :: _ =>
    if c.state ≠ .active ∨ c.phase ≠ .waiting then s
    else
      let f := d.fields
      if d.poisoned then s.qStop p ch f d 0 stPoison 0
      else
        match s.descOk f d.ctx with
        | (false, s) => s.qStop p ch f d 0 stBadParam 0
        | (true, s) =>
          let s := s.modChan p ch fun c => { c with phase := .reading, sums := [] }
          if f.src.kind = 0 then s
          else
            let s := s.qFetch (f.rows - c.moved) p ch f d.step c.moved none
            let s := match f.entry s, (f.entry s).bind f.bucketCount with
              | some e, some n =>
                if f.dst.kind = 2 ∧ e.fmt = 11 then
                  ((List.range n).drop c.buckets).foldl (fun (s : State) i =>
                    let (a, m) := spanOf (f.src.step f.src.compBase (i * f.src.pitch : Nat)) 32
                    s.qReads p ch (bucketSize * i / f.n0) d.step a m) s
                else s
              | _, _ => s
            s.qSettle p ch

/-- Every source read of the head has returned: its rows are written or contributed, and its read-done token is posted (08 R244, R245). -/
def State.qReadDone (s : State) (p : Nat) (ch : Fin 4) : State :=
  let c := s.chan p ch
  match c.queue with
  | [] => s
  | d :: _ =>
    if c.state ≠ .active ∨ c.phase ≠ .reading ∨ !c.waitingOn.isEmpty ∨ !c.refused.isEmpty then s
    else
      let f := d.fields
      (s.qGo p ch f d f.rows).qSettle p ch

/-- The head leaves its queue; the next one, if any, waits for its start. -/
def Channel.pop (c : Channel) : Channel :=
  { c with queue := c.queue.drop 1, state := if c.queue.length ≤ 1 then .idle else .active, phase := .waiting, moved := 0,
           headFlags := 0, waitingOn := [], fetched := [], refused := [], sums := [], buckets := 0, held := [] }

/-- The head's last write has taken effect: its completion token is posted, it leaves its queue, its flags go to the stream
(08 R229, R243, R245). -/
def State.qRetire (s : State) (p : Nat) (ch : Fin 4) : State :=
  let c := s.chan p ch
  match c.queue with
  | [] => s
  | d :: _ =>
    if c.state ≠ .active ∨ c.phase ≠ .writing ∨ !c.waitingOn.isEmpty ∨ !c.refused.isEmpty then s
    else
      let f := d.fields
      let s := if f.ctokEn then s.post (if f.cremote then f.ccore else s.logOf p) f.ctok 1 else s
      let s := s.qTap p ch d f.rows
      let fl := c.headFlags
      (s.modChan p ch fun c => { c.pop with retired := c.retired + 1 }).qFlags p d fl

/-- An access of a channel's head has been answered. Answers to accesses that the head no longer waits for are dropped. -/
def State.qAnswered (s : State) (p : Nat) (ch : Fin 4) (a : ErgAccess) (ans : Answer) : State :=
  match (s.chan p ch).waitingOn.find? fun w => w.1 == a.tag with
  | none => s
  | some (_, row) =>
    (s.modChan p ch fun c => { (c.answered row a.addr ans) with waitingOn := c.waitingOn.filter fun w => w.1 != a.tag }).qSettle p ch

/-- Where a channel of the core was Paged and none is any more, the progress watchdogs of its streams begin to count again: the time
paused does not count, nor that part of it in which a stream has waited (08 R253). -/
def Core.resumeWatch (c before : Core) : Core :=
  if !before.anyPaged || c.anyPaged then c
  else
    let go := fun (st : Stream) =>
      if st.state = .waiting then { st with waitFrom := st.waitFrom + (c.cycle - max c.pagedFrom st.waitFrom) } else st
    { c with f := go c.f, b := go c.b, u := go c.u }

/-- The flags that a channel's head has raised so far go to its stream and its step's report, for a head that is discarded (02 R55, 08 R243,
13 R399). -/
def State.qFlagsHead (s : State) (p : Nat) (ch : Fin 4) : State :=
  match (s.chan p ch).queue with
  | d :: _ => s.qFlags p d (s.chan p ch).headFlags
  | [] => s

/-- The flags of the heads of a core's channels, where `gone` holds of the head. -/
def State.qFlagsHeads (s : State) (p : Nat) (gone : QDesc → Bool) : State :=
  (List.finRange 4).foldl (fun (s : State) ch => if (s.chan p ch).queue.head?.any gone then s.qFlagsHead p ch else s) s

/-- STREAM_RESUME acts on a channel: its status (08 R254, R255, R257). Flags of a head that it discards are not lost (R243). -/
def State.qResume (s : State) (p : Nat) (ch : Fin 4) (mode : Nat) : BitVec 16 × State :=
  let c := s.chan p ch
  let was : Bool := c.state == .paged
  let s' := if mode = 0 then s.modChan p ch fun c => { c with state := .active, phase := .waiting }
    else if mode = 1 then (s.qFlagsHead p ch).modChan p ch Channel.pop
    else (s.qFlagsHead p ch).modChan p ch fun c => { c.pop with queue := [], state := .idle }
  if mode = 3 then (stBadParam, s)
  else if was ∨ (mode ≠ 0 ∧ c.state = .fault) then
    (stOk, s'.setCore p ((s'.core p).resumeWatch (s.core p)))
  else (stBadState, s)

/-- Descriptors of a channel are discarded without tokens: all, or those of a step and later ones (08 R259, 13 R407). -/
def Channel.discard (c : Channel) (from_ : Option (BitVec 32)) : Channel :=
  let keep := fun (d : QDesc) => match from_ with
    | none => false
    | some x => decide (d.step.toNat < x.toNat)
  let q := c.queue.filter keep
  match c.queue with
  | [] => c
  | d :: _ =>
    if keep d then { c with queue := q }
    else { c.pop with queue := q, state := if q.isEmpty then .idle else .active }

/-- A core's channels and the descriptors on their way discard (08 R253, R259). -/
def Core.qDiscard (c : Core) (from_ : Option (BitVec 32)) : Core :=
  ({ c with
    ch := c.ch.map fun x => x.discard from_,
    qEntries := c.qEntries.filter fun e => match from_ with
      | none => false
      | some x => decide (e.desc.step.toNat < x.toNat) } : Core).resumeWatch c

end Sys2Proof.Machine
end

