-- ==== Sys2Proof/Machine/Commands.lean ====
section
/-! DEFINITION. Command packets: start, checks, accesses, replies, timeouts (12 R363 to R379, 13 R392, R399). -/

namespace Sys2Proof.Machine

/-- A field of a packet, by packet bit (12 R366). -/
def Cmd.field (c : Cmd) (lo n : Nat) : Nat := bitsOf c.raw.toNat lo n

/-- A field of `PARAM`: bit b is packet bit 128 + b (12 R366). -/
def Cmd.par (c : Cmd) (lo n : Nat) : Nat := bitsOf c.raw.toNat (128 + lo) n

/-- Opcode, sequence number, generation of a packet (12 R366). -/
def Cmd.opc (c : Cmd) : Nat := c.field 0 16
/-- `SEQ`. -/
def Cmd.seq (c : Cmd) : BitVec 32 := BitVec.ofNat 32 (c.field 32 32)
/-- `GEN`. -/
def Cmd.gen (c : Cmd) : Nat := c.field 88 8
/-- `FENCE`. -/
def Cmd.fence (c : Cmd) : Bool := c.field 17 1 == 1

/-- Opcodes of the table of 12 R371. -/
def opcListed (x : Nat) : Bool :=
  x == 0x0001 || x == 0x0010 || (0x0100 ≤ x && x ≤ 0x0104) || (0x0200 ≤ x && x ≤ 0x0203) || (0x0300 ≤ x && x ≤ 0x0302)
    || (0x0400 ≤ x && x ≤ 0x0408) || (0x0500 ≤ x && x ≤ 0x0505) || (0x0600 ≤ x && x ≤ 0x0602)

/-- Whether the data path runs an opcode (12 R363). -/
def isDataPath (x : Nat) : Bool := 0x0100 ≤ x && x < 0x0400

/-- Stepped work commands: LAUNCH and EXCHANGE (13 R397). -/
def isStepped (x : Nat) : Bool := x == 0x0201 || x == 0x0301

/-- A field of a number set to 0. -/
def clearField (x lo n : Nat) : Nat := x - bitsOf x lo n * 2 ^ lo

/-- Whether a reserved bit of a packet is set: header bits [31:18] and [127:96], and the bits of `PARAM` outside the fields (12 R366,
R375). -/
def Cmd.rsvBad (c : Cmd) (fields : List (Nat × Nat)) : Bool :=
  c.field 18 14 != 0 || c.field 96 32 != 0
    || fields.foldl (fun x f => clearField x f.1 f.2) (c.raw.toNat / 2 ^ 128) != 0

/-- The first failure of a list of checks, in order (12 R374). -/
def firstFail (l : List (Bool × BitVec 16)) : Option (BitVec 16) := (l.find? (·.1)).map (·.2)

/-- Check 4: the generation (12 R370, R374). -/
def State.genCheck (s : State) (c : Cmd) : List (Bool × BitVec 16) :=
  [(!s.ident.jobOpen, stBadState), (decide (c.gen ≠ s.ident.generation.toNat), stGenStale)]

/-- Check 8 as far as it does not depend on the command's own state: a command refused at its fetch, `STATE` (12 R365), and what a mailbox
may carry (13 R392), whose data-path commands do not run while a job closes (DESIGN CHOICE, log 106); the list of what the RMC may run is
that of mailboxes 0 to 5, since Notar takes FW_UPDATE from it through 6 and 7 (16 R479). -/
def State.stateCheck (s : State) (c : Cmd) : Bool × BitVec 16 :=
  let st := s.ident.state
  let x := c.opc
  let few : Bool := decide (x < 0x100) || (0x0600 ≤ x && x < 0x0700)
  match c.src with
  | .queue _ => (c.refused || (st == 0xF && !few), stBadState)
  | .mailbox m =>
    ((0x0200 ≤ x && x < 0x0400) || ((st == 0x0 || st == 0x1 || st == 0x5 || st == 0xF) && !few)
      || (st == 0x4 && isDataPath x)
      || (decide (m.val < 6) && c.sender == 0x003 && !(x == 0x0001 || x == 0x0010 || x == 0x0504 || x == 0x0505 || x == 0x0602)), stBadState)

/-- A command in hand. -/
def State.cmdOf (s : State) (id : Nat) : Option Cmd := s.host.cmds.find? fun c => c.id == id

/-- A command changes. -/
def State.modCmd (s : State) (id : Nat) (f : Cmd → Cmd) : State :=
  { s with host := { s.host with cmds := s.host.cmds.map fun c => if c.id = id then f c else c } }

/-- Commands of a queue started and not completed: `INFLIGHT` (12 R361, R365). -/
def State.inFlight (s : State) (q : Fin 8) : Nat := (s.host.cmds.filter fun c => c.src == .queue q && c.started && !c.replied).length

/-- A queue whose `ENABLE` has been cleared becomes Disabled when `INFLIGHT` is 0 (12 R361). -/
def State.settleQueues (s : State) : State :=
  (List.finRange 8).foldl (fun (s : State) q =>
    let x := s.queue q
    if !x.enable && x.state != .disabled && s.inFlight q == 0 then s.modQueue q fun x => { x with state := .disabled } else s) s

/-- A command is no longer in hand (12 R361). -/
def State.dropCmd (s : State) (id : Nat) : State :=
  ({ s with host := { s.host with cmds := s.host.cmds.filter fun c => c.id != id } } : State).settleQueues

/-- T of a command (12 R377). -/
def State.timeLimit (s : State) (c : Cmd) : Nat :=
  c.field 64 24 * s.host.margin.toNat / 16 + max s.host.floor_.toNat 100

/-- The outcome of a command counts for the report of its step (13 R399). -/
def State.cmdOutcome (s : State) (c : Cmd) (status : BitVec 16) : State :=
  match c.step with
  | none => s
  | some step =>
    if status = stOk ∨ status = stAccepted ∨ status = stInexact then s
    else s.modStep step fun x =>
      if status = stTimeout then { x with timeout := true }
      else if status = stHung ∧ c.opc = 0x0201 then { x with hung := true }
      else { x with other := true }

/-- A completion entry is put where the command came from: its queue's ring, or `DATA` 0 to 7 of its mailbox with the status as `CODE`
(12 R367, 13 R392). `PHASE` is 0 in a mailbox (DESIGN CHOICE, log 30). A reply
to a message that is no longer Sent is ignored (12 R381). -/
def State.replyTo (s : State) (c : Cmd) (entry : BitVec 256) (status : BitVec 16) : State :=
  match c.src with
  | .queue q => s.postEntry q entry (c.field 16 1 == 1)
  | .mailbox m =>
    if c.orphan ∨ (s.mailbox m).state ≠ .sent then s.modMail m fun x => { x with refused := true }
    else
      let s := s.modMail m fun x =>
        { x with data := (List.finRange 8).foldl (fun (d : Vector Reg 16) i =>
            d.set i.val (entry.extractLsb' (32 * i.val) 32)) x.data }
      s.ackMail m status

/-- A command ends: its reply is written, or, where that has been written before, its end is discarded and counted (12 R367, R379).
`ELAPSED` is a free value of at most T. -/
def State.endOne (s : State) (c : Cmd) (status : BitVec 16) (flags : Byte) (detail : Nat) : State :=
  if c.replied then
    ({ s with host := { s.host with late := satInc s.host.late } } : State).dropCmd c.id
  else
    let (t, s) := s.draw 5
    let s := s.cmdOutcome c status
    let e := cplEntry status (BitVec.ofNat 16 c.opc) c.seq 0 flags (t % (c.limit + 1)) detail
    (s.replyTo c e status).dropCmd c.id

/-- Whether checks 1 and 2 refuse a packet: it was read with poison, or its opcode is not listed (12 R374). -/
def Cmd.bad (c : Cmd) : Bool := c.poison || !opcListed c.opc

/-- Whether Notar itself runs a command: it came through mailbox 6 or 7 (16 R479). -/
def Cmd.byNotar (c : Cmd) : Bool :=
  match c.src with
  | .queue _ => false
  | .mailbox m => decide (6 ≤ m.val)

/-- Whether the management processor runs a command (12 R363, R371). -/
def Cmd.mgmt (c : Cmd) : Bool := !c.bad && !c.byNotar && !isDataPath c.opc

/-- Whether the management processor runs: its firmware has passed, and it is not restarting (16 R477, R480). -/
def State.mgmtUp (s : State) : Bool := s.notar.fwRuns && s.power.i3cOn

/-- Whether a command may start: it is not fenced, or every earlier command of its source has completed (12 R363). -/
def HostIf.unfenced (h : HostIf) (c : Cmd) : Bool :=
  !c.fence || !(h.cmds.any fun d => d.id < c.id && d.src == c.src && !d.replied)

/-- The first command of a source that has been fetched and has not started. -/
def HostIf.firstOf (h : HostIf) (src : CmdSrc) : Option Cmd := h.cmds.find? fun c => c.src == src && !c.started

/-- The sources of commands. -/
def allSources : List CmdSrc := (List.finRange 8).map CmdSrc.queue ++ (List.finRange 16).map CmdSrc.mailbox

/-- Packets that checks 1 and 2 refuse are completed in their order of start (12 R363, R374): at most n of them. -/
def State.flushBad (n : Nat) (s : State) : State :=
  match n with
  | 0 => s
  | k + 1 =>
    match (allSources.filterMap s.host.firstOf).find? fun c => c.bad && s.host.unfenced c with
    | none => s
    | some c => (s.endOne c (if c.poison then stPoison else stBadOpcode) 0 0).flushBad k

/-- A command ends, and packets that only waited for it to be refused are refused. -/
def State.endCmd (s : State) (c : Cmd) (status : BitVec 16) (flags : Byte) (detail : Nat) : State :=
  (s.endOne c status flags detail).flushBad s.host.cmds.length

/-- The next command of a source, if it can start: the first fetched and not started, unfenced; a management command only when no
other one runs and none was fetched before it (12 R363), and so for those of Notar (16 R479). A ROUTE_SWAP or a LINK_PATTERN does not wait for
the one that runs, since it is answered with BUSY (10 R304, 14 R442). -/
def State.nextCmd (s : State) (src : CmdSrc) : Option Cmd :=
  match s.host.firstOf src with
  | none => none
  | some c =>
    let busy := (c.opc == 0x0408 && s.erg.swapPending) || (c.opc == 0x0503 && s.silent.lpState == 1)
    if c.bad || !s.host.unfenced c then none
    else if c.byNotar then (if s.host.cmds.any fun d => d.byNotar && (d.started || d.id < c.id) then none else some c)
    else if isDataPath c.opc then some c
    else if !s.mgmtUp || s.host.cmds.any fun d => d.mgmt && !(busy && d.started && d.opc == c.opc) && (d.started || d.id < c.id) then none
    else some c

/-- The next command of a source starts, if it is the one that the row names; its meaning acts, or its checks end it (12 R363, R374,
R377). -/
def State.startCmd (s : State) (src : CmdSrc) (want : Cmd → Bool) (checks : State → Cmd → List (Bool × BitVec 16))
    (body : State → Cmd → State) : State :=
  match s.nextCmd src with
  | none => s
  | some c =>
    if !want c then s
    else
      let c := { c with started := true, limit := s.timeLimit c }
      let s := s.modCmd c.id fun _ => c
      match firstFail (checks s c) with
      | some st => s.endCmd c st 0 0
      | none => (body s c).flushBad s.host.cmds.length

/-- A row runs this opcode. -/
def wants (opc : Nat) (c : Cmd) : Bool := c.opc == opc

/-- A command goes on waiting with its own state changed. -/
def State.keepCmd (s : State) (c : Cmd) : State := s.modCmd c.id fun _ => c

/-- An access of a command: what it answers at once is kept, or it is waited for. -/
def State.cmdAccess (s : State) (id index : Nat) (a : ErgAccess) : State :=
  match s.request .io { a with issuer := .command id } with
  | (tag, none, s) => s.modCmd id fun c => { c with waits := c.waits ++ [{ tag := tag, index := index }] }
  | (_, some (.data ws), s) => s.modCmd id fun c =>
      { c with got := c.got ++ ((List.range ws.length).zip ws).map fun (i, w) => (index + i, w) }
  | (_, some (.refused st), s) => s.modCmd id fun c => { c with failed := if c.failed = 0 then st else c.failed }
  | (_, some .wrote, s) => s

/-- The step whose epoch a command's packets take: that of stepped work (13 R397, R402). -/
def Cmd.work (c : Cmd) : Option (BitVec 32) := if isStepped c.opc then c.step else none

/-- A command reads n words from an address on, kept from an index on. -/
def State.cmdRead (s : State) (c : Cmd) (index : Nat) (addr : BitVec 64) (n : Nat) : State :=
  (blocksOf (n + 1) (adr addr 5 43) 0 n).foldl (fun s (off, k) =>
    s.cmdAccess c.id (index + off) { ErgAccess.blank (.command c.id) c.work 0x02 (adrAdd addr (32 * off : Nat)) with
      rlen := BitVec.ofNat 6 (k - 1) }) s

/-- A command writes words from an address on. -/
def State.cmdWrite (s : State) (c : Cmd) (addr : BitVec 64) (ws : List CodeWord) : State :=
  (blocksOf (ws.length + 1) (adr addr 5 43) 0 ws.length).foldl (fun s (off, k) =>
    s.cmdAccess c.id 0 { ErgAccess.blank (.command c.id) c.work 0x01 (adrAdd addr (32 * off : Nat)) with
      payload := (ws.drop off).take k }) s

/-- Word i of what a command has read. -/
def Cmd.word (c : Cmd) (i : Nat) : RWord := gotAt c.got i

/-- Logical cores that a 224-bit mask names. -/
def maskCores (m : Nat) : List Nat := (List.range 224).filter fun i => m.testBit i

/-- Check 5 for a mask of logical cores (12 R374). -/
def State.maskBad (s : State) (m : Nat) : Bool × BitVec 16 := (decide (2 ^ s.coreCount ≤ m), stNoSuchEngine)

/-- Physical cores that a mask of logical cores names. -/
def State.physCores (s : State) (m : Nat) : List Nat := (maskCores m).filterMap s.physOf

/-- Streams that a stream mask names. -/
def maskStreams (m : Nat) : List StreamId := [StreamId.f, .b, .u].filter fun k => m.testBit (streamNo k)

/-- Whether an address is module-physical with n bytes inside its region, by this module's sizes or the largest of any grade (01 R20,
08 R238); `write` excludes region 0x9. -/
def State.physOk (s : State) (a : BitVec 64) (n : Nat) (write : Bool) : Bool :=
  adr a 60 4 == 0 && s.extentOk a 0 ((n : Int) - 1) write

end Sys2Proof.Machine
end

