-- ==== Sys2Proof/Machine/Cairn.lean ====
section
/-! DEFINITION. Cairn: the queue, records, the chain, seals, suppression, readout (16 R486 to R494). -/

namespace Sys2Proof.Machine

/-- A number as n bytes, most significant first. -/
def beBytes (n x : Nat) : List Byte := (leBytes n x).reverse

/-- A number from bytes, most significant first. -/
def ofBe (l : List Byte) : Nat := l.foldl (fun a b => 256 * a + b.toNat) 0

/-- The order of the records' slots (16 R486). -/
def slotOf (n : Nat) : Nat := if n < 4096 then n else 4096 + (n - 4096) % 258048

/-- The oldest retained ring serial; 4,096 before the ring holds a record (16 R494). -/
def Cairn.oldest (k : Cairn) : Nat := max 4096 (k.next.toNat - 258048)

/-- Whether a record has been written and is retained (16 R486, R493). -/
def Cairn.retained (k : Cairn) (n : Nat) : Bool := decide (n < k.next.toNat) && (decide (n < 4096) || decide (k.oldest ≤ n))

/-- A retained record (16 R486). -/
def Cairn.recordAt (k : Cairn) (n : Nat) : Option (BitVec 2048) :=
  if k.retained n then spGet none k.slots (slotOf n) else none

/-- The bytes of a record. -/
def recordBytes (r : BitVec 2048) : List Byte := leBytes 256 r.toNat

/-- The digest of a stored record; none while it is not there. -/
def Cairn.digest (k : Cairn) (n : Nat) : Option (BitVec 384) := (k.recordAt n).map fun r => Config.sha384 (recordBytes r)

/-- A digest as it lies in a record: 48 bytes, the first byte first; zero bytes for none. -/
def digestBytes (d : Option (BitVec 384)) : List Byte :=
  match d with
  | some x => beBytes 48 x.toNat
  | none => List.replicate 48 0

/-- `TIME` goes on by an amount that the model leaves free: it has no clock (16 R487). -/
def State.passTime (s : State) : State :=
  let (d, s) := s.draw 7
  { s with cairn := { s.cairn with time := BitVec.ofNat 64 (s.cairn.time.toNat + d) } }

/-- Bytes 0 to 79 of the next record, for a payload of a length, and the first bytes of the payload (16 R487). -/
def State.recordHead (s : State) (type : BitVec 16) (origin : Byte) (len : Nat) (payload : List Byte) : List Byte :=
  let k := s.cairn
  let n := k.next.toNat
  leBytes 8 n ++ leBytes 2 type.toNat ++ [BitVec.ofNat 8 len, origin] ++ leBytes 4 k.boot.toNat ++ leBytes 8 k.time.toNat
    ++ leBytes 4 (if s.ident.jobOpen then s.job.committed.toNat else 0)
    ++ [s.ident.generation, s.ident.state.setWidth 8]
    ++ leBytes 2 (if s.ident.coordLock then s.ident.id.toNat else 0xFFFF)
    ++ digestBytes (if n = 0 then none else k.digest (n - 1)) ++ payload

/-- A record's bytes from its first ones: zeros up to 256 (16 R487). -/
def fullRecord (l : List Byte) : BitVec 2048 := BitVec.ofNat 2048 (packBits 8 (l.map (·.toNat)))

/-- The record with the next serial is stored (16 R486, R487). -/
def Cairn.append (k : Cairn) (r : BitVec 2048) : Cairn :=
  { k with slots := spSet none k.slots (slotOf k.next.toNat) (some r), next := k.next + 1 }

/-- The DeviceID key (16 R472). -/
def cdi0 : BitVec 384 := Config.hmac384 Config.uds Config.romDigest

/-- The private key of a layer (16 R472). -/
def layerKey (cdi : BitVec 384) (layer : Nat) : Nat := Config.hkdf384 cdi layer % (Config.orderP384 - 1) + 1

/-- Bytes are signed with a private key over their SHA-384 digest; each signature takes a fresh nonce (16 R472, R490). -/
def State.sign (s : State) (key : Nat) (bytes : List Byte) : List Byte × State :=
  (beBytes 96 (Config.ecdsaSign key (Config.sha384 bytes) s.notar.nonces).toNat,
   { s with notar := { s.notar with nonces := s.notar.nonces + 1 } })

/-- Types that R489 does not limit: seals, power records and SUPPRESSED. Power records are those of AUX and main power (DEDUCED,
log 37). -/
def unlimited (type : BitVec 16) : Bool := type == 0x00FE || type == 0x00F0 || (1 ≤ type.toNat && type.toNat ≤ 4)

/-- A seal is started: it takes the next serial, and later records wait for it (16 R490). -/
def State.startSeal (s : State) : State :=
  let k := s.cairn
  if k.sealing.isSome then s
  else
    let first := if k.unsealed = 0 then k.next else k.firstUnsealed
    let anchor := if 4096 ≤ k.next.toNat then k.digest 4095 else none
    let head := s.recordHead 0x00FE 2 176 (leBytes 8 first.toNat ++ digestBytes anchor ++ List.replicate 24 0)
    let body := BitVec.ofNat 1280 (packBits 8 (head.map (·.toNat)))
    { s with cairn := { k with sealing := some { body := body } } }

/-- A record is written with the next serial; the count of unsealed records goes up, and a seal starts after 64 of them, or after a
POWER_ON record (16 R487, R490, R491). -/
def State.writeRecord (s : State) (e : CairnEntry) : State :=
  let s := s.passTime
  let k := s.cairn
  let n := k.next
  let r := fullRecord (s.recordHead e.type e.origin e.payload.length e.payload)
  let k : Cairn := { k.append r with
    unsealed := k.unsealed + 1, firstUnsealed := if k.unsealed = 0 then n else k.firstUnsealed,
    second := spMod 0 k.second e.type.toNat (· + 1) }
  let s := { s with cairn := k }
  if 64 ≤ k.unsealed ∨ e.type = 0x0001 then s.startSeal else s

/-- Whether 64 records of a type have been written in this second (16 R489). -/
def Cairn.overCap (k : Cairn) (type : BitVec 16) : Bool := !unlimited type && decide (64 ≤ spGet 0 k.second type.toNat)

/-- The front of the queue is written, or counted as suppressed (16 R488, R489). -/
def State.takeEntry (s : State) : State :=
  match s.cairn.queue with
  | [] => s
  | e :: r =>
    let s := { s with cairn := { s.cairn with queue := r } }
    if s.cairn.overCap e.type then
      { s with cairn := { s.cairn with suppressed := spMod 0 s.cairn.suppressed e.type.toNat (· + 1) } }
    else s.writeRecord e

/-- CAIRN_RECORD_WRITE (16 R487 to R489). While a seal is being signed records wait: the next one chains to it (R490). -/
def execCairnRecordWrite (s : State) : Host.Outcome State Fault Refusal :=
  .next (if s.cairn.sealing.isSome || s.power.stage == .auxOff then s else s.takeEntry)

/-- SEAL_TIMER_EXPIRY (16 R490). -/
def execSealTimerExpiry (s : State) : Host.Outcome State Fault Refusal :=
  .next (if s.cairn.unsealed = 0 ∨ s.power.stage = .auxOff then s else s.startSeal)

/-- SEAL_SIGNED: the SEAL record is written with the DeviceID key's signature over its bytes 0 to 159 (16 R490). -/
def execSealSigned (s : State) : Host.Outcome State Fault Refusal :=
  .next (match s.cairn.sealing with
    | none => s
    | some x =>
      let body := leBytes 160 x.body.toNat
      let (sig, s) := s.sign (layerKey cdi0 0) body
      let n := s.cairn.next
      { s with cairn := { s.cairn.append (fullRecord (body ++ sig)) with sealed_ := n, unsealed := 0, sealing := none } })

/-- SUPPRESSION_SECOND_END (16 R489). -/
def execSuppressionSecondEnd (s : State) : Host.Outcome State Fault Refusal :=
  let l := s.cairn.suppressed
  let t := s.passTime
  let t := { t with cairn := { t.cairn with second := [], suppressed := [] } }
  .next (if s.power.stage = .auxOff then s
    else if l.isEmpty then t
    else t.record 0x00F0 0 ((l.take 16).flatMap fun e => leBytes 2 e.1 ++ leBytes 4 (min e.2 (2 ^ 32 - 1))))

/-- The records that a CAIRN_READ copies (16 R494). -/
def Cairn.readList (k : Cairn) (first count : Nat) : List Nat :=
  let next := k.next.toNat
  let ffa := if first < 4096 then (List.range (min 4096 next - first)).map fun i => first + i else []
  let start := max first k.oldest
  (ffa ++ (List.range (next - start)).map fun i => start + i).take count

/-- Whether a command came through a mailbox of the RMC (16 R485, R494). -/
def Cmd.fromRmc (c : Cmd) : Bool :=
  match c.src with
  | .mailbox _ => c.sender == 0x003
  | .queue _ => false

/-- Fields of CAIRN_READ (16 R494). -/
def readFields : List (Nat × Nat) := [(0, 1), (64, 64), (128, 13), (192, 64)]

/-- CAIRN_READ with `MODE` 0 (16 R494). -/
def execCairnRead (src : CmdSrc) (s : State) : Host.Outcome State Fault Refusal :=
  .next (s.startCmd src (fun c => c.opc == 0x0602 && c.par 0 1 == 0)
    (fun s c => [(c.rsvBad readFields || c.fromRmc || c.par 128 13 == 0 || 4096 < c.par 128 13
      || decide (s.cairn.next.toNat ≤ c.par 64 64), stBadParam), s.stateCheck c])
    fun s c =>
      let l := s.cairn.readList (c.par 64 64) (c.par 128 13)
      let s := ((List.range l.length).zip l).foldl (fun (s : State) (i, n) =>
        s.dma (c.par 192 64 + 256 * i) (recordBytes ((s.cairn.recordAt n).getD 0))) s
      s.endCmd c stOk 0 (l.headD 0 + 2 ^ 64 * l.length))

/-- CAIRN_READ with `MODE` 1 (16 R494). -/
def execCairnReadStatus (src : CmdSrc) (s : State) : Host.Outcome State Fault Refusal :=
  .next (s.startCmd src (fun c => c.opc == 0x0602 && c.par 0 1 == 1)
    (fun s c => [(c.rsvBad readFields, stBadParam), s.stateCheck c])
    fun s c => s.endCmd c stOk 0 (s.cairn.next.toNat + 2 ^ 64 * s.cairn.oldest))

/-- A reader's window on the record store. -/
def Cairn.window (k : Cairn) (side : Side) : CairnSel :=
  match side with
  | .host => k.host
  | .rmc => k.rmc

/-- A reader's window is replaced. -/
def Cairn.setWindow (k : Cairn) (side : Side) (x : CairnSel) : Cairn :=
  match side with
  | .host => { k with host := x }
  | .rmc => { k with rmc := x }

/-- The high half of `SEL` is written: `RECORD` is loaded (16 R493). -/
def Cairn.load (k : Cairn) (side : Side) (high : Reg) : Cairn :=
  let x := k.window side
  let sel := BitVec.ofNat 64 (x.sel.toNat % 2 ^ 32 + 2 ^ 32 * high.toNat)
  match k.recordAt sel.toNat with
  | some r => k.setWindow side { sel := sel, valid := true, record := r }
  | none => k.setWindow side { sel := sel, valid := false, record := 0 }

/-- A Cairn register as a reader sees it (16 R493). -/
def Cairn.reg (k : Cairn) (side : Side) (off : Nat) : Nat :=
  let x := k.window side
  match off with
  | 0x000 => bitsOf k.next.toNat 0 32
  | 0x004 => bitsOf k.next.toNat 32 32
  | 0x008 => bitsOf k.sealed_.toNat 0 32
  | 0x00C => bitsOf k.sealed_.toNat 32 32
  | 0x010 => k.lost.toNat + (if x.valid then 2 ^ 16 else 0) + (if k.sealing.isSome then 2 ^ 17 else 0)
      + 2 ^ 18 * min 31 k.queue.length
  | 0x018 => bitsOf x.sel.toNat 0 32
  | 0x01C => bitsOf x.sel.toNat 32 32
  | n => if 0x100 ≤ n ∧ n < 0x200 then bitsOf x.record.toNat (8 * (n - 0x100)) 32 else 0

end Sys2Proof.Machine
end

