-- ==== Sys2Proof/Machine/ControlGroup.lean ====
section
/-! DEFINITION. The control group's instructions and the token unit's events (05 R134 to R163, 06 R172 to R178). -/

namespace Sys2Proof.Machine

/-- Whether an instruction is NOP. -/
def isNop (i : Insn) : Bool :=
  match i with
  | .nop => true
  | _ => false

/-- NOP (06 R175): the stream's instruction issues if it is this one. -/
def execNop (c : CoreId) (k : StreamId) (s : State) : Host.Outcome State Fault Refusal :=
  .next (s.issue c k isNop bodyNop)

/-- Whether an instruction is HALT. -/
def isHalt (i : Insn) : Bool :=
  match i with
  | .halt => true
  | _ => false

/-- HALT (06 R175): the stream's instruction issues if it is this one. -/
def execHalt (c : CoreId) (k : StreamId) (s : State) : Host.Outcome State Fault Refusal :=
  .next (s.issue c k isHalt bodyHalt)

/-- Whether an instruction is EVENT. -/
def isEvent (i : Insn) : Bool :=
  match i with
  | .event _ => true
  | _ => false

/-- EVENT (05 R160): the stream's instruction issues if it is this one. -/
def execEvent (c : CoreId) (k : StreamId) (s : State) : Host.Outcome State Fault Refusal :=
  .next (s.issue c k isEvent bodyStream)

/-- Whether an instruction is CSET. -/
def isCset (i : Insn) : Bool :=
  match i with
  | .cset _ _ => true
  | _ => false

/-- CSET (05 R145): the stream's instruction issues if it is this one. -/
def execCset (c : CoreId) (k : StreamId) (s : State) : Host.Outcome State Fault Refusal :=
  .next (s.issue c k isCset bodyStream)

/-- Whether an instruction is CINC. -/
def isCinc (i : Insn) : Bool :=
  match i with
  | .cinc _ _ => true
  | _ => false

/-- CINC (05 R145): the stream's instruction issues if it is this one. -/
def execCinc (c : CoreId) (k : StreamId) (s : State) : Host.Outcome State Fault Refusal :=
  .next (s.issue c k isCinc bodyStream)

/-- Whether an instruction is CMPSET. -/
def isCmpset (i : Insn) : Bool :=
  match i with
  | .cmpset _ _ _ _ => true
  | _ => false

/-- CMPSET (05 R146): the stream's instruction issues if it is this one. -/
def execCmpset (c : CoreId) (k : StreamId) (s : State) : Host.Outcome State Fault Refusal :=
  .next (s.issue c k isCmpset bodyStream)

/-- Whether an instruction is BR. -/
def isBr (i : Insn) : Bool :=
  match i with
  | .br _ => true
  | _ => false

/-- BR (05 R138): the stream's instruction issues if it is this one. -/
def execBr (c : CoreId) (k : StreamId) (s : State) : Host.Outcome State Fault Refusal :=
  .next (s.issue c k isBr bodyBranch)

/-- Whether an instruction is BRC. -/
def isBrc (i : Insn) : Bool :=
  match i with
  | .brc _ _ => true
  | _ => false

/-- BRC (05 R146): the stream's instruction issues if it is this one. -/
def execBrc (c : CoreId) (k : StreamId) (s : State) : Host.Outcome State Fault Refusal :=
  .next (s.issue c k isBrc bodyBranch)

/-- Whether an instruction is BRN. -/
def isBrn (i : Insn) : Bool :=
  match i with
  | .brn _ _ => true
  | _ => false

/-- BRN (05 R146): the stream's instruction issues if it is this one. -/
def execBrn (c : CoreId) (k : StreamId) (s : State) : Host.Outcome State Fault Refusal :=
  .next (s.issue c k isBrn bodyBranch)

/-- Whether an instruction is HSWITCH. -/
def isHswitch (i : Insn) : Bool :=
  match i with
  | .hswitch _ _ => true
  | _ => false

/-- HSWITCH (05 R142): the stream's instruction issues if it is this one. -/
def execHswitch (c : CoreId) (k : StreamId) (s : State) : Host.Outcome State Fault Refusal :=
  .next (s.issue c k isHswitch bodyHswitch)

/-- Whether an instruction is TWAIT. -/
def isTwait (i : Insn) : Bool :=
  match i with
  | .twait _ _ => true
  | _ => false

/-- TWAIT (05 R150): the stream's instruction issues if it is this one. -/
def execTwait (c : CoreId) (k : StreamId) (s : State) : Host.Outcome State Fault Refusal :=
  .next (s.issue c k isTwait bodyTwait)

/-- Whether an instruction is TPOST. -/
def isTpost (i : Insn) : Bool :=
  match i with
  | .tpost _ _ _ _ => true
  | _ => false

/-- TPOST (06 R176): the stream's instruction issues if it is this one. -/
def execTpost (c : CoreId) (k : StreamId) (s : State) : Host.Outcome State Fault Refusal :=
  .next (s.issue c k isTpost bodyTpost)

/-- Whether an instruction is QPUSH. -/
def isQpush (i : Insn) : Bool :=
  match i with
  | .qpush _ _ _ _ _ => true
  | _ => false

/-- QPUSH (06 R178): the stream's instruction issues if it is this one. -/
def execQpush (c : CoreId) (k : StreamId) (s : State) : Host.Outcome State Fault Refusal :=
  .next (s.issue c k isQpush bodyQpush)

/-- Whether an instruction is LCTX. -/
def isLctx (i : Insn) : Bool :=
  match i with
  | .lctx _ => true
  | _ => false

/-- LCTX (06 R172): the stream's instruction issues if it is this one. -/
def execLctx (c : CoreId) (k : StreamId) (s : State) : Host.Outcome State Fault Refusal :=
  .next (s.issue c k isLctx bodyStream)

/-- TWAIT_GRANT (05 R150). -/
def execTwaitGrant (c : CoreId) (k : StreamId) (s : State) : Host.Outcome State Fault Refusal :=
  .next (s.atCore c.val fun env x => x.twaitGrant env k)

/-- TOKEN_POST: the i-th post on its way reaches the token unit (05 R147, R148). -/
def execTokenPost (c : CoreId) (i : Nat) (s : State) : Host.Outcome State Fault Refusal :=
  .next (s.atCore c.val fun _ x => x.tokenArrives i)

/-- PROGRESS_WATCHDOG_EXPIRY (05 R159). -/
def execProgressWatchdogExpiry (c : CoreId) (k : StreamId) (s : State) : Host.Outcome State Fault Refusal :=
  .next (s.atCore c.val fun env x => x.watchdog env k)

end Sys2Proof.Machine
end

