-- ==== Sys2Proof/Machine/DataPath.lean ====
section
/-! DEFINITION. The data-path commands (12 R371, R375) and what ends them. -/

namespace Sys2Proof.Machine

/-- MEM_COPY goes on (12 R375, R378): a block of at most 1 KiB, within one 1 KiB block on each side, is read and then written, in
ascending order (DESIGN CHOICE, log 21, where source and destination overlap). `accA`: words done; `accB`: words of the block;
phase 1: it is being read, 2: written. -/
def State.copyGo (n : Nat) (s : State) (id : Nat) : State :=
  match n, s.cmdOf id with
  | k + 1, some c =>
    let src := BitVec.ofNat 64 (c.par 0 64)
    let dst := BitVec.ofNat 64 (c.par 64 64)
    let total := c.par 128 40 / 32
    if !c.waits.isEmpty then s
    else if c.failed ≠ 0 then s.endCmd c c.failed 0 0
    else if c.phase = 1 then
      if c.replied then s.endCmd c stTimeout 0 0
      else
        let ws := (List.range c.accB).map fun i => codeOfWord (c.word i)
        ((s.modCmd id fun c => { c with phase := 2, got := [] }).cmdWrite c (adrAdd dst (32 * c.accA : Nat)) ws).copyGo k id
    else
      let done := c.accA + c.accB
      if total ≤ done ∨ c.replied then s.endCmd c stOk 0 0
      else
        let a := adrAdd src (32 * done : Nat)
        let m := min (total - done) (min (32 - adr a 5 5) (32 - adr (adrAdd dst (32 * done : Nat)) 5 5))
        ((s.modCmd id fun c => { c with phase := 1, accA := done, accB := m, got := [] }).cmdRead c 0 a m).copyGo k id
  | _, _ => s

/-- Steps in which a MEM_COPY ends. -/
def Cmd.copyFuel (c : Cmd) : Nat := 2 * (c.par 128 40 / 32) + 3

/-- Checks of MEM_COPY (12 R374, R375). -/
def checksCopy (s : State) (c : Cmd) : List (Bool × BitVec 16) :=
  [(c.rsvBad [(0, 64), (64, 64), (128, 40)], stBadParam),
   (c.par 128 40 == 0 || c.par 128 5 != 0 || c.par 0 5 != 0 || c.par 64 5 != 0 || 1 < c.par 60 4 || 1 < c.par 124 4, stBadParam),
   s.stateCheck c]

/-- MEM_COPY (12 R375). -/
def execMemCopy (src : CmdSrc) (s : State) : Host.Outcome State Fault Refusal :=
  .next (s.startCmd src (wants 0x0100) checksCopy fun s c => s.copyGo c.copyFuel c.id)

/-- MEM_FILL goes on (12 R375, R378): `accA` words are written; phase 1: a block is being written. -/
def State.fillGo (n : Nat) (s : State) (id : Nat) : State :=
  match n, s.cmdOf id with
  | k + 1, some c =>
    let dst := BitVec.ofNat 64 (c.par 0 64)
    let total := c.par 64 40 / 32
    if !c.waits.isEmpty then s
    else if c.failed ≠ 0 then s.endCmd c c.failed 0 0
    else if total ≤ c.accA ∨ c.replied then s.endCmd c stOk 0 0
    else
      let a := adrAdd dst (32 * c.accA : Nat)
      let m := min (total - c.accA) (32 - adr a 5 5)
      let w := encodeWord (BitVec.ofNat 256 (packBits 32 (List.replicate 8 (c.par 104 32))))
      ((s.modCmd id fun c => { c with accA := c.accA + m }).cmdWrite c a (List.replicate m w)).fillGo k id
  | _, _ => s

/-- Steps in which a MEM_FILL ends. -/
def Cmd.fillFuel (c : Cmd) : Nat := c.par 64 40 / 32 + 3

/-- Checks of MEM_FILL (12 R374, R375). -/
def checksFill (s : State) (c : Cmd) : List (Bool × BitVec 16) :=
  [(c.rsvBad [(0, 64), (64, 40), (104, 32)], stBadParam),
   (c.par 64 40 == 0 || c.par 64 5 != 0 || c.par 0 5 != 0 || 1 < c.par 60 4, stBadParam), s.stateCheck c]

/-- MEM_FILL (12 R375). -/
def execMemFill (src : CmdSrc) (s : State) : Host.Outcome State Fault Refusal :=
  .next (s.startCmd src (wants 0x0101) checksFill fun s c => s.fillGo c.fillFuel c.id)

/-- Job page table entries are changed (10 R298). -/
def State.modPages (s : State) (page count : Nat) (f : Nat → BitVec 32 → BitVec 32) : State :=
  { s with erg := { s.erg with
      pages := (List.range count).foldl (fun t i => spMod 0 t (page + i) (f i)) s.erg.pages } }

/-- Whether a page and a count lie outside the job page table (12 R375). -/
def pagesBad (c : Cmd) : Bool := c.par 19 20 == 0 || decide (524288 < c.par 0 19 + c.par 19 20)

/-- Checks of PAGE_MAP (12 R374, R375, 10 R298). -/
def checksPageMap (s : State) (c : Cmd) : List (Bool × BitVec 16) :=
  [(c.rsvBad [(0, 19), (19, 20), (39, 1), (40, 4), (44, 18)], stBadParam)] ++ s.genCheck c ++
  [(pagesBad c || (c.par 39 1 == 1 && ((4 < c.par 40 4 && c.par 40 4 != 8) || decide (2 ^ 18 < c.par 44 18 + c.par 19 20))), stBadParam),
   s.stateCheck c]

/-- PAGE_MAP with `MAP` 1: pages take `REGION` and `PPN`; `RESIDENT` stands (12 R375). -/
def execPageMap (src : CmdSrc) (s : State) : Host.Outcome State Fault Refusal :=
  .next (s.startCmd src (fun c => c.opc == 0x0102 && c.par 39 1 == 1) checksPageMap fun s c =>
    (s.modPages (c.par 0 19) (c.par 19 20) fun i e =>
      BitVec.ofNat 32 (1 + bitsOf e.toNat 1 1 * 2 + c.par 40 4 * 4 + 64 * (c.par 44 18 + i))).endCmd c stOk 0 0)

/-- PAGE_MAP with `MAP` 0: pages are unmapped, `RESIDENT` cleared (12 R375). -/
def execPageUnmap (src : CmdSrc) (s : State) : Host.Outcome State Fault Refusal :=
  .next (s.startCmd src (fun c => c.opc == 0x0102 && c.par 39 1 == 0) checksPageMap fun s c =>
    (s.modPages (c.par 0 19) (c.par 19 20) fun _ _ => 0).endCmd c stOk 0 0)

/-- Checks of PAGE_RESIDENT (12 R374, R375). -/
def checksPageResident (s : State) (c : Cmd) : List (Bool × BitVec 16) :=
  [(c.rsvBad [(0, 19), (19, 20), (39, 1)], stBadParam)] ++ s.genCheck c ++
  [(pagesBad c, stBadParam), s.stateCheck c,
   (c.par 39 1 == 1 && (List.range (c.par 19 20)).any fun i => !(s.pageEntry (c.par 0 19 + i)).getLsbD 0, stBadState)]

/-- PAGE_RESIDENT (12 R375). -/
def execPageResident (src : CmdSrc) (s : State) : Host.Outcome State Fault Refusal :=
  .next (s.startCmd src (wants 0x0103) checksPageResident fun s c =>
    (s.modPages (c.par 0 19) (c.par 19 20) fun _ e =>
      BitVec.ofNat 32 (clearField e.toNat 1 1 + c.par 39 1 * 2)).endCmd c stOk 0 0)

/-- The entries that a WINDOW_OWN would write (12 R375, R388). -/
def newWindow (s : State) (c : Cmd) : List (Nat × WinEntry) :=
  (List.range (c.par 15 16)).map fun i =>
    let n := c.par 0 15 + i
    let e := spGet WinEntry.reset s.host.window n
    (n, { owner := BitVec.ofNat 2 (c.par 31 2), region := if c.par 33 1 = 1 then BitVec.ofNat 4 (c.par 34 4) else e.region,
          ppn := if c.par 33 1 = 1 then BitVec.ofNat 18 (c.par 38 18 + i) else e.ppn })

/-- Whether two entries map the same physical page. -/
def samePage (a b : WinEntry) : Bool := a.region == b.region && a.ppn == b.ppn

/-- Whether a WINDOW_OWN would leave two entries with an owner mapping one page (12 R388). -/
def windowClash (s : State) (c : Cmd) : Bool :=
  let new := newWindow s c
  c.par 31 2 != 0 && (new.any fun a => (new.any fun b => a.1 < b.1 && samePage a.2 b.2)
    || s.host.window.any fun e => e.2.owner != 0 && samePage e.2 a.2 && !(c.par 0 15 ≤ e.1 && e.1 < c.par 0 15 + c.par 15 16))

/-- Checks of WINDOW_OWN (12 R374, R375, R388). -/
def checksWindow (s : State) (c : Cmd) : List (Bool × BitVec 16) :=
  [(c.rsvBad [(0, 15), (15, 16), (31, 2), (33, 1), (34, 4), (38, 18)], stBadParam),
   (c.par 15 16 == 0 || decide (32768 < c.par 0 15 + c.par 15 16), stBadParam),
   (c.par 33 1 == 1 && (4 < c.par 34 4 || decide (s.regionSize (c.par 34 4) < 2 ^ 21 * (c.par 38 18 + c.par 15 16))), stBadParam),
   (windowClash s c, stBadParam), s.stateCheck c,
   (c.par 33 1 == 1 && (newWindow s c).any fun e => (spGet WinEntry.reset s.host.window e.1).owner != 0, stBadState)]

/-- WINDOW_OWN (12 R375, R388). -/
def execWindowOwn (src : CmdSrc) (s : State) : Host.Outcome State Fault Refusal :=
  .next (s.startCmd src (wants 0x0104) checksWindow fun s c =>
    ({ s with host := { s.host with
        window := (newWindow s c).foldl (fun t e => spSet WinEntry.reset t e.1 e.2) s.host.window } } : State).endCmd c stOk 0 0)

/-- A stream by its number. -/
def streamOf (n : Nat) : StreamId := if n = 0 then .f else if n = 1 then .b else .u

/-- A half of a stream is put in place. -/
def Stream.setHalf (st : Stream) (h : Bool) (x : Half) : Stream := if h then { st with h1 := x } else { st with h0 := x }

/-- Whether a half holds the program counter of a Running or Waiting stream (05 R141). -/
def Stream.fetching (st : Stream) (h : Bool) : Bool := (st.state == .running || st.state == .waiting) && st.half == h

/-- The streams' halves that an IMEM_LOAD names change. -/
def State.modHalves (s : State) (c : Cmd) (f : Half → Half) : State :=
  let k := streamOf (c.par 224 2)
  let h := c.par 226 1 == 1
  (s.physCores (c.par 0 224)).foldl (fun s p =>
    s.setCore p ((s.core p).modStream k fun st => st.setHalf h (f (st.halfOf h)))) s

/-- Check 9 of a command whose core mask names a core under patrol (14 R440). -/
def State.patrolled (s : State) (c : Cmd) : Bool × BitVec 16 :=
  (match s.silent.patrol with
    | some r => (s.physCores (c.par 0 224)).any fun p => r.cores.contains p
    | none => false, stBusy)

/-- Checks of IMEM_LOAD (12 R374, R375, 05 R141). An empty core mask is taken as inconsistent (DEDUCED, log 31). -/
def checksImem (s : State) (c : Cmd) : List (Bool × BitVec 16) :=
  let k := streamOf (c.par 224 2)
  let h := c.par 226 1 == 1
  [(c.rsvBad [(0, 224), (224, 2), (226, 1), (227, 16), (243, 13), (256, 1), (257, 5), (262, 64)] || c.par 224 2 == 3, stBadParam),
   s.maskBad (c.par 0 224),
   (c.par 0 224 == 0 || c.par 243 13 == 0 || 4096 < c.par 243 13 || c.par 262 5 != 0 || c.par 322 4 != 0, stBadParam),
   s.stateCheck c,
   ((s.physCores (c.par 0 224)).any fun p => ((s.core p).stream k).fetching h, stImemBusy), s.patrolled c]

/-- An IMEM_LOAD whose source has been read (12 R387, 05 R141): a refused read leaves the halves Empty; else the halves are written,
core by core (phase 1). -/
def State.imemGo (s : State) (id : Nat) : State :=
  match s.cmdOf id with
  | none => s
  | some c =>
    if !c.waits.isEmpty ∨ c.phase ≠ 0 then s
    else if c.failed ≠ 0 then
      (s.modHalves c fun x => if x.state = .loading then { x with state := .empty, lines := [] } else x).endCmd c c.failed 0 0
    else s.modCmd id fun c => { c with phase := 1 }

/-- IMEM_LOAD starts: the named halves become Loading and the image is read (12 R375, 05 R141). -/
def execImemLoad (src : CmdSrc) (s : State) : Host.Outcome State Fault Refusal :=
  .next (s.startCmd src (wants 0x0200) checksImem fun s c =>
    let s := s.modHalves c fun x => { x with state := .loading, lines := [] }
    (s.cmdRead c 0 (BitVec.ofNat 64 (c.par 262 64)) ((c.par 243 13 + 3) / 4)).imemGo c.id)

/-- The lines of an image: words beyond `WORDS` are zero; a line read as poison stays poison (05 R141, R144). -/
def Cmd.lines (c : Cmd) : Sparse CodeWord :=
  let n := c.par 243 13
  (List.range ((n + 3) / 4)).foldl (fun t i =>
    let w := c.word i
    let data : Data := if 4 * (i + 1) ≤ n then w.data else BitVec.ofNat 256 (w.data.toNat % 2 ^ (64 * (n - 4 * i)))
    spSet 0 t i (if w.poison then poisonWord else encodeWord data)) []

/-- HALF_LOADED: an IMEM_LOAD ends in a half of a core, which becomes Loaded with its tag, also where an earlier load has left it Loaded
meanwhile; the completion token goes to the core. A half that COMPUTE_RESET has emptied since stays Empty, without a token (DESIGN
CHOICE, log 105). The command completes with its last core (05 R141, 12 R375, R379). -/
def execHalfLoaded (c : CoreId) (k : StreamId) (half : Bool) (s : State) : Host.Outcome State Fault Refusal :=
  let n := s.logOf c.val
  let st := (s.core c.val).stream k
  .next (match s.host.cmds.find? fun x => x.opc == 0x0200 && x.started && x.phase == 1 && streamOf (x.par 224 2) == k
      && (x.par 226 1 == 1) == half && (x.par 0 224).testBit n && !x.accA.testBit n with
    | none => s
    | some x =>
      if !s.coreOn c.val then s
      else
        let s := if (st.halfOf half).state = .empty then s
          else
            let s := s.setCore c.val ((s.core c.val).modStream k fun st =>
              st.setHalf half { state := .loaded, tag := BitVec.ofNat 16 (x.par 227 16), lines := x.lines })
            if x.par 256 1 = 1 then s.post n (BitVec.ofNat 5 (x.par 257 5)) 1 else s
        let x := { x with accA := x.accA ||| 2 ^ n }
        let s := s.keepCmd x
        if (maskCores (x.par 0 224)).all fun i => x.accA.testBit i then s.endCmd x stOk 0 0 else s)

/-- Start of stream k in a LAUNCH: half, word, tag (12 R375). -/
def Cmd.start (c : Cmd) (k : StreamId) : Bool × BitVec 12 × BitVec 16 :=
  let i := 29 * streamNo k
  (c.par (227 + i) 1 == 1, BitVec.ofNat 12 (c.par (228 + i) 12), BitVec.ofNat 16 (c.par (240 + i) 16))

/-- Streams that a LAUNCH or a CORE_HALT names: physical core and stream. -/
def State.namedStreams (s : State) (c : Cmd) : List (Nat × StreamId) :=
  (s.physCores (c.par 0 224)).flatMap fun p => (maskStreams (c.par 224 3)).map fun k => (p, k)

/-- Checks of LAUNCH (05 R135, 12 R374, R375). A LAUNCH that names no core or no stream is taken as inconsistent (DEDUCED, log 31). -/
def checksLaunch (s : State) (c : Cmd) : List (Bool × BitVec 16) :=
  let named := s.namedStreams c
  let half := fun (x : Nat × StreamId) => ((s.core x.1).stream x.2).halfOf (c.start x.2).1
  [(c.rsvBad [(0, 224), (224, 3), (227, 29), (256, 29), (285, 29)], stBadParam)] ++ s.genCheck c ++
  [s.maskBad (c.par 0 224), (c.par 0 224 == 0 || c.par 224 3 == 0, stBadParam),
   (named.any fun x => (half x).state == .loaded && (half x).tag != (c.start x.2).2.2, stBadParam), s.stateCheck c,
   (named.any fun x => (half x).state != .loaded ||
     !(((s.core x.1).stream x.2).state == .idle || ((s.core x.1).stream x.2).state == .halted), stBadState), s.patrolled c]

/-- A stream's run as its LAUNCH reports it. -/
def Stream.ended (st : Stream) (p : Nat) (k : StreamId) : StreamEnd :=
  { core := p, stream := k, cause := st.haltCause, half := st.half, pc := st.pc, flags := st.flags, nwatch := st.nwatch }

/-- The LAUNCH of a stream that is to be started again keeps how its run ended (05 R158). -/
def State.keepEnd (s : State) (p : Nat) (k : StreamId) : State :=
  let st := (s.core p).stream k
  { s with host := { s.host with launches := s.host.launches.map fun (l : LaunchRec) =>
      if l.live && st.launch == some l.id then { l with ended := l.ended ++ [st.ended p k] } else l } }

/-- A stream starts: its first instruction issues in the first even cycle after the current one (05 R135). -/
def Stream.started (st : Stream) (now : Nat) (x : Bool × BitVec 12 × BitVec 16) (step : BitVec 32) (launch : Nat) : Stream :=
  { st with
    state := .running, half := x.1, pc := x.2.1, haltCause := 0, nextIssue := evenUp (now + 1), flags := 0, wdogCount := 0, lost := 0,
    counters := Vector.replicate 8 0, cmps := Vector.replicate 4 { limit := 0, counter := 0, mode := 0 }, nwatch := 0, step := step,
    launch := some launch }

/-- LAUNCH starts its streams (05 R135, 13 R396). -/
def execLaunch (src : CmdSrc) (s : State) : Host.Outcome State Fault Refusal :=
  .next (s.startCmd src (wants 0x0201) checksLaunch fun s c =>
    let step := c.step.getD 0
    let s := (s.namedStreams c).foldl (fun s x => s.keepEnd x.1 x.2) s
    let s := (s.namedStreams c).foldl (fun s x =>
      s.setCore x.1 ((s.core x.1).modStream x.2 fun st => st.started (s.core x.1).cycle (c.start x.2) step c.id)) s
    let q : Fin 8 := match c.src with
      | .queue q => q
      | .mailbox _ => 0
    let rec_ : LaunchRec :=
      { id := c.id, queue := q, seq := c.seq, cores := maskCores (c.par 0 224), smask := BitVec.ofNat 3 (c.par 224 3), live := true,
        ended := [] }
    let s := { s with host := { s.host with launches := s.host.launches ++ [rec_] } }
    s.modStep step fun x => { x with launchedU := x.launchedU || (c.par 224 3).testBit 2 })

/-- Status of a halt cause (05 R157, R158). -/
def causeStatus (cause : Byte) : BitVec 16 :=
  match cause.toNat with
  | 0 | 1 => stOk
  | 5 => stHung
  | 10 => stInternal
  | 13 => stPoison
  | _ => stBadState

/-- The runs of a LAUNCH's streams: as the streams stand, or as the LAUNCH keeps those that another has started since (05 R158). -/
def State.launchEnds (s : State) (c : Cmd) : List StreamEnd :=
  let kept := ((s.host.launches.find? fun l => l.id == c.id).map (·.ended)).getD []
  (s.namedStreams c).map fun x =>
    let st := (s.core x.1).stream x.2
    if st.launch = some c.id then st.ended x.1 x.2
    else (kept.find? fun e => e.core == x.1 && e.stream == x.2).getD (st.ended x.1 x.2)

/-- Status, flags and `DETAIL` of a LAUNCH as its streams' runs stand (05 R158, 12 R368, R369, R373): the lowest abnormal halt cause
decides, and among equal causes the lowest core. A stream that the LAUNCH did not start is shown as it stands. -/
def State.launchResult (s : State) (c : Cmd) : BitVec 16 × Byte × Nat :=
  let ends := s.launchEnds c
  let causes := ends.map fun x => (x.cause.toNat, x.core)
  let worst := causes.foldl (fun (a : Option (Nat × Nat)) y =>
    if y.1 ≤ 1 then a
    else match a with
      | none => some y
      | some z => if y.1 < z.1 ∨ (y.1 = z.1 ∧ y.2 < z.2) then some y else a) none
  let p := match worst with
    | some y => y.2
    | none => ((s.physCores (c.par 0 224)).head?).getD 0
  let core := s.core p
  let det := [StreamId.f, .b, .u].foldl (fun a k =>
    let x := (ends.find? fun e => e.core == p && e.stream == k).getD ((core.stream k).ended p k)
    let i := 24 * streamNo k
    a + x.cause.toNat * 2 ^ (i + 8) + (if x.half then 2 ^ (i + 16) else 0) + x.pc.toNat * 2 ^ (i + 17)) (s.logOf p)
  (match worst with
    | some y => causeStatus (BitVec.ofNat 8 y.1)
    | none => stOk,
   orFlags (ends.map (·.flags)), det)

/-- What a step's report keeps of a LAUNCH whose streams have halted: flags at the halts, poison halts, abnormal halts, watch codes (13
R399, R400). A LAUNCH that has timed out counts at its timeout (`accA` 1), and at its end adds flags alone. -/
def State.launchStep (s : State) (c : Cmd) : State :=
  match c.step with
  | none => s
  | some step =>
    let ends := s.launchEnds c
    if step.toNat ≤ s.job.committed.toNat then s
    else s.modStep step fun x =>
      let x := { x with flags := x.flags ||| orFlags (ends.map (·.flags)) }
      if c.accA = 1 then x
      else
        { x with
          poisonHalt := x.poisonHalt || ends.any fun e => e.cause == 0x0D,
          nhalt := satAdd x.nhalt (ends.filter fun e => e.cause != 0x01).length,
          nwatch := satAdd x.nwatch ((ends.map fun e => e.nwatch.toNat).foldl (· + ·) 0) }

/-- LAUNCH_COMPLETE: the oldest LAUNCH of a source whose streams have all halted ends once the instructions they issued have completed
(05 R158, 12 R379). -/
def execLaunchComplete (src : CmdSrc) (s : State) : Host.Outcome State Fault Refusal :=
  let halted := fun (c : Cmd) => (s.namedStreams c).all fun x =>
    ((s.core x.1).stream x.2).state == .halted || ((s.core x.1).stream x.2).launch != some c.id
  .next (match s.host.cmds.find? fun c => c.src == src && c.started && c.opc == 0x0201 && halted c with
    | none => s
    | some c =>
      let s := (s.namedStreams c).foldl (fun s x => s.onCore x.1 fun env y => y.finishWork workBound env x.2) s
      let s := s.launchStep c
      let (st, fl, det) := s.launchResult c
      let s := { s with host := { s.host with
        launches := s.host.launches.map fun (l : LaunchRec) => if l.id = c.id then { l with live := false } else l } }
      s.endCmd c st fl det)

/-- EVENT_COMPLETION_POST: the core controller takes the oldest entry of a stream's event queue and posts it (05 R160, 12 R368). -/
def execEventCompletionPost (c : CoreId) (k : StreamId) (s : State) : Host.Outcome State Fault Refusal :=
  let st := (s.core c.val).stream k
  .next (match st.events with
    | [] => s
    | e :: r =>
      let s := s.setCore c.val ((s.core c.val).modStream k fun st => { st with events := r })
      s.reportLaunch e.2 1 stOk (s.logOf c.val + 2 ^ 8 * streamNo k + 2 ^ 16 * e.1.toNat))

/-- Checks of STREAM_RESUME (08 R254, 12 R374). -/
def checksResume (s : State) (c : Cmd) : List (Bool × BitVec 16) :=
  [(c.rsvBad [(0, 8), (8, 2), (10, 2)] || c.par 10 2 == 3, stBadParam)] ++ s.genCheck c ++
  [(decide (s.coreCount ≤ c.par 0 8), stNoSuchEngine), s.stateCheck c]

/-- STREAM_RESUME acts on its channel (08 R254, R256). -/
def State.resumeGo (s : State) (c : Cmd) : State :=
  let ch : Fin 4 := ⟨c.par 8 2 % 4, Nat.mod_lt _ (by decide)⟩
  match s.physOf (c.par 0 8) with
  | none => s.endCmd c stNoSuchEngine 0 0
  | some p =>
    let (st, s) := s.qResume p ch (c.par 10 2)
    s.endCmd c st 0 0

/-- STREAM_RESUME with mode 0, and with the reserved mode 3 (08 R254). -/
def execStreamResume (src : CmdSrc) (s : State) : Host.Outcome State Fault Refusal :=
  .next (s.startCmd src (fun c => c.opc == 0x0202 && (c.par 10 2 == 0 || c.par 10 2 == 3)) checksResume State.resumeGo)

/-- STREAM_RESUME with mode 1 (08 R254). -/
def execStreamResumeDiscardHead (src : CmdSrc) (s : State) : Host.Outcome State Fault Refusal :=
  .next (s.startCmd src (fun c => c.opc == 0x0202 && c.par 10 2 == 1) checksResume State.resumeGo)

/-- STREAM_RESUME with mode 2 (08 R254). -/
def execStreamResumeDiscardAll (src : CmdSrc) (s : State) : Host.Outcome State Fault Refusal :=
  .next (s.startCmd src (fun c => c.opc == 0x0202 && c.par 10 2 == 2) checksResume State.resumeGo)

/-- Streams halt with cause 0x09 at the next instruction not issued (05 R157). -/
def State.haltStreams (s : State) (l : List (Nat × StreamId)) : State :=
  l.foldl (fun s x => s.setCore x.1 ((s.core x.1).halt x.2 0x09 ((s.core x.1).stream x.2).pc)) s

/-- CORE_HALT (12 R375, 05 R157). -/
def execCoreHalt (src : CmdSrc) (s : State) : Host.Outcome State Fault Refusal :=
  .next (s.startCmd src (wants 0x0203)
    (fun s c => [(c.rsvBad [(0, 224), (224, 3)], stBadParam), s.maskBad (c.par 0 224), s.stateCheck c])
    fun s c => (s.haltStreams (s.namedStreams c)).endCmd c stOk 0 0)

/-- The entry that a COLL_SETUP carries (11 R319, 12 R375). -/
def Cmd.collEntry (c : Cmd) : CollEntry :=
  { cid := BitVec.ofNat 16 (c.par 0 16), kind := BitVec.ofNat 2 (c.par 16 2), fmt := BitVec.ofNat 4 (c.par 18 4),
    staged := c.par 22 1 == 1, nbkt := BitVec.ofNat 16 (c.par 23 16), ownerOnly := c.par 39 1 == 1, arrival := c.par 40 1 == 1,
    headroom := BitVec.ofNat 3 (c.par 41 3), rfirst := BitVec.ofNat 12 (c.par 44 12), rstep := BitVec.ofNat 12 (c.par 56 12),
    rcount := BitVec.ofNat 13 (c.par 68 13), sbase := BitVec.ofNat 21 (c.par 81 21), result := BitVec.ofNat 64 (c.par 102 64),
    rhdr := BitVec.ofNat 64 (c.par 166 64), tokCore0 := BitVec.ofNat 8 (c.par 230 8), tokBpc := BitVec.ofNat 16 (c.par 238 16),
    tokCtr := BitVec.ofNat 5 (c.par 254 5), frows := BitVec.ofNat 24 (c.par 259 24), frank := BitVec.ofNat 7 (c.par 283 7),
    gen := BitVec.ofNat 8 c.gen }

/-- Whether an extent of results lies in regions 0x0 to 0x4 or 0x8 (11 R320). -/
def State.resultOk (s : State) (a : BitVec 64) (n : Nat) : Bool :=
  (adr a 44 4 ≤ 4 || adr a 44 4 == 8) && s.physOk a n true

/-- Whether the collective table has no room for an entry: 4,096 collectives and 2,097,152 buckets in all (11 R319). -/
def State.tableFull (s : State) (e : CollEntry) : Bool :=
  let others := s.coll.table.filterMap fun x => if x.1 = e.cid.toNat then none else x.2
  decide (4096 ≤ others.length) || decide (2097152 < e.nbkt.toNat + (others.map fun x => x.nbkt.toNat).foldl (· + ·) 0)

/-- Checks of COLL_SETUP (11 R320, 12 R374). An entry for which the table has no room is refused with BAD_PARAM (DESIGN CHOICE, log 115:
the spec gives no status). -/
def checksColl (s : State) (c : Cmd) : List (Bool × BitVec 16) :=
  let e := c.collEntry
  let last := e.rfirst.toNat + (e.rcount.toNat - 1) * e.rstep.toNat
  let open_ := (s.coll.insts.any fun i => i.id.cid == e.cid && i.phase != .done) || s.coll.known.any fun k => k.id.cid == e.cid
  [(c.rsvBad [(0, 290)], stBadParam)] ++ s.genCheck c ++
  [(e.cid == 0xFFFF || !(e.fmt == 9 || e.fmt == 10 || e.fmt == 11) || e.nbkt == 0, stBadParam),
   (e.rcount == 0 || 4096 < e.rcount.toNat || decide (s.job.nranks.toNat ≤ last) || !(e.ranks.contains s.job.rank.toNat), stBadParam),
   ((e.staged && e.fmt == 11) || (e.arrival && ((e.kind != 0) || e.fmt == 11)) || ((e.kind == 1 || e.kind == 2) && e.fmt != 9)
     || (e.kind == 3 && (e.frank == 0 || 64 < e.frank.toNat)), stBadParam),
   (decide (2097152 < e.sbase.toNat + e.nbkt.toNat) || s.tableFull e || !s.resultOk e.result (e.stride (s.hallArrival e) * e.nbkt.toNat)
     || !s.resultOk e.rhdr (32 * e.nbkt.toNat), stBadParam),
   s.stateCheck c, (open_, stBusy)]

/-- COLL_SETUP (11 R319, R320). -/
def execCollSetup (src : CmdSrc) (s : State) : Host.Outcome State Fault Refusal :=
  .next (s.startCmd src (wants 0x0300) checksColl fun s c =>
    ({ s with coll := { s.coll with table := spSet none s.coll.table (c.par 0 16) (some c.collEntry) } } : State).endCmd c stOk 0 0)

/-- Bytes of a bucket's contribution from memory, in its entry format: a top-k list takes the room of 16,384 entries (DESIGN CHOICE,
log 29). -/
def CollEntry.exchangeWords (e : CollEntry) : Nat := if e.kind = 1 then bucketSize * 8 / 32 else e.entryWords 0

/-- EXCHANGE goes on (11 R322, 12 R375, R378): bucket `accA` is read (phase 1), then stands at the exchange port until the engine has
taken it (phase 2). -/
def State.exchangeGo (n : Nat) (s : State) (id : Nat) : State :=
  match n, s.cmdOf id with
  | k + 1, some c =>
    match s.collEntry (BitVec.ofNat 16 (c.par 0 16)) with
    | none => s.endCmd c stBadParam 0 0
    | some e =>
      let nw := e.exchangeWords
      if !c.waits.isEmpty then s
      else if c.failed ≠ 0 then s.endCmd c c.failed 0 0
      else if c.phase = 1 then
        if c.replied then s.endCmd c stTimeout 0 0
        else
          let ws := (List.range nw).map c.word
          if e.kind = 1 ∧ listOk (c.par 16 16 + c.accA) ws = false then s.endCmd c stBadParam 0 0
          else
            let tag := s.erg.nextTag
            let step := c.step.getD 0
            let x : Contrib :=
              { id := { cid := e.cid, bucket := BitVec.ofNat 16 (c.par 16 16 + c.accA), step := step }, words := ws.map codeOfWord,
                summary := if e.fmt = 11 then some (codeOfWord (c.word nw)) else none, epoch := s.job.epochFor step,
                issuer := .command id, tag := tag }
            ({ s with erg := { s.erg with nextTag := tag + 1 }, coll := { s.coll with contribs := s.coll.contribs ++ [x] } } :
              State).modCmd id fun c => { c with phase := 2, accA := c.accA + 1, got := [], waits := [{ tag := tag, index := 0 }] }
      else if c.par 32 16 ≤ c.accA ∨ c.replied then s.endCmd c stOk 0 0
      else
        let s := s.modCmd id fun c => { c with phase := 1, got := [] }
        let s := s.cmdRead c 0 (adrAdd (BitVec.ofNat 64 (c.par 48 64)) (32 * nw * c.accA : Nat)) nw
        let s := if e.fmt = 11 then
            s.cmdRead c nw (adrAdd (BitVec.ofNat 64 (c.par 112 64)) (c.accA * c.par 176 16 : Nat)) 1
          else s
        s.exchangeGo k id
  | _, _ => s

/-- Checks of EXCHANGE (11 R322, R348, 12 R374, R375). -/
def checksExchange (s : State) (c : Cmd) : List (Bool × BitVec 16) :=
  let e := s.collEntry (BitVec.ofNat 16 (c.par 0 16))
  [(c.rsvBad [(0, 192)], stBadParam)] ++ s.genCheck c ++
  [(e.isNone || c.par 32 16 == 0 || c.par 48 5 != 0 || 1 < c.par 108 4
     || c.par 112 5 != 0 || c.par 176 5 != 0 || ((e.map fun e => e.fmt == 11).getD false && 1 < c.par 172 4), stBadParam),
   (!(s.handleOk (BitVec.ofNat 64 (c.par 0 32)) (c.par 32 16) ((e.map (·.entryFmt)).getD 0)).1, stBadParam), s.stateCheck c]

/-- EXCHANGE (11 R322, 12 R375). -/
def execExchange (src : CmdSrc) (s : State) : Host.Outcome State Fault Refusal :=
  .next (s.startCmd src (wants 0x0301) checksExchange fun s c => s.exchangeGo 4 c.id)

/-- Checks of SCALE_SET (11 R329, R348, 12 R374, R375). -/
def checksScale (s : State) (c : Cmd) : List (Bool × BitVec 16) :=
  [(c.rsvBad [(0, 64)], stBadParam)] ++ s.genCheck c ++
  [(match s.collEntry (BitVec.ofNat 16 (c.par 0 16)) with
    | none => true
    | some e => c.par 32 16 == 0 || decide (e.nbkt.toNat < c.par 16 16 + c.par 32 16), stBadParam), s.stateCheck c]

/-- SCALE_SET writes Q with `SET` 1 for a range of buckets (11 R329). -/
def execScaleSet (src : CmdSrc) (s : State) : Host.Outcome State Fault Refusal :=
  .next (s.startCmd src (wants 0x0302) checksScale fun s c =>
    let base := ((s.collEntry (BitVec.ofNat 16 (c.par 0 16))).map fun e => e.sbase.toNat).getD 0 + c.par 16 16
    ((List.range (c.par 32 16)).foldl (fun s i =>
      s.xscaleWrite (base + i) (codeOf 16 true (c.par 48 16)) true false) s).endCmd c stOk 0 0)

end Sys2Proof.Machine
end

