-- ==== Sys2Proof/Machine/HostGroup.lean ====
section
/-! DEFINITION. The shared window, doorbells, command fetch, queue control, mailboxes, NOP_ECHO and MODULE_INFO (12). -/

namespace Sys2Proof.Machine

/-- Whether the endpoint answers (15 R457). -/
def State.pcieUp (s : State) : Bool := s.power.endpoint == .ready

/-- Whether the endpoint trains and answers configuration requests with Request Retry Status (15 R457); in a pattern test of class 3 its link is
not in L0 (14 R442). -/
def State.retrying (s : State) : Bool := s.power.endpoint == .starting && !(s.silent.lpState == 1 && s.silent.lpClass == 3)

/-- Whether the host reaches the BARs: the endpoint answers, and the host has enabled Memory Space (15 R457, R459). -/
def State.linked (s : State) : Bool := s.pcieUp && s.power.memSpace

/-- A host access completes with Unsupported Request, which AER reports (12 R358). -/
def State.unsupported (s : State) : State := (s.send .unsupported).send .aer

/-- Whether a host access of n bytes can reach BAR2 as one request: inside the BAR and within 4 KiB, as PCIe requires of a request. -/
def State.windowHit (s : State) (off n : Nat) : Bool :=
  s.linked && n != 0 && decide (off % 4096 + n ≤ 4096) && decide (off / 2 ^ 21 < s.host.winPages)

/-- The words that bytes [off, off + n) of a region touch, as offsets. -/
def touched (off n : Nat) : List Nat := (List.range ((off % 32 + n + 31) / 32)).map fun i => off / 32 * 32 + 32 * i

/-- Words of a region are read for the host, in order. -/
def State.hostWords (s : State) (region : Nat) (offs : List Nat) : List RWord × State :=
  offs.foldl (fun (x : List RWord × State) o =>
    let (w, s) := x.2.readWord .io region o
    (x.1 ++ [w], s)) ([], s)

/-- HOST_WINDOW_READ (09 R273, R279, 12 R385, R386). -/
def execHostWindowRead (off len : Nat) (s : State) : Host.Outcome State Fault Refusal :=
  let page := off / 2 ^ 21
  let e := spGet WinEntry.reset s.host.window page
  .next (
    if !s.windowHit off len then s
    else if s.ident.state = 0x1 then s.unsupported
    else if e.owner = 1 ∨ e.owner = 3 then
      let o := 2 ^ 21 * e.ppn.toNat + off % 2 ^ 21
      let (ws, s) := s.hostWords e.region.toNat (touched o len)
      let bytes := ws.flatMap fun w => leBytes 32 (if w.poison then 0 else w.data.toNat)
      s.send (.hostReply ((bytes.drop (o % 32)).take len) (ws.any (·.poison)))
    else (s.ownRefused false false page).send (.hostReply (List.replicate len 0) true))

/-- Bytes are written into words of a region from an offset on; `ep`: every touched word becomes the poison code word (09 R279,
12 R386). -/
def State.hostBytes (s : State) (region o : Nat) (bytes : List Byte) (ep : Bool) : State :=
  (touched o bytes.length).foldl (fun (s : State) w =>
    let lo := max w o
    let hi := min (w + 32) (o + bytes.length)
    let mine := (bytes.drop (lo - o)).take (hi - lo)
    let data := packBits 8 (mine.map (·.toNat)) * 256 ^ (lo - w)
    let mask := (2 ^ (hi - lo) - 1) * 2 ^ (lo - w)
    s.writeWord .io region w (BitVec.ofNat 256 data) (BitVec.ofNat 32 mask) ep) s

/-- HOST_WINDOW_WRITE (09 R273, R279, 12 R385, R386). -/
def execHostWindowWrite (off : Nat) (bytes : List Byte) (ep : Bool) (s : State) : Host.Outcome State Fault Refusal :=
  let page := off / 2 ^ 21
  let e := spGet WinEntry.reset s.host.window page
  .next (
    if !s.windowHit off bytes.length then s
    else if s.ident.state = 0x1 then s.unsupported
    else
      let s := if ep then s.send .aer else s
      if e.owner = 1 then s.hostBytes e.region.toNat (2 ^ 21 * e.ppn.toNat + off % 2 ^ 21) bytes ep
      else s.ownRefused true false page)

/-- CMD_TAIL_DOORBELL (12 R362). -/
def execCmdTailDoorbell (q : Fin 8) (value : Reg) (s : State) : Host.Outcome State Fault Refusal :=
  let v := value.toNat % 65536
  .next (
    if !s.linked then s
    else if (s.queue q).cmdCount ≤ v then s.modQueue q fun x => { x with dbErr := true }
    else s.modQueue q fun x => { x with cmdTail := BitVec.ofNat 16 v })

/-- CPL_HEAD_DOORBELL: held entries are written as far as the ring has room; with none left the queue runs again (12 R362, R364). -/
def execCplHeadDoorbell (q : Fin 8) (value : Reg) (s : State) : Host.Outcome State Fault Refusal :=
  let v := value.toNat % 65536
  .next (
    if !s.linked then s
    else if (s.queue q).cplCount ≤ v then s.modQueue q fun x => { x with dbErr := true }
    else
      let s := s.modQueue q fun x => { x with cplHead := BitVec.ofNat 16 v }
      s.releaseHeld ((s.queue q).held.length + 1) q)

/-- Commands fetched from a queue and not completed (12 R362). -/
def State.inHand (s : State) (q : Fin 8) : Nat := (s.host.cmds.filter fun c => c.src == .queue q && !c.replied).length

/-- Commands fetched from all queues and not completed (12 R362). -/
def State.inHandAll (s : State) : Nat :=
  (s.host.cmds.filter fun c => (match c.src with
    | .queue _ => true
    | .mailbox _ => false) && !c.replied).length

/-- Whether a queue fetches (12 R361, R362, R364, R365, 13 R415). -/
def State.fetches (s : State) (q : Fin 8) : Bool :=
  let x := s.queue q
  x.enable && x.state == .running && decide (x.cmdSize.toNat < 13) && decide (x.cplSize.toNat < 13) && x.cmdHead != x.cmdTail
    && s.ident.jobOpen && (s.ident.state == 0x3 || s.ident.state == 0xF) && decide (s.inHand q < 64) && decide (s.inHandAll < 256)

/-- What the fetch of a command with a step does to the job: `BEGUN` (13 R397) and a trunk rate that was to apply (R402). -/
def State.fetchedStep (s : State) (step : BitVec 32) (stepped : Bool) : State :=
  let j := s.job
  let begun := if stepped ∧ j.begun.toNat < step.toNat then step else j.begun
  let s := { s with job := { j with begun := begun, worked := j.worked || stepped } }
  if j.pendValid ∧ j.pendStep.toNat ≤ step.toNat then
    match j.pendTrunk with
    | some r => { s with erg := { s.erg with trunkRate := r }, job := { s.job with pendTrunk := none } }
    | none => s
  else s

/-- A command packet is in hand, not started. -/
def Cmd.fresh (id : Nat) (src : CmdSrc) (sender : BitVec 12) (raw : BitVec 512) (poison : Bool) (step : Option (BitVec 32))
    (refused : Bool) : Cmd :=
  { id := id, src := src, sender := sender, raw := raw, poison := poison, step := step, refused := refused, started := false,
    limit := 0, replied := false, orphan := false, failed := 0, flags := 0, progress := 0, phase := 0, waits := [], got := [],
    accA := 0, accB := 0, kept := 0 }

/-- A packet joins the commands in hand; one that checks 1 and 2 refuse is completed when it is its turn to start. -/
def State.takePacket (s : State) (c : Cmd) : State :=
  ({ s with host := { s.host with cmds := s.host.cmds ++ [c], nextId := s.host.nextId + 1 } } : State).flushBad
    (s.host.cmds.length + 1)

/-- COMMAND_FETCH: the next announced packet of a queue is read from its ring (12 R360, R362, R365, 13 R396, R398, R407). The header
of a packet whose first word is poisoned is a free value. -/
def execCommandFetch (q : Fin 8) (s : State) : Host.Outcome State Fault Refusal :=
  .next (
    if !s.fetches q then s
    else
      let x := s.queue q
      let off := x.cmdBase.toNat + 64 * x.cmdHead.toNat
      let page := off / 2 ^ 21
      let e := spGet WinEntry.reset s.host.window page
      if s.host.winPages ≤ page ∨ e.owner ≠ 1 then
        s.modQueue q fun x => { x with state := .error, err := stOwnership }
      else
        let o := 2 ^ 21 * e.ppn.toNat + off % 2 ^ 21
        let (w0, s) := s.readWord .io e.region.toNat o
        let (w1, s) := s.readWord .io e.region.toNat (o + 32)
        let (z, s) := if w0.poison then s.draw 6 else (w0.data.toNat, s)
        let raw := BitVec.ofNat 512 (z % 2 ^ 256 + 2 ^ 256 * w1.data.toNat)
        let poison := w0.poison || w1.poison
        let step := x.qstep
        let stepped : Bool := !poison && isStepped (raw.toNat % 65536)
        let info := spGet StepInfo.reset s.job.steps step.toNat
        let closed := info.reported || s.job.closing.any fun k => k.step == step && k.sent
        let refused : Bool := stepped && (closed || decide (step.toNat ≤ s.job.committed.toNat)
          || (s.job.fence && decide (s.job.fenceStep.toNat ≤ step.toNat)))
        let s := s.modQueue q fun x => { x with cmdHead := BitVec.ofNat 16 ((x.cmdHead.toNat + 1) % x.cmdCount) }
        let s := s.fetchedStep step stepped
        s.takePacket (Cmd.fresh s.host.nextId (.queue q) 0x001 raw poison (some step) refused))

/-- A write of `CQq_CTRL` (12 R361). -/
def State.writeQctrl (s : State) (q : Fin 8) (v : Nat) : State :=
  let x := s.queue q
  let on : Bool := bitsOf v 0 1 == 1
  let irq : Bool := bitsOf v 9 1 == 1
  if x.enable then
    if on then s.modQueue q fun x => { x with irqAll := irq }
    else
      let idle : Bool := s.inFlight q == 0
      s.modQueue q fun x =>
        { x with enable := false, irqAll := irq, err := 0,
                 state := if idle then .disabled else if x.state = .error then .running else x.state }
  else
    let s := s.modQueue q fun x =>
      { x with cmdSize := BitVec.ofNat 4 (bitsOf v 1 4), cplSize := BitVec.ofNat 4 (bitsOf v 5 4), irqAll := irq }
    if on then
      let s := s.modQueue q fun x =>
        { x with enable := true, state := .running, cmdHead := 0, cplTail := 0, cmdTail := 0, cplHead := 0, phase := true }
      s.releaseHeld ((s.queue q).held.length + 1) q
    else s

/-- QUEUE_ENABLE: a `CQq_CTRL` write with `ENABLE` 1 (12 R361). -/
def execQueueEnable (q : Fin 8) (value : Reg) (s : State) : Host.Outcome State Fault Refusal :=
  .next (if s.linked && value.getLsbD 0 then s.writeQctrl q value.toNat else s)

/-- QUEUE_DISABLE: a `CQq_CTRL` write with `ENABLE` 0 (12 R361). -/
def execQueueDisable (q : Fin 8) (value : Reg) (s : State) : Host.Outcome State Fault Refusal :=
  .next (if s.linked && !value.getLsbD 0 then s.writeQctrl q value.toNat else s)

/-- NOP_ECHO (12 R368, R513). -/
def execNopEcho (src : CmdSrc) (s : State) : Host.Outcome State Fault Refusal :=
  .next (s.startCmd src (wants 0x0001) (fun s c => [(c.rsvBad [(0, 128)], stBadParam), s.stateCheck c]) fun s c =>
    s.endCmd c stOk 0 (c.par 0 128))

/-- MODULE_IDENT to MODULE_STATE by word (01 R26). -/
def State.identReg (s : State) (i : Nat) : Nat :=
  let x := s.ident
  match i with
  | 0 => 0x2D5 + 0x5A09 * 2 ^ 12
  | 1 => s.coreCount + 2 ^ 8 * x.lpddrGib.toNat + 2 ^ 24 * x.stepping.toNat
  | 2 => x.slot.toNat + 2 ^ 6 * x.rack.toNat + 2 ^ 12 * x.hall.toNat + (if x.coordLock then 2 ^ 31 else 0)
  | 3 => x.id.toNat
  | 4 => x.state.toNat + 2 ^ 8 * x.generation.toNat + (if x.jobOpen then 2 ^ 16 else 0)
  | _ => 0

/-- MODULE_INFO (12 R375, R376). -/
def execModuleInfo (src : CmdSrc) (s : State) : Host.Outcome State Fault Refusal :=
  .next (s.startCmd src (wants 0x0010) (fun s c => [(c.rsvBad [(0, 64)], stBadParam), s.stateCheck c]) fun s c =>
    let map := s.ident.enabled.toNat
    match c.src with
    | .queue _ =>
      let regs := packBits 32 ((List.range 5).map s.identReg)
      (s.dma (c.par 0 64) (leBytes 64 (regs + 2 ^ 256 * map))).endCmd c stOk 0 0
    | .mailbox m =>
      let s := if c.orphan then s else s.modMail m fun x =>
        { x with data := (List.finRange 8).foldl (fun (d : Vector Reg 16) i =>
            d.set (8 + i.val) (BitVec.ofNat 32 (map / 2 ^ (32 * i.val)))) x.data }
      s.endCmd c stOk 0 0)

/-- Code of a mailbox's receiver (12 R380). -/
def Mailbox.receiver (x : Mailbox) (m : Fin 16) : BitVec 12 :=
  if m.val < 6 then 0x002 else if m.val < 8 then 0x004 else if m.val < 12 then 0x001 else if m.val < 14 then 0x003
  else 0x100 + x.target.setWidth 12

/-- Whether an agent may send through a mailbox (12 R380). -/
def mailPermits (m : Fin 16) (a : Agent) : Bool :=
  match a with
  | .host => decide (m.val < 8) || decide (14 ≤ m.val)
  | .mgmt => decide (6 ≤ m.val)
  | .rmc => decide (m.val < 8)
  | .notar => decide (m.val < 6) || (decide (8 ≤ m.val) && decide (m.val < 14))
  | .core _ => decide (m.val < 6) || (decide (8 ≤ m.val) && decide (m.val < 12))

/-- Whether Notar works: PD1 is up (15 R458). -/
def State.notarUp (s : State) : Bool :=
  s.power.stage != .auxOff && s.power.stage != .auxRising && s.power.stage != .island

/-- Whether the I3C target answers; not while the reference is switched (15 R447, R450, R458, 16 R480). -/
def State.i3cUp (s : State) : Bool := s.power.i3cOn && s.notarUp && !s.power.clocksStopped

/-- Whether an agent reaches a mailbox: the host over PCIe, the RMC over I3C, a core controller while the cores run, the management
processor while it runs. While Notar serves the recovery set, only 6 and 7 answer the RMC (16 R477). -/
def State.agentUp (s : State) (m : Fin 16) (a : Agent) : Bool :=
  match a with
  | .host => s.linked
  | .rmc => s.i3cUp && (s.notar.fwRuns || m.val == 6 || m.val == 7)
  | .core n => s.coresRun && decide (n < s.coreCount)
  | .mgmt => s.notarUp && s.mgmtUp
  | .notar => s.notarUp

/-- A write to a mailbox is ignored (12 R381). -/
def State.mailRefused (s : State) (m : Fin 16) : State := s.modMail m fun x => { x with refused := true }

/-- `CLAIM` of a mailbox by an agent (12 R381). -/
def State.mailClaim (s : State) (m : Fin 16) (a : Agent) : State :=
  if (s.mailbox m).state = .free ∧ mailPermits m a then
    s.modMail m fun x => { x with state := .claimed, sender := agentCode a, taken := false }
  else s.mailRefused m

/-- Whether main power is off, or on its way there: no domain of the host's or a core controller's can come up (12 R382, 15 R456,
R462). -/
def State.mainOff (s : State) : Bool :=
  match s.power.stage with
  | .rails | .training | .filling | .on => false
  | .auxOff | .auxRising | .island | .standby | .goingOff => true

/-- `GO` of a mailbox by an agent (12 R381, R382, R384). -/
def State.mailGo (s : State) (m : Fin 16) (a : Agent) : State :=
  let x := s.mailbox m
  if x.state = .claimed ∧ x.sender = agentCode a then
    let s := s.modMail m fun x => { x with state := .sent, taken := false }
    if 14 ≤ m.val ∧ s.coreCount ≤ x.target.toNat then s.ackMail m stNoSuchEngine
    else if (14 ≤ m.val ∨ x.receiver m = 0x001) ∧ s.mainOff then s.ackMail m stBadState
    else s.notice (x.receiver m)
  else s.mailRefused m

/-- The replies to a mailbox's message will be ignored (12 R383). -/
def State.orphan (s : State) (m : Fin 16) : State :=
  { s with host := { s.host with cmds := s.host.cmds.map fun c => if c.src = .mailbox m then { c with orphan := true } else c } }

/-- `RELEASE` of a mailbox by an agent (12 R381). -/
def State.mailRelease (s : State) (m : Fin 16) (a : Agent) : State :=
  let x := s.mailbox m
  if x.state ≠ .free ∧ x.sender = agentCode a then
    (s.modMail m fun x => { x with state := .free, sender := 0, taken := false }).orphan m
  else s.mailRefused m

/-- `CODE` of a mailbox written by an agent (12 R381, R383). -/
def State.mailCode (s : State) (m : Fin 16) (a : Agent) (v : BitVec 16) : State :=
  let x := s.mailbox m
  if x.state = .sent ∧ x.receiver m = agentCode a then (s.ackMail m v).orphan m else s.mailRefused m

/-- CLAIM (12 R381). -/
def execClaim (m : Fin 16) (by_ : Agent) (s : State) : Host.Outcome State Fault Refusal :=
  .next (if s.agentUp m by_ then s.mailClaim m by_ else s)

/-- GO (12 R381, R382, R384). -/
def execGo (m : Fin 16) (by_ : Agent) (s : State) : Host.Outcome State Fault Refusal :=
  .next (if s.agentUp m by_ then s.mailGo m by_ else s)

/-- RELEASE (12 R381); one that meets the receiver's `CODE` in its control cycle is ignored (R383). -/
def execRelease (m : Fin 16) (by_ : Releaser) (s : State) : Host.Outcome State Fault Refusal :=
  .next (if s.agentUp m by_.agent && !by_.met then s.mailRelease m by_.agent else s)

/-- CODE (12 R381). -/
def execCode (m : Fin 16) (by_ : Agent) (value : BitVec 16) (s : State) : Host.Outcome State Fault Refusal :=
  .next (if s.agentUp m by_ then s.mailCode m by_ value else s)

/-- The agent that receives a mailbox's messages (12 R380). -/
def Mailbox.agent (x : Mailbox) (m : Fin 16) : Agent :=
  if m.val < 6 then .mgmt else if m.val < 8 then .notar else if m.val < 12 then .host else if m.val < 14 then .rmc
  else .core x.target.toNat

/-- The 512 bits of a mailbox's `DATA`. -/
def Mailbox.packet (x : Mailbox) : BitVec 512 := BitVec.ofNat 512 (packBits 32 (x.data.toList.map (·.toNat)))

/-- MAILBOX_DELIVERY: the message of a Sent mailbox reaches its receiver (12 R382): the management processor takes a command packet
(13 R392), Notar one of ATTEST, FW_UPDATE and CAIRN_READ (16 R479). -/
def execMailboxDelivery (m : Fin 16) (s : State) : Host.Outcome State Fault Refusal :=
  let x := s.mailbox m
  .next (
    if x.state ≠ .sent ∨ x.taken ∨ s.agentUp m (x.agent m) = false then s
    else
      let s := s.modMail m fun x => { x with taken := true }
      if 8 ≤ m.val then s
      else
        let c := Cmd.fresh s.host.nextId (.mailbox m) x.sender x.packet false none false
        if 6 ≤ m.val ∧ (c.opc < 0x0600 ∨ 0x0602 < c.opc) then
          s.replyTo c (cplEntry stBadState (BitVec.ofNat 16 c.opc) c.seq 0 0 0 0) stBadState
        else s.takePacket c)

end Sys2Proof.Machine
end

