-- ==== Sys2Proof/Machine/Silent.lean ====
section
/-! DEFINITION. The step report, the fingerprint record and REPLAY's outcome (13 R398 to R400, 14 R429 to R433), a core after
COMPUTE_RESET, margins, patrol tests and link patterns (14). -/

namespace Sys2Proof.Machine

/-- The commit mode in force for a step (13 R402). -/
def JobRegs.inplaceFor (j : JobRegs) (step : BitVec 32) : Bool :=
  if j.pendValid ∧ j.pendStep.toNat ≤ step.toNat then j.pendInplace else j.inplace

/-- `STATUS` of a step's report: the first row that matches (13 R399). -/
def StepInfo.result (x : StepInfo) : BitVec 16 :=
  if x.poisonHalt || x.bstat1 then stPoison
  else if x.bstat2 then stCheckFail
  else if x.bstat3 then stEpochMismatch
  else if x.timeout || x.bstat4 then stTimeout
  else if x.hung then stHung
  else if x.other then stBadState
  else if x.flags &&& (flagSat ||| flagRange ||| flagAccOvf ||| flagXInexact) ≠ 0 then stInexact
  else stOk

/-- Whether a step whose report has this status is committable (13 R399). -/
def committable (st : BitVec 16) : Bool := st == stOk || st == stInexact

/-- `DETAIL` of a step's report (13 R400). -/
def State.reportDetail (s : State) (step : BitVec 32) (x : StepInfo) : Nat :=
  let b := fun (p : Bool) (i : Nat) => if p then 2 ^ i else 0
  step.toNat + 2 ^ 32 * (s.job.epochFor step).toNat + b x.hallExact 40 + b x.hallArrival 41 + b (committable x.result) 42
    + b (s.job.inplaceFor step) 43 + 2 ^ 64 * x.nbad.toNat + 2 ^ 80 * x.nwatch.toNat + 2 ^ 96 * x.nhalt.toNat

/-- Words of a step's fingerprint record (14 R429). -/
def State.fpRecord (s : State) (step : BitVec 32) (x : StepInfo) (replay : Bool) : List Nat :=
  let l := s.silent.fpLayers
  let h := step.toNat + 2 ^ 32 * s.job.rank.toNat + 2 ^ 44 * s.ident.id.toNat + 2 ^ 56 * s.ident.generation.toNat
    + 2 ^ 64 * x.result.toNat + 2 ^ 80 * x.flags.toNat + (if replay then 2 ^ 88 else 0) + 2 ^ 96 * l
  h :: (List.range l).map fun i => packBits 64 ([1, 2, 3, 4].map fun k => (spGet 0 s.silent.table (fpKey step i k)).toNat)

/-- Fingerprint entries of a step, and of those after it, are dropped (14 R430). -/
def Silent.dropFrom (x : Silent) (step : Nat) : Silent := { x with table := x.table.filter fun e => e.1 < 16384 * step }

/-- Fingerprint entries of a step are dropped once its record is written. -/
def Silent.dropStep (x : Silent) (step : Nat) : Silent := { x with table := spDrop x.table (16384 * step) 16384 }

/-- Which entries of a record a REPLAY compares, in order: layer, kind (14 R431, R432). -/
def replayOrder (l : Nat) (kmask : BitVec 4) : List (Nat × Nat) :=
  let on := fun (k : Nat) => kmask == 0 || kmask.getLsbD k
  let up := List.range l
  (up.map fun i => (i, 0)) ++ (up.reverse.flatMap fun i => [(i, 2), (i, 1)]) ++ (up.map fun i => (i, 3)) |>.filter fun x => on x.2

/-- Status and `DETAIL` of a REPLAY's outcome (14 R432): entries of the own record against those of the reference; a poisoned word of
the reference agrees with nothing. -/
def replayResult (own : List Nat) (ref : List (Nat × RWord)) (l : Nat) (kmask : BitVec 4) : BitVec 16 × Nat :=
  let differs := (replayOrder l kmask).filter fun (i, k) =>
    let w := gotAt ref (i + 1)
    w.poison || bitsOf (own.getD (i + 1) 0) (64 * k) 64 != bitsOf w.data.toNat (64 * k) 64
  let h := (gotAt ref 0).data.toNat
  let tail := 2 ^ 32 * bitsOf h 32 12 + 2 ^ 44 * bitsOf h 44 12
  match differs with
  | [] => (stOk, tail)
  | (i, k) :: _ => (stCheckFail, i + 2 ^ 12 * k + 2 ^ 14 + 2 ^ 16 * min 65535 differs.length + tail)

/-- The outcome entry of an armed REPLAY is written, and it is no longer armed (14 R431, R433). Once its timeout reply has been
written, its end is discarded and counted (12 R379). -/
def State.replayOutcome (s : State) (r : Replay) (status : BitVec 16) (detail : Nat) : State :=
  let s := { s with silent := { s.silent with replay := none } }
  let (t, s) := s.draw 5
  s.replyTo r.cmd (cplEntry status 0x0501 r.cmd.seq 0 0 (t % (r.cmd.limit + 1)) detail) status

/-- Whether a step has closed in the present control cycle. -/
def State.closesNow (s : State) (step : BitVec 32) : Bool := s.cycle.any fun k => k.closed.contains step

/-- An armed REPLAY is disarmed: its outcome is BAD_STATE. Where its step closes in the same control cycle the close wins: it stays armed for
the comparison that follows the report (14 R433). -/
def State.disarm (s : State) : State :=
  match s.silent.replay with
  | none => s
  | some r => if s.closesNow r.step then s else s.replayOutcome r stBadState 0

/-- The comparison of an armed REPLAY with the record of its step as it stands (14 R432). -/
def State.replayVerdict (s : State) (r : Replay) : BitVec 16 × Nat :=
  replayResult (s.fpRecord r.step (spGet StepInfo.reset s.job.steps r.step.toNat) true) r.cmd.got s.silent.fpLayers r.kmask

/-- The replay of an aborted step is disarmed; where the step closes in the same control cycle its outcome carries the comparison of the
record as it stood before the abort, `s0` (14 R433). -/
def State.abortReplay (s s0 : State) (step : BitVec 32) : State :=
  match s.silent.replay with
  | none => s
  | some r =>
    if r.step ≠ step then s
    else if s.closesNow step then let (st, det) := s0.replayVerdict r; s.replayOutcome r st det
    else s.replayOutcome r stBadState 0

/-- Whether all work of a step has ended on this module (13 R398). -/
def State.stepDone (s : State) (step : BitVec 32) : Bool :=
  !(s.host.cmds.any fun c => c.step == some step && !c.replied)
    && !(s.coll.insts.any fun i => i.id.step == step && i.phase != .done)
    && !(s.coll.known.any fun k => k.id.step == step)
    && !(s.coll.contribs.any fun x => x.id.step == step)
    && !(s.cores.any fun e => (e.2.ch.toList.any fun ch => ch.queue.any fun d => d.step == step)
          || e.2.qEntries.any fun q => q.desc.step == step)

/-- The close of a step whose report is owed changes. -/
def State.modClosing (s : State) (step : BitVec 32) (f : Closing → Closing) : State :=
  { s with job := { s.job with closing := s.job.closing.map fun k => if k.step = step then f k else k } }

/-- A step's report is written, then an armed REPLAY's outcome (13 R398, 14 R431). A close that a mailbox command asked for has no ring
for its report. -/
def State.reportStep (s : State) (k : Closing) : State :=
  let x := spGet StepInfo.reset s.job.steps k.step.toNat
  let mine := s.silent.replay.filter fun r => r.step == k.step
  let s0 := s
  let st := x.result
  let det := s.reportDetail k.step x
  let s := { s with job := { s.job with closing := s.job.closing.filter fun c => c.step != k.step } }
  let s := { s with silent := s.silent.dropStep k.step.toNat }
  let s := match k.src with
    | .queue q => s.postEntry q (cplEntry st 0x0403 k.seq 4 x.flags 0 det) true
    | .mailbox _ => s
  let s := s.modStep k.step fun x => { x with reported := true, committable := committable st, status := st }
  match mine with
  | some r => let (rs, rd) := s0.replayVerdict r; s.replayOutcome r rs rd
  | none => s

/-- A step whose fingerprint record has been written reports (14 R429). -/
def State.reportReady (s : State) (step : BitVec 32) : State :=
  match s.job.closing.find? fun k => k.step == step && k.sent && k.tags.isEmpty with
  | some k => s.reportStep k
  | none => s

/-- A step closes: its fingerprint record is written, and once every write of it has taken effect its report follows (13 R398, 14
R429). -/
def State.closeStep (s : State) (k : Closing) : State :=
  let x := spGet StepInfo.reset s.job.steps k.step.toNat
  let own := s.fpRecord k.step x (s.silent.replay.any fun r => r.step == k.step)
  let l := s.silent.fpLayers
  let s := s.mark fun m => { m with closed := k.step :: m.closed }
  if k.sent then s
  else if l = 0 then s.reportStep k
  else
    let (tags, _, s) := s.writeOut (.record k.step) none (adrAdd s.job.trail (k.step.toNat % 1024 * (32 + 32 * l) : Nat))
      (own.map fun w => encodeWord (BitVec.ofNat 256 w))
    (s.modClosing k.step fun k => { k with sent := true, tags := tags }).reportReady k.step

/-- A write of a step's fingerprint record has been answered. A refused one holds nothing up (DESIGN CHOICE, log 107). -/
def State.recordAnswered (s : State) (step : BitVec 32) (tag : Nat) : State :=
  (s.modClosing step fun k => { k with tags := k.tags.filter (· != tag) }).reportReady step

/-- STEP_CLOSE (13 R398). -/
def execStepClose (step : BitVec 32) (s : State) : Host.Outcome State Fault Refusal :=
  .next (match s.job.closing.find? fun k => k.step == step with
    | some k => if s.stepDone step then s.closeStep k else s
    | none => s)

/-- The reference of a REPLAY has been read: it arms, or is refused (14 R431). The reference is read when it arms (DESIGN CHOICE,
log 34). -/
def State.replayGo (s : State) (id : Nat) : State :=
  match s.cmdOf id with
  | none => s
  | some c =>
    let h := c.word 0
    if !c.waits.isEmpty then s
    else if c.failed ≠ 0 then s.endCmd c c.failed 0 0
    else if c.replied then s.endCmd c stTimeout 0 0
    else if h.poison ∨ bitsOf h.data.toNat 0 32 ≠ c.par 0 32 ∨ bitsOf h.data.toNat 96 13 ≠ s.silent.fpLayers then
      s.endCmd c stBadParam 0 0
    else
      let r : Replay :=
        { cmd := c, step := BitVec.ofNat 32 (c.par 0 32), ref := BitVec.ofNat 64 (c.par 64 64), kmask := BitVec.ofNat 4 (c.par 128 4) }
      let s := s.endCmd c stAccepted 0 0
      { s with silent := { s.silent with replay := some r, replayStep := r.step } }

/-- Checks of REPLAY with `OP` 0 (14 R431). -/
def checksReplay (s : State) (c : Cmd) : List (Bool × BitVec 16) :=
  let step := BitVec.ofNat 32 (c.par 0 32)
  [(c.rsvBad [(0, 32), (32, 1), (64, 64), (128, 4)], stBadParam)] ++ s.genCheck c ++
  [s.stateCheck c, (step != s.job.committed + 1 || s.job.begun != s.job.committed || s.silent.fpLayers == 0 || s.silent.replay.isSome,
    stBadState)]

/-- REPLAY (14 R431). -/
def execReplay (src : CmdSrc) (s : State) : Host.Outcome State Fault Refusal :=
  .next (s.startCmd src (fun c => c.opc == 0x0501 && c.par 32 1 == 0) checksReplay fun s c =>
    (s.cmdRead c 0 (BitVec.ofNat 64 (c.par 64 64)) (1 + s.silent.fpLayers)).replayGo c.id)

/-- REPLAY_DISARM (14 R433). -/
def execReplayDisarm (src : CmdSrc) (s : State) : Host.Outcome State Fault Refusal :=
  .next (s.startCmd src (fun c => c.opc == 0x0501 && c.par 32 1 == 1)
    (fun s c => [(c.rsvBad [(0, 32), (32, 1), (64, 64), (128, 4)], stBadParam)] ++ s.genCheck c ++ [s.stateCheck c])
    fun s c => s.disarm.endCmd c stOk 0 0)

/-- A core as COMPUTE_RESET and a patrol leave it: at reset, its memory log kept (13 R417, 14 R440). -/
def Core.resetKept (c : Core) : Core := { Core.reset with log := { c.log with at_ := none }, draws := c.draws }

/-- Margin entry of a core: requested steps, clock setting in force (14 R443). -/
def State.margin (s : State) (p : Nat) : BitVec 5 := spGet 0 s.silent.margins p

/-- The rail offset that the cores of a die ask for (14 R437). -/
def Silent.wantedOffset (x : Silent) (d : Nat) : Nat :=
  (x.margins.filter fun e => e.1 / 56 == d).foldl (fun m e => max m (bitsOf e.2.toNat 0 3)) 0

/-- The clock setting of a core takes effect (14 R438). -/
def State.setClock (s : State) (p clk : Nat) : State :=
  { s with silent := { s.silent with
      margins := spMod 0 s.silent.margins p fun e => BitVec.ofNat 5 (bitsOf e.toNat 0 3 + clk * 8) } }

/-- MARGIN_SET completes: its record, its reply (14 R438, 16 R492). -/
def State.marginEnd (s : State) (c : Cmd) : State :=
  if c.replied then s.endCmd c stTimeout 0 0
  else
    let p := c.par 0 8
    let d : Fin 4 := ⟨p / 56 % 4, Nat.mod_lt _ (by decide)⟩
    let s := if c.phase = 2 then s.setClock p (c.par 11 2) else s
    (s.record 0x0032 1 [BitVec.ofNat 8 p, BitVec.ofNat 8 (c.par 8 3), BitVec.ofNat 8 (c.par 11 2),
      (s.silent.voff[d]).setWidth 8]).endCmd c stOk 0 0

/-- MARGIN_SET (14 R436 to R438): phase 1, the clock has been set and the rail rises; phase 2, the rail falls and the clock follows. -/
def execMarginSet (src : CmdSrc) (s : State) : Host.Outcome State Fault Refusal :=
  .next (s.startCmd src (wants 0x0502)
    (fun s c =>
      [(c.rsvBad [(0, 8), (8, 3), (11, 2)] || 4 < c.par 8 3, stBadParam),
       (decide (c.par 0 8 < 224) && !s.coreOn (c.par 0 8), stEngineFused), (decide (224 ≤ c.par 0 8), stBadParam), s.stateCheck c])
    fun s c =>
      let p := c.par 0 8
      let d : Fin 4 := ⟨p / 56 % 4, Nat.mod_lt _ (by decide)⟩
      let old := s.silent.voff[d]
      let s := { s with silent := { s.silent with
        margins := spMod 0 s.silent.margins p fun e => BitVec.ofNat 5 (c.par 8 3 + bitsOf e.toNat 3 2 * 8) } }
      let new := BitVec.ofNat 3 (s.silent.wantedOffset d.val)
      let lower := decide (new.toNat < old.toNat)
      let s : State := if lower then s else s.setClock p (c.par 11 2)
      let c := { c with phase := if lower then 2 else 1, progress := if lower then 0 else 1 }
      let s := s.keepCmd c
      if new == old && s.silent.settled[d] then s.marginEnd c
      else { s with silent := { s.silent with voff := s.silent.voff.set d new, settled := s.silent.settled.set d false } })

/-- MARGIN_RAIL_SETTLED (14 R438). -/
def execMarginRailSettled (die : Fin 4) (s : State) : Host.Outcome State Fault Refusal :=
  let s' := { s with silent := { s.silent with settled := s.silent.settled.set die true } }
  .next (if s.silent.settled[die] then s
    else
      match s.host.cmds.find? fun c => c.opc == 0x0502 && c.started && c.par 0 8 / 56 == die.val with
      | some c => s'.marginEnd c
      | none => s')

/-- The patrol package that is loaded: the words of its image (16 R474, R477). -/
def Notar.patrolImage (n : Notar) : Sparse Data := (spGet FwSlot.reset n.slots (if n.active3 then 7 else 3)).words

/-- Physical cores that a mask names. -/
def maskPhys (m : Nat) : List Nat := (List.range 224).filter fun p => m.testBit p

/-- Checks of DIAG_PATROL (14 R439, 12 R374). -/
def checksPatrol (s : State) (c : Cmd) : List (Bool × BitVec 16) :=
  let cores := maskPhys (c.par 0 224)
  let items := Config.patrolItems s.notar.patrolImage
  let claimed := fun (p : Nat) => s.host.cmds.any fun d => d.started &&
    (((d.opc == 0x0200 || d.opc == 0x0201) && (s.physCores (d.par 0 224)).contains p) || (d.opc == 0x0505 && (d.par 69 224).testBit p))
  [(c.rsvBad [(0, 224), (224, 16), (240, 8)], stBadParam), (cores.any fun p => !s.coreOn p, stEngineFused),
   (c.par 240 8 == 0 || (s.notar.patrolOk && c.par 224 16 != 0xFFFF && !items.contains (c.par 224 16)), stBadParam),
   s.stateCheck c, (!s.notar.patrolOk, stBadState),
   (cores.any fun p => [(s.core p).f, (s.core p).b, (s.core p).u].any (fun st => st.state == .running || st.state == .waiting) || claimed p,
    stBusy)]

/-- DIAG_PATROL (14 R439). -/
def execDiagPatrol (src : CmdSrc) (s : State) : Host.Outcome State Fault Refusal :=
  .next (s.startCmd src (wants 0x0500) checksPatrol fun s c =>
    { s with silent := { s.silent with
        patrol := some { cmd := c.id, cores := maskPhys (c.par 0 224), test := BitVec.ofNat 16 (c.par 224 16),
                         reps := BitVec.ofNat 8 (c.par 240 8) } } })

/-- The setting at which a core's tests run: its clock setting, and the voltage steps in force on its die (14 R436 to R438, R440). -/
def State.testSetting (s : State) (p : Nat) : Nat × Nat := (bitsOf (s.margin p).toNat 3 2, (s.silent.voff.toList.getD (p / 56) 0).toNat)

/-- Failing runs of a patrol, core by core, repetition by repetition (14 R440): core and item. What an item finds is a free value of the
package, the core, its setting, the item, the repetition and a number drawn for the patrol. -/
def State.patrolFailures (s : State) (image : Sparse Data) (items : List Nat) (r : PatrolRun) : List (Nat × Nat) :=
  r.cores.flatMap fun p => (List.range r.reps.toNat).flatMap fun k =>
    (items.filter fun i => Config.patrolFails image p (s.testSetting p) i (s.free + k)).map fun i => (p, i)

/-- The version in an image header (16 R475). -/
def imageVersion (image : Sparse Data) : Nat := bitsOf (spGet 0 image 0).toNat 64 32

/-- The records of a patrol: one for each failing run, then the summary (14 R440, 16 R492). -/
def State.patrolRecords (s : State) (bad : List (Nat × Nat)) (ver det : Nat) : State :=
  let rec_ := fun (s : State) (p i d : Nat) => s.record 0x0033 1 (leBytes 1 p ++ leBytes 2 i ++ leBytes 4 ver ++ leBytes 8 d)
  rec_ (bad.foldl (fun (s : State) x => rec_ s x.1 x.2 0) s) 0xFF 0 det

/-- DIAG_PATROL_END (14 R440, 16 R492). A patrol whose timeout reply has been written stops before its records (12 R378); its cores are
left as at its end (DESIGN CHOICE, log 108). -/
def execDiagPatrolEnd (s : State) : Host.Outcome State Fault Refusal :=
  .next (match s.silent.patrol with
    | none => s
    | some r =>
      let image := s.notar.patrolImage
      let items := if r.test = 0xFFFF then Config.patrolItems image else [r.test.toNat]
      let bad := s.patrolFailures image items r
      let s := { s with free := s.free + r.reps.toNat }
      let run := r.cores.length * r.reps.toNat * items.length
      let ver := imageVersion image
      let first := bad.headD (0xFF, 0)
      let det := run % 65536 + 2 ^ 16 * (bad.length % 65536) + 2 ^ 32 * first.1 + 2 ^ 40 * (first.2 % 65536)
      let s := if (s.cmdOf r.cmd).any (·.replied) then s else s.patrolRecords bad ver det
      let s := r.cores.foldl (fun (s : State) p => s.setCore p (s.core p).resetKept) s
      let s := { s with silent := { s.silent with patrol := none } }
      match s.cmdOf r.cmd with
      | some c => s.endCmd c (if bad.isEmpty then stOk else stCheckFail) 0 (det + 2 ^ 64 * ver)
      | none => s)

/-- Whether a LINK_PATTERN names a reserved class, index or pattern (14 R441). -/
def patternBad (cls idx pat : Nat) : Bool :=
  match cls with
  | 0 => decide (16 ≤ idx) || decide (4 ≤ pat)
  | 1 => decide (12 ≤ idx) || decide (2 ≤ pat)
  | 2 => decide (32 ≤ idx) || decide (2 ≤ pat)
  | 3 => idx != 0 || pat != 0
  | _ => true

/-- Checks of LINK_PATTERN (14 R441, R442, 12 R374). -/
def checksPattern (s : State) (c : Cmd) : List (Bool × BitVec 16) :=
  let cls := c.par 0 4
  let byHost : Bool := match c.src with
    | .mailbox _ => c.sender == 0x001
    | .queue _ => false
  [(c.rsvBad [(0, 4), (4, 8), (12, 8), (20, 2), (22, 16)] || patternBad cls (c.par 4 8) (c.par 12 8), stBadParam),
   (c.par 22 16 == 0, stBadParam), s.stateCheck c,
   (cls != 0 && s.ident.state != 0x2, stBadState), (cls == 3 && !byHost, stBadState),
   ((cls == 0 && s.erg.portEn.getLsbD (c.par 4 8)) || s.silent.lpState == 1, stBusy)]

/-- LINK_PATTERN (14 R441, R442). In class 3 the PCIe link leaves L0 for the duration. -/
def execLinkPattern (src : CmdSrc) (s : State) : Host.Outcome State Fault Refusal :=
  .next (s.startCmd src (wants 0x0503) checksPattern fun s c =>
    let s := if c.par 0 4 = 3 ∧ s.pcieUp then { s with power := { s.power with endpoint := .starting } } else s
    { s with silent := { s.silent with
        lpState := 1, lpClass := BitVec.ofNat 4 (c.par 0 4), lpIndex := BitVec.ofNat 8 (c.par 4 8), lpLock := true, lpErrors := 0,
        lpCmd := some c.id } })

/-- LINK_PATTERN_END (14 R442). -/
def execLinkPatternEnd (bits : BitVec 64) (errors : BitVec 32) (lanes : BitVec 8) (s : State) : Host.Outcome State Fault Refusal :=
  .next (match s.silent.lpCmd with
    | none => s
    | some id =>
      let s := if s.silent.lpClass = 3 ∧ s.power.endpoint = .starting then { s with power := { s.power with endpoint := .ready } } else s
      let s := { s with silent := { s.silent with lpState := 2, lpLock := lanes == 0, lpErrors := errors, lpCmd := none } }
      match s.cmdOf id with
      | some c => s.endCmd c (if errors = 0 ∧ lanes = 0 then stOk else stCheckFail) 0 (bits.toNat + 2 ^ 64 * errors.toNat + 2 ^ 96 * lanes.toNat)
      | none => s)

end Sys2Proof.Machine
end

