-- ==== Sys2Proof/Machine/Jobs.lean ====
section
/-! DEFINITION. Jobs, steps, commit, checkpoint, restore, spares, compute reset (13), except what waits for quiet. -/

namespace Sys2Proof.Machine

/-- Words of this module that an engine reads from a 32-byte-aligned address on: their data, or the first refusal; a poisoned one is
refused with POISON_CONSUMED. -/
def State.engineWords (n : Nat) (s : State) (addr : BitVec 64) : Except (BitVec 16) (List Nat) × State :=
  match n with
  | 0 => (.ok [], s)
  | k + 1 =>
    match s.serve .io 0x02 addr 0 0 31 [] with
    | (.data (w :: _), s) =>
      if w.poison then (.error stPoison, s)
      else
        match State.engineWords k s (adrAdd addr 32) with
        | (.ok ws, s) => (.ok (w.data.toNat :: ws), s)
        | (.error e, s) => (.error e, s)
    | (.refused st, s) => (.error st, s)
    | (_, s) => (.error stInternal, s)

/-- Whether an address is module-physical and names this module. -/
def State.ownPhys (s : State) (a : BitVec 64) : Bool := adr a 60 4 == 0 && adr a 48 12 == s.ident.id.toNat

/-- Whether an address lies in this module: module-physical with its `ID`, or job-virtual with its rank (13 R410, R411). -/
def State.ownAddr (s : State) (a : BitVec 64) : Bool :=
  s.ownPhys a || (adr a 60 4 == 1 && adr a 48 12 == s.job.rank.toNat)

/-- The 1,024 bits of a job context block as fields (13 R393). -/
def ctxBad (s : State) (x : Nat) : Bool :=
  let rsv := bitsOf x 44 4 != 0 || bitsOf x 61 3 != 0 || bitsOf x 73 7 != 0 || bitsOf x 270 18 != 0 || bitsOf x 307 13 != 0
    || bitsOf x 340 44 != 0 || bitsOf x 470 42 != 0 || bitsOf x 576 192 != 0
  let nr := bitsOf x 48 13
  let first := bitsOf x 96 32
  let ext := fun (lo n : Nat) => s.extentOk (BitVec.ofNat 64 (bitsOf x lo 64)) 0 ((max n 1 : Nat) - 1) false
  rsv || nr == 0 || 4096 < nr || nr ≤ bitsOf x 32 12 || first == 0 || 0xFFFFFFFC < first
    || 524288 < bitsOf x 288 19 + 2 * bitsOf x 320 20 || (bitsOf x 72 1 == 1 && bitsOf x 320 20 != 0)
    || 8192 < bitsOf x 256 14 || 2097152 < bitsOf x 448 22
    || !ext 128 (4 * nr) || !ext 192 (64 * bitsOf x 256 14) || !ext 384 (4 * bitsOf x 448 22) || !ext 512 1
    || !s.ownPhys (BitVec.ofNat 64 (bitsOf x 384 64))

/-- Words of the rank table that a context block names: `RANKTAB`'s first word, and how many (13 R393). -/
def rankSpan (x : Nat) : BitVec 64 × Nat := spanOf (BitVec.ofNat 64 (bitsOf x 128 64)) (4 * bitsOf x 48 13)

/-- The rank entries of a job in the words read for them: 4 bytes each from `RANKTAB` (13 R393). -/
def rankEntries (x : Nat) (ws : List Nat) : List Nat :=
  let y := packBits 256 ws / 256 ^ bitsOf x 128 5
  (List.range (bitsOf x 48 13)).map fun i => bitsOf y (32 * i) 32

/-- A rank table of a job: entry r for r below the rank count, and none above (13 R394, 10 R301). -/
def rankTable (l : List Nat) : Sparse (BitVec 32) :=
  ((List.range l.length).zip l).foldl (fun t (i, e) =>
    spSet 0 t i (BitVec.ofNat 32 (bitsOf e 0 12 + 2 ^ 31 * bitsOf e 31 1))) []

/-- The job registers that a context block gives (13 R393, R394). -/
def openRegs (j : JobRegs) (x : Nat) : JobRegs :=
  let first := bitsOf x 96 32
  { JobRegs.reset with
    jobId := BitVec.ofNat 32 (bitsOf x 0 32), rank := BitVec.ofNat 12 (bitsOf x 32 12), nranks := BitVec.ofNat 13 (bitsOf x 48 13),
    committed := BitVec.ofNat 32 (first - 1), begun := BitVec.ofNat 32 (first - 1), epoch := BitVec.ofNat 8 (bitsOf x 64 8),
    inplace := bitsOf x 72 1 == 1, jbase := BitVec.ofNat 19 (bitsOf x 288 19), jcount := BitVec.ofNat 20 (bitsOf x 320 20),
    teardownTo := j.teardownTo, qstepRefused := j.qstepRefused, scaleTab := BitVec.ofNat 64 (bitsOf x 192 64),
    nscale := BitVec.ofNat 14 (bitsOf x 256 14), xscale := BitVec.ofNat 64 (bitsOf x 384 64),
    nxscale := BitVec.ofNat 22 (bitsOf x 448 22), trail := BitVec.ofNat 64 (bitsOf x 512 64), key := BitVec.ofNat 256 (bitsOf x 768 256) }

/-- Every `QSTEP` takes a value. -/
def State.setQsteps (s : State) (v : Nat) : State :=
  (List.finRange 8).foldl (fun (s : State) q => s.modQueue q fun x => { x with qstep := BitVec.ofNat 32 v }) s

/-- Every token counter of the enabled cores is 0 (13 R394). Posts on their way are added later: DESIGN CHOICE (log 104), as 05 R147 does not
speak of them. -/
def State.clearTokens (s : State) : State :=
  s.ident.cores.foldl (fun (s : State) p => s.setCore p { s.core p with tokens := Vector.replicate 32 0 }) s

/-- The job opens with a context block that has passed its checks and its rank entries (13 R394, actions 2 to 5). -/
def State.openJob (s : State) (c : Cmd) (x : Nat) (ranks : List Nat) : State :=
  let ctx := BitVec.ofNat 64 (c.par 0 64)
  let s0 := s
  let s := s.putLocal (adrAdd ctx 96) 0
  let t := rankTable ranks
  let s := { s with
    job := openRegs s.job x,
    erg := { s.erg.clearStreams with rank0 := t, rank1 := t, trunkRate := BitVec.ofNat 16 (bitsOf x 80 16) },
    ident := { s.ident with generation := BitVec.ofNat 8 c.gen, jobOpen := true } }
  let s := (s.setQsteps (bitsOf x 96 32)).clearTokens.setState 0x3
  ((s.record 0x0050 1 ([0] ++ leBytes 4 (bitsOf x 0 32) ++ leBytes 2 (bitsOf x 32 12) ++ [0])).endCmd c stOk 0 0).oneCycle s0

/-- Checks of JOB_OPEN before it reads (13 R394, 12 R374). -/
def checksOpen (s : State) (c : Cmd) : List (Bool × BitVec 16) :=
  let a := BitVec.ofNat 64 (c.par 0 64)
  [(c.rsvBad [(0, 64)], stBadParam), s.stateCheck c, (!s.ident.coordLock || s.ident.state != 0x2, stBadState),
   (c.gen == s.ident.generation.toNat, stGenStale),
   (!s.ownPhys a || 4 < adr a 44 4 || adr a 0 5 != 0 || !s.physOk a 128 false, stBadParam)]

/-- JOB_OPEN has its context block `kept` and the words of its rank table: the own entry is judged, and the job opens (13 R394). -/
def State.judgeRanks (s : State) (c : Cmd) (ws : List Nat) : State :=
  let ranks := rankEntries c.kept ws
  let own := ranks.getD (bitsOf c.kept 32 12) 0
  if bitsOf own 31 1 ≠ 1 ∨ bitsOf own 0 12 ≠ s.ident.id.toNat then s.endCmd c stBadParam 0 0
  else s.openJob c c.kept ranks

/-- JOB_OPEN goes on when the words of a rank table in another module have come. Where the module has stopped on an internal fault meanwhile, it
is refused as its start would be (13 R390, R393, R394). -/
def State.jobOpenGo (s : State) (id : Nat) : State :=
  match s.cmdOf id with
  | none => s
  | some c =>
    let ws := (List.range (rankSpan c.kept).2).map c.word
    if !c.waits.isEmpty then s
    else if c.failed ≠ 0 then s.endCmd c c.failed 0 0
    else if c.replied then s.endCmd c stTimeout 0 0
    else if s.ident.state ≠ 0x2 then s.endCmd c stBadState 0 0
    else if ws.any fun w => w.poison then s.endCmd c stPoison 0 0
    else s.judgeRanks c (ws.map fun w => w.data.toNat)

/-- JOB_OPEN (13 R394): the context block is read, then the rank table: in this module by the management processor itself, elsewhere over
Erg (log 74). A read that is refused, or reads as poison, ends it with that status. -/
def execJobOpen (src : CmdSrc) (s : State) : Host.Outcome State Fault Refusal :=
  .next (s.startCmd src (wants 0x0400) checksOpen fun s c =>
    match s.engineWords 4 (BitVec.ofNat 64 (c.par 0 64)) with
    | (.error e, s) => s.endCmd c e 0 0
    | (.ok ws, s) =>
      let x := packBits 256 ws
      let c := { c with kept := x, progress := 1 }
      if ctxBad s x then s.endCmd c stBadParam 0 0
      else if s.ownPhys (BitVec.ofNat 64 (bitsOf x 128 64)) then
        match s.engineWords (rankSpan x).2 (rankSpan x).1 with
        | (.error e, s) => s.endCmd c e 0 0
        | (.ok ws, s) => s.judgeRanks c ws
      else ((s.keepCmd c).cmdRead c 0 (rankSpan x).1 (rankSpan x).2).jobOpenGo c.id)

/-- Checks of MODE_SET (13 R401, 12 R374). -/
def checksMode (s : State) (c : Cmd) : List (Bool × BitVec 16) :=
  let e := c.par 0 32
  [(c.rsvBad [(0, 32), (32, 8), (40, 1), (41, 1), (42, 1), (43, 16)], stBadParam)] ++ s.genCheck c ++
  [(c.par 40 1 == 1 && c.par 41 1 == 0 && s.job.jcount == 0, stBadParam), s.stateCheck c,
   (decide (e ≤ s.job.begun.toNat), stModeLate), (s.job.pendValid && decide (s.job.pendStep.toNat ≤ s.job.begun.toNat), stBusy)]

/-- MODE_SET (13 R401, R402). -/
def execModeSet (src : CmdSrc) (s : State) : Host.Outcome State Fault Refusal :=
  .next (s.startCmd src (wants 0x0402) checksMode fun s c =>
    ({ s with job := { s.job with
        pendValid := true, pendEpoch := BitVec.ofNat 8 (c.par 32 8),
        pendInplace := if c.par 40 1 = 1 then c.par 41 1 == 1 else s.job.inplace, pendStep := BitVec.ofNat 32 (c.par 0 32),
        pendTrunk := if c.par 42 1 = 1 then some (BitVec.ofNat 16 (c.par 43 16)) else none } } : State).endCmd c stOk 0 0)

/-- Checks of STEP_COMMIT up to its step (12 R374). -/
def checksStep (s : State) (c : Cmd) : List (Bool × BitVec 16) :=
  [(c.rsvBad [(0, 32), (32, 1)], stBadParam)] ++ s.genCheck c ++ [s.stateCheck c]

/-- STEP_CLOSE_REQUEST: STEP_COMMIT with `OP` 0 (13 R398). A step whose close has been asked for is taken as closed (DEDUCED,
log 35). -/
def execStepCloseRequest (src : CmdSrc) (s : State) : Host.Outcome State Fault Refusal :=
  .next (s.startCmd src (fun c => c.opc == 0x0403 && c.par 32 1 == 0)
    (fun s c =>
      let step := c.par 0 32
      checksStep s c ++ [(!(decide (s.job.committed.toNat < step) && decide (step ≤ s.job.committed.toNat + 2))
        || (spGet StepInfo.reset s.job.steps step).asked, stBadState)])
    fun s c =>
      let step := BitVec.ofNat 32 (c.par 0 32)
      let s := s.modStep step fun x => { x with asked := true }
      let k : Closing := { step := step, src := c.src, seq := c.seq, sent := false, tags := [] }
      let s := { s with job := { s.job with closing := s.job.closing ++ [k] } }
      s.endCmd c stAccepted 0 0)

/-- The page table entries of every journal pair are exchanged (13 R404). -/
def Fabric.journal (f : Fabric) (base n : Nat) : Fabric :=
  { f with pages := (List.range n).foldl (fun t i =>
      let a := spGet 0 t (base + i)
      let b := spGet 0 t (base + n + i)
      spSet 0 (spSet 0 t (base + i) b) (base + n + i) a) f.pages }

/-- A pending change with the committed step becomes current (13 R402, R404). -/
def State.pendingCurrent (s : State) (step : BitVec 32) : State :=
  let j := s.job
  if j.pendValid ∧ j.pendStep = step then
    { s with
      job := { j with epoch := j.pendEpoch, inplace := j.pendInplace, pendValid := false, pendEpoch := 0, pendInplace := false,
                      pendStep := 0, pendTrunk := none },
      erg := { s.erg with trunkRate := j.pendTrunk.getD s.erg.trunkRate } }
  else s

/-- `LAST_COMMITTED` takes a value; what was kept of the steps up to it goes, and packets that waited for the new window reach the
engine (13 R404, 11 R354). -/
def State.setCommitted (s : State) (step : BitVec 32) (begun : BitVec 32) (worked : Bool) : State :=
  let s := { s with
    job := { s.job with committed := step, begun := begun, worked := worked,
                        steps := s.job.steps.filter fun e => step.toNat < e.1 },
    coll := s.coll.prune step }
  s.offerWaiting

/-- STEP_COMMIT with `OP` 1 (13 R404). -/
def execStepCommit (src : CmdSrc) (s : State) : Host.Outcome State Fault Refusal :=
  .next (s.startCmd src (fun c => c.opc == 0x0403 && c.par 32 1 == 1)
    (fun s c =>
      let step := BitVec.ofNat 32 (c.par 0 32)
      let x := spGet StepInfo.reset s.job.steps step.toNat
      checksStep s c ++ [(step != s.job.committed + 1 || !x.reported || !x.committable || s.silent.replay.any (fun r => r.step == step),
        stBadState)])
    fun s c =>
      let step := BitVec.ofNat 32 (c.par 0 32)
      let s : State := if s.job.inplaceFor step then s else { s with erg := s.erg.journal s.job.jbase.toNat s.job.jcount.toNat }
      let s := (s.scaleCommit step).pendingCurrent step
      (s.setCommitted step (if s.job.worked then s.job.begun else step) s.job.worked).endCmd c stOk 0 0)

/-- STEP_ABORT with `PHASE` 1 (13 R408). -/
def execStepAbortFenceClear (src : CmdSrc) (s : State) : Host.Outcome State Fault Refusal :=
  .next (s.startCmd src (fun c => c.opc == 0x0404 && c.par 32 1 == 1) checksStep fun s c =>
    ({ s with job := { s.job with fence := false, fenceStep := 0 } } : State).endCmd c stOk 0 0)

/-- The checksum of 11 R340 over the words of a block as signed 32-bit integers from an index on, poisoned words counting as 0; and how
many carry poison (13 R410). -/
def blockSum (first : Nat) (ws : List RWord) : Int × Nat :=
  ((List.range ws.length).zip ws).foldl (fun (a : Int × Nat) (i, w) =>
    if w.poison then (a.1, a.2 + 1)
    else ((List.range 8).foldl (fun (t : Int) k =>
      t + ((8 * (first + i) + k + 1 : Nat) : Int) * codeOf 32 true (bitsOf w.data.toNat (32 * k) 32)) a.1, a.2)) (0, 0)

/-- Running values of a CHECKPOINT or RESTORE in `accB`: words of the block, the checksum, poisoned words. -/
def streamAcc (block sum psn : Nat) : Nat := block + 64 * (sum + 2 ^ 61 * psn)

/-- CHECKPOINT and RESTORE move data (13 R410, R411, 12 R378): blocks are read (phase 1) and written (phase 2) in ascending order;
`accA` words are done. Once all are, `fin` goes on. -/
def State.moveGo (n : Nat) (s : State) (id : Nat) (src dst : BitVec 64) (fin : State → Cmd → State) : State :=
  match n, s.cmdOf id with
  | k + 1, some c =>
    let total := c.par 128 40 / 32
    let block := c.accB % 64
    if !c.waits.isEmpty then s
    else if c.failed ≠ 0 then s.endCmd c c.failed 0 0
    else if c.phase = 1 then
      if c.replied then s.endCmd c stTimeout 0 0
      else
        let ws := (List.range block).map fun i => c.word i
        let (d, p) := blockSum c.accA ws
        let sum := ((((c.accB / 64 % 2 ^ 61 : Nat) : Int) + d) % (fpMod : Int)).toNat
        let acc := streamAcc block sum (c.accB / 64 / 2 ^ 61 + p)
        ((s.modCmd id fun c => { c with phase := 2, got := [], accB := acc }).cmdWrite c (adrAdd dst (32 * c.accA : Nat))
          (ws.map codeOfWord)).moveGo k id src dst fin
    else
      let done := c.accA + block
      let acc := c.accB - block
      if c.replied then s.endCmd c stTimeout 0 0
      else if total ≤ done then fin s { c with accA := done, accB := acc }
      else
        let a := adrAdd src (32 * done : Nat)
        let m := min (total - done) (min (32 - adr a 5 5) (32 - adr (adrAdd dst (32 * done : Nat)) 5 5))
        ((s.modCmd id fun c => { c with phase := 1, accA := done, accB := acc + m, got := [] }).cmdRead c 0 a m).moveGo k id src dst fin
  | _, _ => s

/-- Steps in which a CHECKPOINT or RESTORE ends. -/
def Cmd.moveFuel (c : Cmd) : Nat := 2 * (c.par 128 40 / 32) + 3

/-- The header word of a checkpoint image (13 R410). -/
def State.imageHeader (s : State) (c : Cmd) : Nat :=
  let psn := c.accB / 64 / 2 ^ 61
  s.job.jobId.toNat + 2 ^ 32 * c.par 168 32 + 2 ^ 64 * s.ident.generation.toNat + 2 ^ 80 * c.par 128 40
    + 2 ^ 128 * (c.accB / 64 % 2 ^ 61) + (if psn = 0 then 0 else 2 ^ 192) + 2 ^ 193 * min psn (2 ^ 31 - 1)

/-- CHECKPOINT goes on: its data, then its header (phase 3), then its end (13 R410). -/
def State.checkpointGo (s : State) (id : Nat) : State :=
  match s.cmdOf id with
  | none => s
  | some c =>
    if c.phase = 3 then
      if !c.waits.isEmpty then s
      else if c.failed ≠ 0 then s.endCmd c c.failed 0 0
      else s.endCmd c stOk 0 0
    else
      let dst := BitVec.ofNat 64 (c.par 64 64)
      s.moveGo c.moveFuel id (BitVec.ofNat 64 (c.par 0 64)) (adrAdd dst 32) fun s c =>
        let s := (s.keepCmd { c with phase := 3 }).cmdWrite c dst [encodeWord (BitVec.ofNat 256 (s.imageHeader c))]
        match s.cmdOf id with
        | some c => if !c.waits.isEmpty then s else if c.failed ≠ 0 then s.endCmd c c.failed 0 0 else s.endCmd c stOk 0 0
        | none => s

/-- Parameters that CHECKPOINT and RESTORE share: a nonzero multiple of 32 bytes, aligned addresses of R19, the one named in this
module (13 R410, R411). -/
def moveBad (s : State) (c : Cmd) (mine other : BitVec 64) : Bool :=
  c.par 128 40 == 0 || c.par 128 5 != 0 || adr mine 0 5 != 0 || adr other 0 5 != 0 || !s.ownAddr mine || 1 < adr other 60 4

/-- CHECKPOINT (13 R410). -/
def execCheckpoint (src : CmdSrc) (s : State) : Host.Outcome State Fault Refusal :=
  .next (s.startCmd src (wants 0x0405)
    (fun s c => [(c.rsvBad [(0, 64), (64, 64), (128, 40), (168, 32)], stBadParam)] ++ s.genCheck c ++
      [(moveBad s c (BitVec.ofNat 64 (c.par 0 64)) (BitVec.ofNat 64 (c.par 64 64)), stBadParam), s.stateCheck c])
    fun s c => s.checkpointGo c.id)

/-- Whether a range of this module touches a journal page, by job page or by the memory that the page maps (13 R404, R411). -/
def State.touchesJournal (s : State) (a : BitVec 64) (n : Nat) : Bool :=
  let lo := adr a 0 44 / 2 ^ 21
  let hi := (adr a 0 44 + n - 1) / 2 ^ 21
  let pages := (List.range (2 * s.job.jcount.toNat)).map fun i => s.job.jbase.toNat + i
  if adr a 60 4 = 1 then pages.any fun k => decide (adr a 0 48 / 2 ^ 21 ≤ k) && decide (k ≤ (adr a 0 48 + n - 1) / 2 ^ 21)
  else pages.any fun k =>
    let e := (s.pageEntry k).toNat
    bitsOf e 0 1 == 1 && bitsOf e 2 4 == adr a 44 4 && decide (lo ≤ bitsOf e 6 18) && decide (bitsOf e 6 18 ≤ hi)

/-- RESTORE has copied all: its checksum decides (13 R411). -/
def State.restoreEnd (s : State) (c : Cmd) : State :=
  let psn := bitsOf c.kept 193 31
  if c.accB / 64 % 2 ^ 61 ≠ bitsOf c.kept 128 61 then s.endCmd c stCheckFail 0 0
  else if c.par 200 1 = 1 then
    let step := BitVec.ofNat 32 (c.par 168 32)
    ((s.setCommitted step step false).setQsteps (step.toNat + 1)).endCmd c stOk 0 psn
  else s.endCmd c stOk 0 psn

/-- RESTORE goes on: the header is read (phase 0) and judged, then the data is copied (13 R411). A header read as poison is taken as one
that differs. -/
def State.restoreGo (s : State) (id : Nat) : State :=
  match s.cmdOf id with
  | none => s
  | some c =>
    let src := BitVec.ofNat 64 (c.par 0 64)
    let dst := BitVec.ofNat 64 (c.par 64 64)
    let h := c.word 0
    let x := h.data.toNat
    if !c.waits.isEmpty then s
    else if c.phase = 0 then
      if c.failed ≠ 0 then s.endCmd c c.failed 0 0
      else if c.replied then s.endCmd c stTimeout 0 0
      else if h.poison ∨ bitsOf x 0 32 ≠ s.job.jobId.toNat ∨ bitsOf x 32 32 ≠ c.par 168 32 ∨ bitsOf x 80 40 ≠ c.par 128 40 then
        s.endCmd c stBadParam 0 0
      else if (c.par 200 1 = 1 ∨ s.touchesJournal dst (c.par 128 40)) ∧ s.job.begun ≠ s.job.committed then s.endCmd c stBadState 0 0
      else
        (s.keepCmd { c with phase := 2, got := [], kept := x }).moveGo c.moveFuel id (adrAdd src 32) dst State.restoreEnd
    else s.moveGo c.moveFuel id (adrAdd src 32) dst State.restoreEnd

/-- RESTORE (13 R411). -/
def execRestore (src : CmdSrc) (s : State) : Host.Outcome State Fault Refusal :=
  .next (s.startCmd src (wants 0x0406)
    (fun s c => [(c.rsvBad [(0, 64), (64, 64), (128, 40), (168, 32), (200, 1)], stBadParam)] ++ s.genCheck c ++
      [(moveBad s c (BitVec.ofNat 64 (c.par 64 64)) (BitVec.ofNat 64 (c.par 0 64)), stBadParam), s.stateCheck c])
    fun s c => (s.cmdRead c 0 (BitVec.ofNat 64 (c.par 0 64)) 1).restoreGo c.id)

/-- RANK_REMAP (13 R412). -/
def execRankRemap (src : CmdSrc) (s : State) : Host.Outcome State Fault Refusal :=
  .next (s.startCmd src (wants 0x0407)
    (fun s c => [(c.rsvBad [(0, 12), (12, 12), (24, 1)], stBadParam)] ++ s.genCheck c ++
      [(decide (s.job.nranks.toNat ≤ c.par 0 12) || c.par 0 12 == s.job.rank.toNat, stBadParam), s.stateCheck c,
       (s.erg.swapPending, stBusy)])
    fun s c =>
      let e := BitVec.ofNat 32 (c.par 12 12 + 2 ^ 31 * c.par 24 1)
      let f := s.erg
      ({ s with erg := if f.active then { f with rank0 := spSet 0 f.rank0 (c.par 0 12) e }
                       else { f with rank1 := spSet 0 f.rank1 (c.par 0 12) e } } : State).endCmd c stOk 0 0)

/-- Every stream of every enabled core that a test names halts with cause 0x09, and the instructions it issued complete (05 R157). -/
def State.haltAll (s : State) (which : Stream → Bool) : State :=
  s.ident.cores.foldl (fun (s : State) p =>
    [StreamId.f, .b, .u].foldl (fun (s : State) k =>
      if which ((s.core p).stream k) then
        (s.haltStreams [(p, k)]).onCore p fun env y => y.finishWork workBound env k
      else s) s) s

/-- LAUNCHes whose streams have all halted end (05 R158). -/
def State.endLaunches (s : State) : State :=
  (s.host.cmds.filter fun c => c.opc == 0x0201 && c.started).foldl (fun (s : State) c =>
    if (s.namedStreams c).all fun x => ((s.core x.1).stream x.2).state == .halted || ((s.core x.1).stream x.2).launch != some c.id then
      let s := s.launchStep c
      let (st, fl, det) := s.launchResult c
      s.endCmd c st fl det
    else s) s

/-- Mailboxes of a kind become Free; a command that came by one has no reply to write. -/
def State.freeMail (s : State) (which : Fin 16 → Mailbox → Bool) : State :=
  (List.finRange 16).foldl (fun (s : State) m =>
    let x := s.mailbox m
    if x.state ≠ .free ∧ which m x then
      (s.modMail m fun x => { x with state := .free, sender := 0, taken := false }).orphan m
    else s) s

/-- Mailboxes whose sender or receiver is a core controller become Free (12 R384). -/
def State.freeCoreMail (s : State) : State := s.freeMail fun m x => decide (14 ≤ m.val) || decide (0x100 ≤ x.sender.toNat)

/-- COMPUTE_RESET (13 R417, R418). -/
def execComputeReset (src : CmdSrc) (s : State) : Host.Outcome State Fault Refusal :=
  .next (s.startCmd src (wants 0x0504)
    (fun s c => [(c.rsvBad [], stBadParam), s.stateCheck c, (!(s.ident.state == 0x2 || s.ident.state == 0x3), stBadState)])
    fun s c =>
      let old := s.ident.state
      let s := (((s.setState 0x5).haltAll fun _ => true).endLaunches).oneCycle s
      let s := s.ident.cores.foldl (fun (s : State) p =>
        let s := s.qFlagsHeads p fun _ => true
        s.setCore p (s.core p).resetKept) s
      ((s.freeCoreMail.setState old).endCmd c stOk 0 0).oneCycle s)

/-- Checks of DUMP_SAMPLE (13 R420, 12 R374). -/
def checksDump (s : State) (c : Cmd) : List (Bool × BitVec 16) :=
  let dst := BitVec.ofNat 64 (c.par 0 64)
  [(c.rsvBad [(0, 64), (64, 5), (69, 224)], stBadParam), ((maskPhys (c.par 69 224)).any fun p => !s.coreOn p, stEngineFused),
   (!s.ownPhys dst || adr dst 44 4 != 4 || adr dst 0 12 != 0 || !s.physOk dst (14 * 2 ^ 20 + 224 * 256) true, stBadParam), s.stateCheck c]

/-- The words of a bank that a dump reads, as the debug port delivers them (13 R420). -/
def State.dumpWords (s : State) (p b slice : Nat) : List RWord × State :=
  (List.range 128).foldl (fun (x : List RWord × State) j =>
    let (w, c) := (x.2.core p).readDecoupled (x.2.coreEnv p) ((128 * slice + j) * 16 + b)
    (x.1 ++ [w], x.2.onCore p fun _ _ => c)) ([], s)

/-- DUMP_SAMPLE starts: every word is read and written; what no access answers comes later (13 R420, R421). -/
def execDumpSample (src : CmdSrc) (s : State) : Host.Outcome State Fault Refusal :=
  .next (s.startCmd src (wants 0x0505) checksDump fun s c =>
    let dst := BitVec.ofNat 64 (c.par 0 64)
    let cores := maskPhys (c.par 69 224)
    let run : DumpRun :=
      { cmd := c.id, dst := dst, slice := BitVec.ofNat 5 (c.par 64 5), cores := cores, unread := [], poisoned := [] }
    let s := { s with silent := { s.silent with dump := some run } }
    cores.foldl (fun (s : State) p =>
      (List.range 16).foldl (fun (s : State) b =>
        let (ws, s) := s.dumpWords p b (c.par 64 5)
        let bad := ((List.range 128).zip ws).filterMap fun (j, w) => if w.poison then some (2048 * p + 128 * b + j) else none
        let (_, st, s) := s.writeOut (.command c.id) none (adrAdd dst (65536 * p + 4096 * b : Nat)) (ws.map codeOfWord)
        let s := match st with
          | some e => s.modCmd c.id fun c => { c with failed := if c.failed = 0 then e else c.failed }
          | none => s
        { s with silent := { s.silent with dump := s.silent.dump.map fun r => { r with poisoned := r.poisoned ++ bad } } }) s) s)

/-- DUMP_ACCESS_TIMEOUT: a word of the running dump is recorded as unreadable (13 R421). -/
def execDumpAccessTimeout (c : CoreId) (b : Fin 16) (j : Fin 128) (s : State) : Host.Outcome State Fault Refusal :=
  let k := 2048 * c.val + 128 * b.val + j.val
  .next (match s.silent.dump with
    | none => s
    | some r =>
      if !r.cores.contains c.val ∨ r.unread.contains k ∨ (s.cmdOf r.cmd).any (·.replied) then s
      else
        let s := (s.writeOut (.command r.cmd) none (adrAdd r.dst (65536 * c.val + 4096 * b.val + 32 * j.val : Nat)) [poisonWord]).2.2
        let r := { r with unread := r.unread ++ [k], poisoned := r.poisoned.filter fun x => x != k }
        { s with silent := { s.silent with dump := some r } })

/-- The bitmap of a core's unreadable words: 256 bytes as eight words (13 R421). -/
def dumpBitmap (r : DumpRun) (p : Nat) : List CodeWord :=
  (List.range 8).map fun w => encodeWord (BitVec.ofNat 256
    ((r.unread.filter fun k => k / 256 == p * 8 + w).foldl (fun a k => a + 2 ^ (k % 256)) 0))

/-- The bitmaps and the record of a dump (13 R421, R422, 16 R492). -/
def State.dumpRecord (s : State) (r : DumpRun) : State :=
  let s := r.cores.foldl (fun (s : State) p =>
    (s.writeOut (.command r.cmd) none (adrAdd r.dst (14 * 2 ^ 20 + 256 * p : Nat)) (dumpBitmap r p)).2.2) s
  let low := (r.unread.map fun k => k / 2048).foldl min 0xFF
  s.record 0x0031 1 (leBytes 8 r.dst.toNat ++ leBytes 4 r.slice.toNat ++ leBytes 4 r.unread.length
    ++ leBytes 4 r.poisoned.length ++ leBytes 1 low)

/-- A running dump ends: its bitmaps, its record, its reply. One whose timeout reply has been written stops before them (12 R378, 13 R421,
R422). -/
def State.endDump (s : State) (r : DumpRun) : State :=
  let s := if (s.cmdOf r.cmd).any (·.replied) then s else s.dumpRecord r
  let s := { s with silent := { s.silent with dump := none } }
  match s.cmdOf r.cmd with
  | some c => s.endCmd c (if c.failed = 0 then stOk else c.failed) 0 (r.unread.length + 2 ^ 32 * r.poisoned.length)
  | none => s

end Sys2Proof.Machine
end

