-- ==== Sys2Proof/Machine/Notar.lean ====
section
/-! DEFINITION. Notar: keys and certificates, images and their verification, FW_UPDATE, measurements, ATTEST (16 R471 to R485). -/

namespace Sys2Proof.Machine

/-- Place of a firmware slot: bank (false A) and kind (16 R474). -/
def slotKey (bank : Bool) (kind : Nat) : Nat := (if bank then 4 else 0) + kind

/-- The active bank of a kind (16 R474). -/
def Notar.active (n : Notar) (kind : Nat) : Bool := if kind = 1 then n.active1 else if kind = 2 then n.active2 else n.active3

/-- The active bank of a kind changes. -/
def Notar.setActive (n : Notar) (kind : Nat) (bank : Bool) : Notar :=
  if kind = 1 then { n with active1 := bank } else if kind = 2 then { n with active2 := bank } else { n with active3 := bank }

/-- The fused security version of a kind (16 R476). -/
def Notar.svn (n : Notar) (kind : Nat) : BitVec 6 := if kind = 1 then n.svn1 else if kind = 2 then n.svn2 else n.svn3

/-- A firmware slot. -/
def Notar.slot (n : Notar) (bank : Bool) (kind : Nat) : FwSlot := spGet FwSlot.reset n.slots (slotKey bank kind)

/-- A firmware slot is replaced. -/
def Notar.setSlot (n : Notar) (bank : Bool) (kind : Nat) (x : FwSlot) : Notar :=
  { n with slots := spSet FwSlot.reset n.slots (slotKey bank kind) x }

/-- Notar's state changes. -/
def State.modNotar (s : State) (f : Notar → Notar) : State := { s with notar := f s.notar }

/-- n bytes of an image from a byte on. -/
def imageBytes (w : Sparse Data) (from_ n : Nat) : List Byte :=
  (List.range n).map fun i => BitVec.ofNat 8 (bitsOf (spGet 0 w ((from_ + i) / 32)).toNat (8 * ((from_ + i) % 32)) 8)

/-- A little-endian field of an image: from byte `from_`, n bytes (16 R475). -/
def imageField (w : Sparse Data) (from_ n : Nat) : Nat := packBits 8 ((imageBytes w from_ n).map (·.toNat))

/-- `LEN` of an image header (16 R475). -/
def imageLen (w : Sparse Data) : Nat := imageField w 16 8

/-- Whether `LEN` is in range (16 R475). -/
def imageLenOk (w : Sparse Data) : Bool := imageLen w != 0 && imageLen w % 32 == 0 && decide (imageLen w ≤ 2 ^ 23)

/-- M of a layer: the digest of its whole image (16 R472). -/
def imageDigest (w : Sparse Data) : BitVec 384 := Config.sha384 (imageBytes w 0 (320 + imageLen w))

/-- The checks of an image for a slot of a kind, in order (16 R476). A key slot above 3 has no fused hash. -/
def imageChecks (w : Sparse Data) (kind : Nat) (svn : BitVec 6) (stepping : Byte) : List (Bool × BitVec 16) :=
  let f := imageField w
  let pub := imageBytes w 80 96
  [(f 0 4 != 0x57465841 || f 4 2 != 1 || f 6 1 != kind || f 14 2 != 0 || f 24 8 != 0 || f 176 48 != 0 || !imageLenOk w, stBadParam),
   (decide (3 < f 7 1) || Config.keyRevoked (f 7 1) || Config.sha384 pub != Config.keyHash (f 7 1), stAuthFail),
   (!Config.ecdsaVerify (BitVec.ofNat 768 (ofBe pub)) (Config.sha384 (imageBytes w 0 224)) (BitVec.ofNat 768 (ofBe (imageBytes w 224 96))),
    stAuthFail),
   (beBytes 48 (Config.sha384 (imageBytes w 320 (imageLen w))).toNat != imageBytes w 32 48, stAuthFail),
   (decide (f 12 1 < svn.toNat), stRollback),
   (decide (stepping.toNat < f 13 1), stBadParam)]

/-- The IMAGE record (16 R492). -/
def State.imageRecord (s : State) (kind : Nat) (bank : Bool) (op : Nat) (status : BitVec 16) : State :=
  let w := (s.notar.slot bank kind).words
  s.record 0x0010 2 ([BitVec.ofNat 8 kind, if bank then 1 else 0, BitVec.ofNat 8 op] ++ leBytes 2 status.toNat ++ leBytes 4 (imageField w 8 4)
    ++ leBytes 1 (imageField w 12 1) ++ imageBytes w 32 48)

/-- A slot's image is verified; the slot becomes Verified or Written; the record gives `op` (16 R476). -/
def State.verifySlot (s : State) (kind : Nat) (bank : Bool) (op : Nat) : BitVec 16 × State :=
  let x := s.notar.slot bank kind
  let st := (firstFail (imageChecks x.words kind (s.notar.svn kind) s.ident.stepping)).getD stOk
  let state : SlotState := if st = stOk then .verified else .written
  (st, (s.modNotar fun n => n.setSlot bank kind { x with state := state }).imageRecord kind bank op st)

/-- `OP` of a verification that no FW_UPDATE asks for: the spec states none, so it is a free value (log 38). -/
def State.freeOp (s : State) : Nat × State :=
  let (x, s) := s.draw 7
  (x % 256, s)

/-- Compound device identifiers of layers 1 and 2 (16 R472). -/
def Notar.cdi1 (n : Notar) : BitVec 384 := Config.hmac384 cdi0 (n.m1.getD 0)
def Notar.cdi2 (n : Notar) : BitVec 384 := Config.hmac384 n.cdi1 (n.m2.getD 0)

/-- The private key of a layer of the chain (16 R472). -/
def Notar.key (n : Notar) (layer : Nat) : Nat :=
  if layer = 0 then layerKey cdi0 0 else if layer = 1 then layerKey n.cdi1 1 else layerKey n.cdi2 2

/-- The leaf key of an SPDM slot: Alias-MF in slot 0, Alias-CM in slot 1 (16 R482). -/
def Notar.leaf (n : Notar) (slot : Nat) : Nat := n.key (slot + 1)

/-- The MEASURE record (16 R492). -/
def State.measureRecord (s : State) : State :=
  s.record 0x0011 2 (digestBytes (some Config.romDigest) ++ digestBytes s.notar.m1 ++ digestBytes s.notar.m2)

/-- Names of the certificates of a device: "AXD-SZ9 ", then "MF " or "CM " for an alias, then the 16 hexadecimal digits of the serial
number, which the model writes in capitals (16 R473; the case DESIGN CHOICE, log 121). -/
def certName (layer : Nat) (serial : BitVec 64) : List Byte :=
  let hex := fun (d : Nat) => BitVec.ofNat 8 (if d < 10 then 0x30 + d else 0x37 + d)
  [0x41, 0x58, 0x44, 0x2D, 0x53, 0x5A, 0x39, 0x20] ++ (if layer = 1 then [0x4D, 0x46, 0x20] else if layer = 2 then [0x43, 0x4D, 0x20] else [])
    ++ (List.range 16).map fun i => hex (bitsOf serial.toNat (4 * (15 - i)) 4)

/-- The serial number of an alias certificate: the first 16 bytes of its public key's digest, bit 127 cleared (16 R473). -/
def certSerial (key : BitVec 768) : BitVec 128 :=
  ((Config.sha384 (beBytes 96 key.toNat)).extractLsb' 256 128) &&& ~~~ BitVec.ofNat 128 (2 ^ 127)

/-- The ASCII text "Iluannis". -/
def iluannis : List Byte := [0x49, 0x6C, 0x75, 0x61, 0x6E, 0x6E, 0x69, 0x73]

/-- The names of the authorities: "Iluannis Root CA" and "Iluannis Device CA 1" (16 R473; that a certificate's issuer field is its issuer's
subject CN, and that the Root CA's is the name the table gives: DEDUCED, log 121). -/
def rootCaName : List Byte := iluannis ++ [0x20, 0x52, 0x6F, 0x6F, 0x74, 0x20, 0x43, 0x41]
def deviceCaName : List Byte := iluannis ++ [0x20, 0x44, 0x65, 0x76, 0x69, 0x63, 0x65, 0x20, 0x43, 0x41, 0x20, 0x31]

/-- The end of a device's validity, "99991231235959Z" (16 R473). -/
def noExpiry : List Byte := [0x39, 0x39, 0x39, 0x39, 0x31, 0x32, 0x33, 0x31, 0x32, 0x33, 0x35, 0x39, 0x35, 0x39, 0x5A]

/-- The Device CA certificate, issued by the Iluannis Root CA (16 R473). Its keys, its own serial number and its validity, "as issued", are
not stated: free values. -/
def deviceCa : List Byte :=
  Config.x509 { subject := deviceCaName, issuer := rootCaName, serial := Config.issuedSerial 0, key := Config.publicKey Config.deviceCaKey,
                pathLen := some 2, notBefore := Config.caValidity.1, notAfter := Config.caValidity.2, tcb := none } Config.rootCaKey

/-- The IDevID certificate: it binds the DeviceID key to the module, issued by the Device CA at manufacture (16 R472, R473). Its own serial
number is not stated: a free value. -/
def idevId (serial : BitVec 64) : List Byte :=
  Config.x509 { subject := certName 0 serial, issuer := deviceCaName, serial := Config.issuedSerial 1,
                key := Config.publicKey (layerKey cdi0 0), pathLen := some 1, notBefore := Config.manufactured, notAfter := noExpiry,
                tcb := none } Config.deviceCaKey

/-- What the alias certificate of a layer says (16 R473). -/
def Notar.certInfo (n : Notar) (serial : BitVec 64) (layer : Nat) (svn : Byte) (m : BitVec 384) : Config.CertInfo :=
  let key := Config.publicKey (n.key layer)
  { subject := certName layer serial, issuer := certName (layer - 1) serial, serial := certSerial key, key := key,
    pathLen := if layer = 1 then some 0 else none, notBefore := Config.manufactured, notAfter := noExpiry,
    tcb := some { vendor := iluannis, model := [0x53, 0x5A, 0x39], layer := layer, svn := svn, fwid := m } }

/-- The alias certificates, each while its layer exists: Alias-MF signed with the DeviceID key, Alias-CM with the Alias-MF key
(16 R473). -/
def Notar.aliasMf (n : Notar) (serial : BitVec 64) : List Byte :=
  match n.m1 with
  | some m => Config.x509 (n.certInfo serial 1 n.svnM1 m) (n.key 0)
  | none => []
def Notar.aliasCm (n : Notar) (serial : BitVec 64) : List Byte :=
  match n.m2 with
  | some m => Config.x509 (n.certInfo serial 2 n.svnM2 m) (n.key 1)
  | none => []

/-- The measured digest and `SVN` of a bank's management firmware or microcode (16 R472, R473). -/
def Notar.measured (n : Notar) (kind : Nat) (bank : Bool) : BitVec 384 × Byte :=
  let w := (n.slot bank kind).words
  (imageDigest w, BitVec.ofNat 8 (imageField w 12 1))

/-- Layer 1 is measured: Notar's management firmware is that of a bank, and it runs (16 R472, R477). -/
def Notar.runs (n : Notar) (bank : Bool) : Notar :=
  let (m, v) := n.measured 1 bank
  { n with fwRuns := true, m1 := some m, svnM1 := v }

/-- Notar verifies the core microcode and derives layer 2, before the cores are released: whether it passes (16 R472, R477). -/
def State.loadMicrocode (s : State) : Bool × State :=
  let bank := s.notar.active2
  let (op, s) := s.freeOp
  let (st, s) := s.verifySlot 2 bank op
  if st = stOk then
    (true, (s.modNotar fun n => { n with m2 := some (n.measured 2 bank).1, svnM2 := (n.measured 2 bank).2 }).measureRecord)
  else (false, s)

/-- Notar verifies the management firmware at AUX power-on; the other bank's where the active one fails; whether one passes
(16 R477). The change of bank is recorded as an activation. -/
def State.loadFirmware (s : State) : State :=
  let bank := s.notar.active1
  let (op, s) := s.freeOp
  let (st, s) := s.verifySlot 1 bank op
  if st = stOk then s.modNotar fun n => n.runs bank
  else
    let (op, s) := s.freeOp
    let (st, s) := s.verifySlot 1 (!bank) op
    if st = stOk then
      (s.modNotar fun n => (n.setActive 1 (!bank)).runs (!bank)).imageRecord 1 (!bank) 3 stOk
    else s.modNotar fun n => { n with fwRuns := false, m1 := none }

/-- An SPDM transport whose session has ended. -/
def SpdmConn.ended (c : SpdmConn) : SpdmConn := { c with session := .none, keys := 0 }

/-- The management processor restarts with the new active firmware (16 R480): layers are derived anew, sessions end, commands queued to
it complete with BUSY, and the I3C target does not answer until the firmware is ready. -/
def State.restartFirmware (s : State) : State :=
  let s := s.modNotar fun n =>
    { n.runs n.active1 with doe := n.doe.ended, mctp := n.mctp.ended }
  let s := s.measureRecord
  let s := (s.host.cmds.filter Cmd.mgmt).foldl (fun (s : State) c => s.endCmd c stBusy 0 0) s
  { s with power := { s.power with i3cOn := false } }

/-- A field of FW_UPDATE: `OP`, `KIND`, the chunk's offset (16 R478). -/
def Cmd.fwOp (c : Cmd) : Nat := c.par 0 3
def Cmd.fwKind (c : Cmd) : Nat := c.par 3 2

/-- Checks of FW_UPDATE (16 R478, 12 R374). -/
def checksFw (s : State) (c : Cmd) : List (Bool × BitVec 16) :=
  let fields := if c.fwOp = 1 then [(0, 3), (3, 2), (64, 64), (128, 256)] else [(0, 3), (3, 2), (64, 64), (128, 24)]
  [(c.rsvBad fields || c.fwKind == 0 || decide (4 < c.fwOp), stBadParam), s.stateCheck c]

/-- The bank that FW_UPDATE acts on. -/
def State.spareBank (s : State) (kind : Nat) : Bool := !s.notar.active kind

/-- Words are put into an image from a word on. -/
def putWords (w : Sparse Data) (from_ : Nat) (l : List Data) : Sparse Data :=
  ((List.range l.length).zip l).foldl (fun t (i, d) => spSet 0 t (from_ + i) d) w

/-- `OP` 0 goes on: the header has been read (phase 1), then the payload (phase 2), which the slot takes and Notar verifies (16 R478).
A poisoned word ends the command with POISON; the slot stays Written. -/
def State.stageGo (n : Nat) (s : State) (id : Nat) : State :=
  match n, s.cmdOf id with
  | k + 1, some c =>
    let kind := c.fwKind
    let bank := s.spareBank kind
    let x := s.notar.slot bank kind
    let first := if c.phase = 1 then 0 else 10
    let count := if c.phase = 1 then 10 else imageLen x.words / 32
    let ws := (List.range count).map fun i => c.word (first + i)
    if !c.waits.isEmpty then s
    else if c.failed ≠ 0 then s.endCmd c c.failed 0 0
    else if c.replied then s.endCmd c stTimeout 0 0
    else if ws.any (·.poison) then s.endCmd c stPoison 0 0
    else
      let words := putWords x.words first (ws.map (·.data))
      let s := s.modNotar fun n => n.setSlot bank kind { state := .written, words := words }
      if c.phase = 1 ∧ imageLenOk words then
        ((s.modCmd id fun c => { c with phase := 2, got := [] }).cmdRead c 10 (adrAdd (BitVec.ofNat 64 (c.par 64 64)) 320)
          (imageLen words / 32)).stageGo k id
      else
        let (st, s) := s.verifySlot kind bank 0
        s.endCmd c st 0 0
  | _, _ => s

/-- FW_UPDATE with `OP` 0, and with the reserved ones (16 R478, R479). -/
def execFwUpdateStage (src : CmdSrc) (s : State) : Host.Outcome State Fault Refusal :=
  .next (s.startCmd src (fun c => c.opc == 0x0601 && (c.fwOp == 0 || decide (4 < c.fwOp)))
    (fun s c => checksFw s c ++ [(!s.power.mainGood, stBadState)])
    fun s c =>
      let kind := c.fwKind
      let s := s.modNotar fun n => n.setSlot (s.spareBank kind) kind { state := .empty, words := [] }
      ((s.keepCmd { c with phase := 1 }).cmdRead c 0 (BitVec.ofNat 64 (c.par 64 64)) 10).stageGo 3 c.id)

/-- FW_UPDATE with `OP` 1 (16 R478). -/
def execFwUpdateChunk (src : CmdSrc) (s : State) : Host.Outcome State Fault Refusal :=
  .next (s.startCmd src (fun c => c.opc == 0x0601 && c.fwOp == 1)
    (fun s c => (c.par 64 24 % 32 != 0 || decide (2 ^ 23 + 320 < c.par 64 24), stBadParam) :: checksFw s c)
    fun s c =>
      let kind := c.fwKind
      let bank := s.spareBank kind
      (s.modNotar fun n =>
        n.setSlot bank kind { state := .written, words := spSet 0 (n.slot bank kind).words (c.par 64 24 / 32) (BitVec.ofNat 256 (c.par 128 256)) }).endCmd
        c stOk 0 0)

/-- FW_UPDATE with `OP` 2 (16 R478). -/
def execFwUpdateVerify (src : CmdSrc) (s : State) : Host.Outcome State Fault Refusal :=
  .next (s.startCmd src (fun c => c.opc == 0x0601 && c.fwOp == 2) checksFw fun s c =>
    let (st, s) := s.verifySlot c.fwKind (s.spareBank c.fwKind) 2
    s.endCmd c st 0 0)

/-- FW_UPDATE with `OP` 3 or 4, on a bank: an IMAGE record is written for every one, for one that a check ends as well (16 R492; of a
reserved `KIND` the bank and the image's fields are 0, DESIGN CHOICE, log 133). -/
def State.startRecorded (s : State) (src : CmdSrc) (op : Nat) (bankOf : State → Nat → Bool)
    (checks : State → Cmd → List (Bool × BitVec 16)) (body : State → Cmd → State) : State :=
  s.startCmd src (fun c => c.opc == 0x0601 && c.fwOp == op) (fun _ _ => []) fun s c =>
    match firstFail (checks s c) with
    | some st => (s.imageRecord c.fwKind (c.fwKind != 0 && bankOf s c.fwKind) op st).endCmd c st 0 0
    | none => body s c

/-- FW_UPDATE with `OP` 3 (16 R477, R478). -/
def execFwUpdateActivate (src : CmdSrc) (s : State) : Host.Outcome State Fault Refusal :=
  .next (s.startRecorded src 3 State.spareBank
    (fun s c =>
      let kind := c.fwKind
      checksFw s c ++ [((s.notar.slot (s.spareBank kind) kind).state != .verified
        || (kind == 1 && !(s.ident.state == 0x0 || s.ident.state == 0x2)) || (kind == 3 && s.silent.patrol.isSome), stBadState)])
    fun s c =>
      let kind := c.fwKind
      let bank := s.spareBank kind
      if kind = 3 then
        let (st, s) := s.verifySlot 3 bank 3
        if st = stOk then (s.modNotar fun n => { n.setActive 3 bank with patrolOk := true }).endCmd c stOk 0 0
        else s.endCmd c st 0 0
      else
        let s := ((s.modNotar fun n => n.setActive kind bank).imageRecord kind bank 3 stOk).endCmd c stOk 0 0
        if kind = 1 then s.restartFirmware else s)

/-- FW_UPDATE with `OP` 4 (16 R478). -/
def execFwUpdateBurn (src : CmdSrc) (s : State) : Host.Outcome State Fault Refusal :=
  .next (s.startRecorded src 4 (fun s kind => s.notar.active kind)
    (fun s c =>
      let w := (s.notar.slot (s.notar.active c.fwKind) c.fwKind).words
      checksFw s c ++ [(decide (imageField w 12 1 ≤ (s.notar.svn c.fwKind).toNat), stBadState)])
    fun s c =>
      let kind := c.fwKind
      let bank := s.notar.active kind
      let v := BitVec.ofNat 6 (min 63 (imageField (s.notar.slot bank kind).words 12 1))
      let s := s.modNotar fun n =>
        if kind = 1 then { n with svn1 := v } else if kind = 2 then { n with svn2 := v } else { n with svn3 := v }
      (s.imageRecord kind bank 4 stOk).endCmd c stOk 0 0)

/-- `VERSION` and `SVN` of the active image of a kind: 0 where there is none (16 R483). -/
def Notar.versionBytes (n : Notar) (kind : Nat) : List Byte :=
  let w := (n.slot (n.active kind) kind).words
  leBytes 4 (imageField w 8 4) ++ leBytes 1 (imageField w 12 1)

/-- Active banks of kinds 1 to 3 in one byte (16 R483). -/
def Notar.banks (n : Notar) : Byte :=
  BitVec.ofNat 8 ((if n.active1 then 1 else 0) + (if n.active2 then 2 else 0) + (if n.active3 then 4 else 0))

/-- A measurement: DMTF value type and value; none where it is not available (16 R483). -/
def State.measure (s : State) (index : Nat) : Option (Byte × List Byte) :=
  let n := s.notar
  match index with
  | 1 => some (0x00, digestBytes (some Config.romDigest))
  | 2 => some (0x01, digestBytes (some (n.m1.getD (n.measured 1 n.active1).1)))
  | 3 => n.m2.map fun m => (0x01, digestBytes (some m))
  | 4 => if n.patrolOk then some (0x01, digestBytes (some (imageDigest n.patrolImage))) else none
  | 5 => some (0x86, n.versionBytes 1 ++ n.versionBytes 2 ++ n.versionBytes 3 ++ [0])
  | 6 => some (0x87, [n.svn1.setWidth 8, n.svn2.setWidth 8, n.svn3.setWidth 8])
  | 7 => some (0x82, leBytes 4 (s.identReg 1) ++ leBytes 28 s.ident.enabled.toNat)
  | 8 => some (0x83, leBytes 4 (s.identReg 2) ++ [s.power.slotStrap.setWidth 8, n.banks, 0, 0])
  | _ => none

/-- A measurement block: index, specification, size, DMTF value type, value size, value (PRESUMED from DMTF DSP0274, log 36). -/
def measureBlock (index : Nat) (m : Byte × List Byte) : List Byte :=
  [BitVec.ofNat 8 index, 0x01] ++ leBytes 2 (3 + m.2.length) ++ [m.1] ++ leBytes 2 m.2.length ++ m.2

/-- Measurement blocks of an index: 0xFF for all that are available (16 R483). -/
def State.measureBlocks (s : State) (index : Nat) : List (List Byte) :=
  (if index = 0xFF then (List.range 8).map (· + 1) else [index]).filterMap fun i => (s.measure i).map (measureBlock i)

/-- The ASCII text of ATTEST's `CONTEXT` (16 R485). -/
def attestContext : List Byte := [0x41, 0x58, 0x44, 0x41, 0x52, 0x20, 0x53, 0x5A, 0x39, 0x20, 0x41, 0x54, 0x54, 0x20, 0x31, 0x00]

/-- ATTEST (16 R485). -/
def execAttest (src : CmdSrc) (s : State) : Host.Outcome State Fault Refusal :=
  .next (s.startCmd src (wants 0x0600)
    (fun s c => [(c.rsvBad [(0, 256), (256, 64), (320, 1)] || c.fromRmc, stBadParam), s.stateCheck c,
      (c.par 320 1 == 1 && s.notar.m2.isNone, stBadState)])
    fun s c =>
      let blocks := (s.measureBlocks 0xFF).flatten
      let body := attestContext ++ leBytes 32 (c.par 0 256) ++ leBytes 4 blocks.length ++ leBytes 8 s.cairn.next.toNat ++ leBytes 4 0 ++ blocks
      let (sig, s) := s.sign (s.notar.leaf (c.par 320 1)) body
      (s.dma (c.par 256 64) (body ++ sig)).endCmd c stOk 0 0)

end Sys2Proof.Machine
end

