-- ==== Sys2Proof/Machine/Waits.lean ====
section
/-! DEFINITION. What reaches a command or an engine from outside: answers to accesses, quiet, timeouts; with STEP_ABORT, JOB_CLOSE and
ROUTE_SWAP, which wait for quiet (10 R300, R304, 12 R377 to R379, 13 R407, R415, R416). -/

namespace Sys2Proof.Machine

/-- A command goes on with what it has received. -/
def State.goOn (s : State) (id : Nat) : State :=
  match s.cmdOf id with
  | none => s
  | some c =>
    match c.opc with
    | 0x0100 => s.copyGo c.copyFuel id
    | 0x0101 => s.fillGo c.fillFuel id
    | 0x0200 => s.imemGo id
    | 0x0301 => s.exchangeGo 4 id
    | 0x0400 => s.jobOpenGo id
    | 0x0405 => s.checkpointGo id
    | 0x0406 => s.restoreGo id
    | 0x0501 => s.replayGo id
    | 0x0601 => s.stageGo 3 id
    | _ => s

/-- An access of a command has been answered. -/
def State.cmdAnswered (s : State) (id tag : Nat) (ans : Answer) : State :=
  match s.cmdOf id with
  | none => s
  | some c =>
    match c.waits.find? fun w => w.tag == tag with
    | none => s
    | some w =>
      let c := { c with waits := c.waits.filter fun x => x.tag != tag }
      let c : Cmd := match ans with
        | .wrote => c
        | .data ws => { c with got := c.got ++ ((List.range ws.length).zip ws).map fun (i, x) => (w.index + i, x) }
        | .refused st => { c with failed := if c.failed = 0 then st else c.failed }
      (s.keepCmd c).goOn id

/-- An answer reaches the unit that issued the access (10 R311, R312). -/
def State.answer (s : State) (a : ErgAccess) (ans : Answer) : State :=
  match a.issuer with
  | .qanat p ch => if h : ch < 4 then s.qAnswered p ⟨ch, h⟩ a ans else s
  | .command id => s.cmdAnswered id a.tag ans
  | .result i => s.resultAnswered i a.tag
  | .record step => s.recordAnswered step a.tag

/-- Answers reach their units, in order. -/
def State.deliver (x : List (ErgAccess × Answer) × State) : State := x.1.foldl (fun s e => s.answer e.1 e.2) x.2

/-- `DETAIL` of a management command that timed out (12 R368). -/
def Cmd.timedDetail (c : Cmd) : Nat := if c.mgmt || c.byNotar then 2 ^ 120 * c.progress.toNat else 0

/-- A command ends with TIMEOUT of its own chapter, its progress in `DETAIL`. -/
def State.endTimeout (s : State) (c : Cmd) : State := s.endCmd c stTimeout 0 c.timedDetail

/-- Whether a STEP_ABORT's `DETAIL` says that a restore is needed (13 R407). -/
def State.restoreNeeded (s : State) (step : BitVec 32) : Bool :=
  s.job.inplaceFor step && s.job.steps.any fun e => decide (step.toNat ≤ e.1) && e.2.launchedU

/-- STEP_ABORT's last action (13 R407). -/
def State.abortEnd (s : State) (c : Cmd) : State :=
  let step := BitVec.ofNat 32 (c.par 0 32)
  let need := s.restoreNeeded step
  let s := { s with job := { s.job with
    begun := s.job.committed, worked := false, steps := s.job.steps.filter fun e => e.1 < step.toNat } }
  s.endCmd { c with progress := 6 } stOk 0 (if need then 1 else 0)

/-- ROUTE_SWAP's exchange: the banks, and the parked accesses that are retried (10 R302, R304, 13 R412). -/
def State.swapEnd (s : State) (c : Cmd) : State :=
  let s := { s with erg := s.erg.swap }
  (State.deliver s.retryParked).endCmd { c with progress := 3 } stOk 0 0

/-- JOB_CLOSE goes on to its scrub: `accA` is 1 where action 3 ended by timeout (13 R415). -/
def State.closeScrub (s : State) (c : Cmd) (notQuiet : Bool) : State :=
  s.keepCmd { c with phase := 5, progress := 4, accA := if notQuiet then 1 else 0 }

/-- The command that waits for quiet: STEP_ABORT, JOB_CLOSE or ROUTE_SWAP. -/
def State.quietWaiter (s : State) : Option Cmd :=
  s.host.cmds.find? fun c => c.started && ((c.opc == 0x0404 && c.phase == 6) || (c.opc == 0x0401 && c.phase == 3)
    || (c.opc == 0x0408 && c.phase == 1))

/-- Once the module is quiet the command that waits for it goes on (10 R300, R304, 13 R407, R415). A ROUTE_SWAP does at the end of the control
cycle, so that the cycle's other lookups use the old bank (R304). -/
def State.checkQuiet (s : State) : State :=
  if !s.erg.quietBusy || !s.isQuiet || (s.cycle.isSome && s.quietWaiter.any fun c => c.opc == 0x0408) then s
  else
    let s := { s with erg := { s.erg with quietBusy := false } }
    match s.quietWaiter with
    | none => s
    | some c =>
      if c.opc = 0x0404 then s.abortEnd c
      else if c.opc = 0x0408 then s.swapEnd c
      else s.closeScrub c false

/-- A command starts its wait for quiet in a phase, with its progress (10 R300). -/
def State.waitQuiet (s : State) (c : Cmd) (phase : Nat) (progress : Byte) : State :=
  ((s.keepCmd { c with phase := phase, progress := progress }).sendProbes).checkQuiet

/-- A command still running is completed with BAD_STATE; a LAUNCH with its streams as they stand (13 R407, R415). -/
def State.endStopped (s : State) (c : Cmd) : State :=
  if c.opc = 0x0201 then
    let s := s.launchStep c
    let (_, fl, det) := s.launchResult c
    s.endCmd c stBadState fl det
  else s.endCmd c stBadState 0 0

/-- STEP_ABORT's actions 1 to 5 for a step (13 R407). Stepped commands that have been fetched and not started are refused as the fence
refuses them (DEDUCED, log 39). -/
def State.abortWork (s : State) (step : BitVec 32) : State :=
  let n := step.toNat
  let s0 := s
  let mine := fun (c : Cmd) => isStepped c.opc && (match c.step with
    | some x => decide (n ≤ x.toNat)
    | none => false)
  let s := { s with job := { s.job with fence := true, fenceStep := step } }
  let s := s.haltAll fun st => decide (n ≤ st.step.toNat)
  let s := s.ident.cores.foldl (fun (s : State) p =>
    let s := s.qFlagsHeads p fun d => decide (step.toNat ≤ d.step.toNat)
    s.setCore p ((s.core p).qDiscard (some step))) s
  let s := { s with
    coll := s.coll.discard (some step), silent := s.silent.dropFrom n,
    job := { s.job with observed := s.job.observed.filter (fun e => e.1 < 8192 * n),
                        closing := s.job.closing.filter fun k => k.step.toNat < n } }
  let s := s.discardWaiting step
  let s := s.abortReplay s0 step
  let s := (s.host.cmds.filter fun c => c.started && mine c).foldl (fun (s : State) c => s.endStopped c) s
  { s with
    host := { s.host with cmds := s.host.cmds.map fun c => if mine c then { c with refused := true } else c },
    job := { s.job with steps := s.job.steps.map fun e =>
      if e.1 < n then e else (e.1, { StepInfo.reset with launchedU := e.2.launchedU }) } }

/-- STEP_ABORT with `PHASE` 0 (13 R407). -/
def execStepAbort (src : CmdSrc) (s : State) : Host.Outcome State Fault Refusal :=
  .next (s.startCmd src (fun c => c.opc == 0x0404 && c.par 32 1 == 0)
    (fun s c => checksStep s c ++ [(BitVec.ofNat 32 (c.par 0 32) != s.job.committed + 1, stBadState)])
    fun s c => (s.abortWork (BitVec.ofNat 32 (c.par 0 32))).waitQuiet c 6 5)

/-- JOB_CLOSE's actions 1 and 2 (13 R415). Commands of mailboxes that have not started stay in hand: they are no part of the job. -/
def State.closeWork (s : State) (self : Nat) : State :=
  let s0 := s
  let s := (s.setState 0x4).haltAll fun _ => true
  let s := s.ident.cores.foldl (fun (s : State) p =>
    let s := s.qFlagsHeads p fun _ => true
    s.setCore p ((s.core p).qDiscard none)) s
  let s := s.coll.waiting.foldl (fun s x => s.returnCredits x.1 x.2) { s with coll := { s.coll.discard none with waiting := [] } }
  let stops := fun (c : Cmd) => c.id != self && (c.started || (match c.src with
    | .queue _ => true
    | .mailbox _ => false))
  let s := ((s.host.cmds.filter stops).foldl (fun (s : State) c =>
    if c.started then s.endStopped c else s.endCmd c stBadState 0 0) s.disarm).oneCycle s0
  { s with
    job := { s.job with closingDown := true },
    erg := { s.erg with parked := [], reqs := [], tx := s.erg.tx.map fun t => { t with waiting := [] } } }

/-- Checks of JOB_CLOSE. It runs in `STATE` 0x3, and in 0x4 to take up a close that timed out (DESIGN CHOICE, log 40). -/
def checksClose (s : State) (c : Cmd) : List (Bool × BitVec 16) :=
  [(c.rsvBad [], stBadParam)] ++ s.genCheck c ++ [s.stateCheck c, (!(s.ident.state == 0x3 || s.ident.state == 0x4), stBadState)]

/-- JOB_CLOSE (13 R415). -/
def execJobClose (src : CmdSrc) (s : State) : Host.Outcome State Fault Refusal :=
  .next (s.startCmd src (wants 0x0401) checksClose fun s c => (s.closeWork c.id).waitQuiet c 3 2)

/-- TEARDOWN_TO_EXPIRY: the close stops waiting for quiet (13 R415). -/
def execTeardownToExpiry (s : State) : Host.Outcome State Fault Refusal :=
  .next (match s.quietWaiter with
    | some c =>
      if c.opc = 0x0401 then ({ s with erg := { s.erg with quietBusy := false, probes := 0 } } : State).closeScrub c true else s
    | none => s)

/-- The memory of a mapped page reads as 0 (13 R415, 10 R298). -/
def Mem.clearPage (m : Mem) (e : BitVec 32) : Mem :=
  let region := bitsOf e.toNat 2 4
  let k := dramKey region (2 ^ 21 * bitsOf e.toNat 6 18)
  if bitsOf e.toNat 0 1 = 0 ∨ 4 < region then m
  else if region < 4 then { m with bonded := spDrop m.bonded k 65536 }
  else { m with lpddr := spDrop m.lpddr k 65536 }

/-- A stream as JOB_CLOSE leaves it (13 R415). -/
def Stream.closed (st : Stream) : Stream :=
  { st with state := .idle, haltCause := 0, launch := none, h0 := { st.h0 with state := .empty, lines := [] }, h1 := { st.h1 with state := .empty, lines := [] } }

/-- A core as JOB_CLOSE leaves it: memories zero, streams Idle, halves Empty, token counters 0 with the posts on their way to them counted
before (13 R415; DESIGN CHOICE, log 104). -/
def Core.closed (c : Core) : Core :=
  { c with
    posts := [], inbound := [], spad := [], slabs := [], f := c.f.closed, b := c.b.closed, u := c.u.closed, tokens := Vector.replicate 32 0,
    bank0 := { c.bank0 with entries := [], poison := false }, bank1 := { c.bank1 with entries := [], poison := false } }

/-- JOB_CLOSE's actions 5 and 6 (13 R415). -/
def State.closeEnd (s : State) : State :=
  let mem := s.erg.pages.foldl (fun m e => m.clearPage e.2) s.mem
  let s := s.ident.cores.foldl (fun (s : State) p => s.setCore p (s.core p).closed) s
  let s := { s with
    mem := mem,
    erg := { s.erg.clearStreams with pages := [], rank0 := [], rank1 := [], bounced := [], trunkRate := 0 },
    coll := { Coll.reset with bktTo := s.coll.bktTo },
    job := { JobRegs.reset with teardownTo := s.job.teardownTo },
    silent := { s.silent with table := [], dropped := 0, badKind := 0 },
    ident := { s.ident with jobOpen := false } }
  (s.setQsteps 0).setState 0x2

/-- JOB_CLOSE_SCRUB_DONE (13 R415, 16 R492). -/
def execJobCloseScrubDone (s : State) : Host.Outcome State Fault Refusal :=
  .next (match s.host.cmds.find? fun c => c.started && c.opc == 0x0401 && c.phase == 5 with
    | none => s
    | some c =>
      let id := s.job.jobId.toNat
      let rank := s.job.rank.toNat
      ((s.closeEnd.record 0x0050 1 ([1] ++ leBytes 4 id ++ leBytes 2 rank ++ [BitVec.ofNat 8 c.accA])).endCmd { c with progress := 6 }
        stOk 0 c.accA).oneCycle s)

/-- ROUTE_SWAP (10 R304, 13 R412). -/
def execRouteSwap (src : CmdSrc) (s : State) : Host.Outcome State Fault Refusal :=
  .next (s.startCmd src (wants 0x0408)
    (fun s c => [(c.rsvBad [(0, 1)], stBadParam), s.stateCheck c, (s.erg.swapPending, stBusy)])
    fun s c =>
      ({ s with erg := { s.erg with swapPending := true, copyback := c.par 0 1 == 1 } } : State).waitQuiet c 1 1)

/-- QUIET_TO_EXPIRY: the probe set has timed out (10 R300, R304, 13 R407). JOB_CLOSE goes on waiting for its own limit. -/
def execQuietToExpiry (s : State) : Host.Outcome State Fault Refusal :=
  .next (if !s.erg.quietBusy || s.isQuiet then s
    else
      match s.quietWaiter with
      | none => { s with erg := { s.erg with quietBusy := false, probes := 0 } }
      | some c =>
        if c.opc = 0x0401 then s
        else
          ({ s with erg := { s.erg with
              quietBusy := false, probes := 0, swapPending := s.erg.swapPending && c.opc != 0x0408 } } : State).endTimeout c)

/-- A command that has had its timeout reply, and waits for nothing but quiet, stops there: JOB_CLOSE before its scrub, STEP_ABORT and
ROUTE_SWAP (12 R378, R379, 13 R416). -/
def State.stopQuiet (s : State) (c : Cmd) : State :=
  let s := { s with erg := { s.erg with quietBusy := false, probes := 0, swapPending := s.erg.swapPending && c.opc != 0x0408 } }
  s.endCmd c stTimeout 0 0

/-- The timeout of a command in hand expires (12 R378, R379). -/
def State.timeOut (s : State) (c : Cmd) : State :=
  let (s, fl, det) :=
    if c.opc = 0x0201 then
      let mine := (s.namedStreams c).filter fun x => ((s.core x.1).stream x.2).launch == some c.id
      let s := (s.haltStreams mine).launchStep c
      let (_, fl, det) := s.launchResult c
      (s, fl, det)
    else (s, 0, c.timedDetail)
  let s := s.cmdOutcome c stTimeout
  let s := s.replyTo c (cplEntry stTimeout (BitVec.ofNat 16 c.opc) c.seq 0 fl c.limit det) stTimeout
  let waiter := s.quietWaiter
  let c' := { c with replied := true, accA := if c.opc = 0x0201 then 1 else c.accA }
  let s := (s.keepCmd c').settleQueues
  match waiter with
  | some w => if w.id = c.id then s.stopQuiet c' else s
  | none => s.goOn c.id

/-- COMMAND_TIMEOUT: the timeout of the i-th command of a source that has started and not been answered expires; an armed REPLAY counts as
the last of them (12 R377, R378, 14 R433). -/
def execCommandTimeout (src : CmdSrc) (i : Nat) (s : State) : Host.Outcome State Fault Refusal :=
  let mine := s.host.cmds.filter fun c => c.src == src && c.started && !c.replied
  .next (match mine[i]? with
    | some c => s.timeOut c
    | none =>
      match s.silent.replay with
      | some r =>
        if r.cmd.src = src ∧ i = mine.length ∧ s.closesNow r.step = false then
          let s := { s with
            silent := { s.silent with replay := none }, host := { s.host with late := satInc s.host.late } }
          s.replyTo r.cmd (cplEntry stTimeout 0x0501 r.cmd.seq 0 0 r.cmd.limit r.cmd.timedDetail) stTimeout
        else s
      | none => s)

/-- A fill under way goes on: how far it has come is a free value, which does not fall (09 R280). -/
def State.fillOn (s : State) : State :=
  if s.mem.fillActive then
    let (z, s) := s.draw 15
    { s with mem := { s.mem with fillProgress := BitVec.ofNat 8 (max s.mem.fillProgress.toNat (z % 256)) } }
  else s

/-- What the block does when no command waits: time passes, in which a dump under way ends, a packet in `TX` is taken, credits of the links
come back, a fill goes on, power domains come up or go off, a switch of the reference ends, and the control cycle of a lock ends (DESIGN
CHOICE, log 41). -/
def State.idle (s : State) : State :=
  let s := match s.silent.dump with
    | some r => s.endDump r
    | none => s
  let s := (s.modNotar fun n => { n with txBusy := false }).creditsBack.fillOn
  { s with erg := { s.erg with lockCycle := false }, power := { s.power.domainStep with clocksStopped := false } }

end Sys2Proof.Machine
end

