-- ==== Sys2Proof/Machine/ErgGroup.lean ====
section
/-! DEFINITION. What the rows of the Erg links, of the Erg packets and of the reduction engine do (10, 11). -/

namespace Sys2Proof.Machine

/-- LINK_FRAME: the expected frame is taken; a CRC failure discards it and the later ones until it comes again, and is answered with its
number, each time that it fails (10 R286). The FEC code words that it took are counted (R316). -/
def execLinkFrame (p : Fin 16) (seq : BitVec 12) (check : FrameCheck) (s : State) : Host.Outcome State Fault Refusal :=
  let q := s.port p
  .next (if q.lstate ≠ .up then s
    else
      let s := s.modPort p fun q => { q with fecCorr := satAdd q.fecCorr check.corr, fecUncorr := satAdd q.fecUncorr check.uncorr }
      if check.crcOk then
        if seq = q.rxSeq then s.modPort p fun q => { q with rxSeq := q.rxSeq + 1, discarding := false } else s
      else
        let s := s.modPort p fun q => { q with crcFail := satInc q.crcFail, discarding := true }
        if q.discarding ∧ seq ≠ q.rxSeq then s else s.send (.nak p.val q.rxSeq))

/-- Frames of a port go out again, in order (10 R286). -/
def State.resendFrames (s : State) (p : Fin 16) (l : List (BitVec 12 × ErgPacket)) : State :=
  l.foldl (fun (s : State) e => s.send (.frame p.val e.1 e.2)) s

/-- LINK_NAK: the transmitter replays from the named frame; once four replays of it have failed the link goes to Recovery (10 R286,
R287). -/
def execLinkNak (p : Fin 16) (seq : BitVec 12) (s : State) : Host.Outcome State Fault Refusal :=
  let q := s.port p
  let l := q.replayBuf.dropWhile fun e => e.1 != seq
  let n := if q.failSeq = seq then q.fails else 0
  .next (if q.lstate ≠ .up ∨ l.isEmpty then s
    else if 4 ≤ n then s.setLink p .recovery
    else (s.modPort p fun q => { q with fails := n + 1, failSeq := seq, replays := satInc q.replays }).resendFrames p l)

/-- LINK_TRAINING_COMPLETE: a link in Training or Recovery is Up, and sends the frames in its replay buffer, then what waits in its lanes
(10 R287, R288). -/
def execLinkTrainingComplete (p : Fin 16) (s : State) : Host.Outcome State Fault Refusal :=
  let q := s.port p
  .next (if q.lstate = .training ∨ q.lstate = .recovery then ((s.setLink p .up).resendFrames p q.replayBuf).transmit q.queued p
    else s)

/-- RETRAIN_BUDGET_EXPIRY: a link still in Recovery enters Down (10 R287). -/
def execRetrainBudgetExpiry (p : Fin 16) (s : State) : Host.Outcome State Fault Refusal :=
  .next (if (s.port p).lstate = .recovery then s.setLink p .down else s)

/-- WRITE (10 R294, R306). -/
def execWrite (p : Fin 16) (pkt : ErgPacket) (s : State) : Host.Outcome State Fault Refusal :=
  .next (s.consumes p pkt [0x01] fun s => s.sequenceRequest p pkt)

/-- READ (10 R306, R312). -/
def execRead (p : Fin 16) (pkt : ErgPacket) (s : State) : Host.Outcome State Fault Refusal :=
  .next (s.consumes p pkt [0x02] fun s => s.sequenceRequest p pkt)

/-- The access of a request no longer waits for its packet's ACK: it has been answered otherwise, or is parked. -/
def Fabric.unhook (f : Fabric) (tag : Nat) : Fabric :=
  { f with tx := f.tx.map fun t => { t with unacked := t.unacked.map fun r =>
      if (r.access.any fun a => a.tag == tag) then { r with access := none } else r } }

/-- READ_DATA: the words reach the unit that asked for them (10 R308). -/
def execReadData (p : Fin 16) (pkt : ErgPacket) (s : State) : Host.Outcome State Fault Refusal :=
  .next (s.consumes p pkt [0x08] fun s =>
    match s.erg.reqOf (pkt.hdr.csum.toNat % 65536) with
    | none => s
    | some a =>
      if a.opc ≠ 0x02 ∨ pkt.hdr.len.toNat ≠ a.rlen.toNat + 1 then s
      else
        let (ws, s) := s.takePayload p.val pkt
        let s := ws.foldl (fun (s : State) w => s.crossing .io a.site w.poison) s
        State.deliver ([(a, .data ws)], { s with erg := (s.erg.dropReq a.tag).unhook a.tag }))

/-- STATUS: a request has been refused; one refused with NO_ROUTE is parked (10 R303, R311). -/
def execStatus (p : Fin 16) (pkt : ErgPacket) (s : State) : Host.Outcome State Fault Refusal :=
  .next (s.consumes p pkt [0x09] fun s =>
    let st : BitVec 16 := pkt.hdr.addr.extractLsb' 0 16
    match s.erg.reqOf (pkt.hdr.csum.toNat % 65536) with
    | none => s
    | some a =>
      let s := { s with erg := s.erg.unhook a.tag }
      if st = stNoRoute then (if (s.erg.parked.any fun b => b.tag == a.tag) then s else s.park a)
      else State.deliver ([(a, .refused st)], { s with erg := s.erg.dropReq a.tag }))

/-- ACK (10 R309, R312). -/
def execAck (p : Fin 16) (pkt : ErgPacket) (s : State) : Host.Outcome State Fault Refusal :=
  .next (s.consumes p pkt [0x0A] fun s =>
    (State.deliver (s.ackStream pkt.hdr.src (pkt.hdr.addr.extractLsb' 32 16) pkt.hdr.seq pkt.hdr.csum)).checkQuiet)

/-- QUIET: the probe of a plane returns (10 R300). -/
def execQuiet (p : Fin 16) (pkt : ErgPacket) (s : State) : Host.Outcome State Fault Refusal :=
  .next (s.consumes p pkt [0x30] fun s =>
    if pkt.hdr.src = s.ident.id ∧ pkt.hdr.dst = s.ident.id then
      ({ s with erg := { s.erg with probes := s.erg.probes &&& ~~~ BitVec.ofNat 16 (2 ^ p.val) } } : State).checkQuiet
    else s)

/-- The READ that a bounced READ_DATA answers (10 R308). -/
def bouncedRead (h : ErgHdr) : ErgPacket :=
  { hdr := { ErgHdr.zero with
      src := h.dst, opc := 0x02, space := h.space, addr := h.addr, rank := h.rank, seq := h.seq,
      csum := BitVec.ofNat 64 (h.csum.toNat % 65536 + 2 ^ 26 * (h.len.toNat - 1)) },
    payload := [] }

/-- BOUNCE (10 R308). -/
def execBounce (p : Fin 16) (pkt : ErgPacket) (s : State) : Host.Outcome State Fault Refusal :=
  .next (s.consumes p pkt [0x31] fun s =>
    let h := pkt.hdr
    let o := h.bopc.toNat
    if h.src ≠ s.ident.id then s
    else
      let s := { s with erg := { s.erg with
        bounced := spMod 0 s.erg.bounced h.dst.toNat fun m => m ||| BitVec.ofNat 16 (2 ^ p.val) } }
      if o = 0x01 ∨ o = 0x02 then State.deliver (s.resend h.dst 0xFFFF h.seq false)
      else if 0x10 ≤ o then State.deliver (s.resend h.dst (h.addr.extractLsb' 32 16) h.seq false)
      else if o = 0x09 then s.respond p.val { pkt with hdr := { h with opc := 0x09, vl := 1, bopc := 0 } }
      else if o = 0x08 then s.applyRequest p.val (bouncedRead h) []
      else s)

/-- ACK_TIMER_EXPIRY: 0.5 µs have passed since the first packet that no ACK covers (10 R307, R309). -/
def execAckTimerExpiry (src : BitVec 12) (sid : BitVec 16) (s : State) : Host.Outcome State Fault Refusal :=
  .next (match (s.erg.rxOf src sid).plane with
    | some plane => s.sendAck src sid plane
    | none => s)

/-- RESEND_TIMER_EXPIRY (10 R310). -/
def execResendTimerExpiry (dst : BitVec 12) (sid : BitVec 16) (seq : BitVec 32) (s : State) : Host.Outcome State Fault Refusal :=
  .next (State.deliver (s.resend dst sid seq true)).checkQuiet

/-- NR_HOLD_EXPIRY: the i-th parked access is refused (10 R302). -/
def execNrHoldExpiry (i : Nat) (s : State) : Host.Outcome State Fault Refusal :=
  .next (match s.erg.parked[i]? with
    | none => s
    | some a => State.deliver ([(a, .refused stNoRoute)], { s with erg := s.erg.dropReq a.tag }))

/-- Opcodes of 10 R292 and 11 R354. -/
def opcKnown (x : Nat) : Bool :=
  x == 0x01 || x == 0x02 || (decide (0x08 ≤ x) && decide (x ≤ 0x0A)) || (decide (0x10 ≤ x) && decide (x ≤ 0x1A)) || x == 0x30 || x == 0x31

/-- BAD_PKT: a packet that 10 R292 drops is counted; one that comes before the lock is counted as such (01 R27). -/
def execBadPkt (p : Fin 16) (pkt : ErgPacket) (s : State) : Host.Outcome State Fault Refusal :=
  .next (if !s.receives p then s
    else if !s.ident.coordLock then (s.ergCount 0).returnCredits p pkt
    else if !opcKnown pkt.hdr.opc.toNat || s.dropCounter pkt == some 4 then (s.ergCount 4).returnCredits p pkt
    else s)

/-- HDR_UE: a packet whose header is uncorrectable is dropped, counted and logged at source 19 (09 R280, 10 R296). -/
def execHdrUe (p : Fin 16) (syndrome : BitVec 32) (s : State) : Host.Outcome State Fault Refusal :=
  .next (if !s.receives p then s
    else if !s.ident.coordLock then s.ergCount 0
    else
      let lane := BitVec.ofNat 8 p.val
      ((s.ergCount 5).latchUe 19 false false lane 0 syndrome).ueRecord 19 false false lane 0 syndrome)

/-- An answer reaches whoever handed in a contribution (11 R322, R325). -/
def State.contributed (s : State) (i : Issuer) (tag : Nat) (ans : Answer) : State :=
  s.answer { ErgAccess.blank i none 0x01 0 with tag := tag } ans

/-- CONTRIBUTION: the oldest contribution at the exchange port enters the engine (11 R322). -/
def execContribution (s : State) : Host.Outcome State Fault Refusal :=
  .next (match s.takeContribution with
    | (none, s) => s
    | (some (i, tag, ans), s) => s.contributed i tag ans)

/-- INSTANCE_ADMIT (11 R325). -/
def execInstanceAdmit (i : InstId) (s : State) : Host.Outcome State Fault Refusal := .next (s.admitInst i)

/-- NODE_OUTPUT (11 R334, R342). -/
def execNodeOutput (r : NodeRun) (s : State) : Host.Outcome State Fault Refusal :=
  .next (s.nodeOutput r.id r.first r.again)

/-- BUCKET_TIMEOUT (11 R350). -/
def execBucketTimeout (i : InstId) (s : State) : Host.Outcome State Fault Refusal := .next (s.bucketTimeout i)

/-- A collective packet of some opcodes arrives (10 R306, 11 R354). -/
def State.collArrives (s : State) (p : Fin 16) (pkt : ErgPacket) (ops : List Nat) : State :=
  s.arrives p pkt ops fun s => s.sequenceColl p pkt fun s ws => s.offer p pkt ws

/-- UP_DATA (11 R334, R354). -/
def execUpData (p : Fin 16) (pkt : ErgPacket) (s : State) : Host.Outcome State Fault Refusal := .next (s.collArrives p pkt [0x10, 0x11])
/-- UP_META (11 R334, R354). -/
def execUpMeta (p : Fin 16) (pkt : ErgPacket) (s : State) : Host.Outcome State Fault Refusal := .next (s.collArrives p pkt [0x14])
/-- DOWN_DATA (11 R343, R354). -/
def execDownData (p : Fin 16) (pkt : ErgPacket) (s : State) : Host.Outcome State Fault Refusal := .next (s.collArrives p pkt [0x12, 0x13])
/-- DOWN_META (11 R334, R354). -/
def execDownMeta (p : Fin 16) (pkt : ErgPacket) (s : State) : Host.Outcome State Fault Refusal := .next (s.collArrives p pkt [0x15])
/-- BACK (11 R335). -/
def execBack (p : Fin 16) (pkt : ErgPacket) (s : State) : Host.Outcome State Fault Refusal := .next (s.collArrives p pkt [0x16])
/-- RESEND_REQ (11 R343). -/
def execResendReq (p : Fin 16) (pkt : ErgPacket) (s : State) : Host.Outcome State Fault Refusal := .next (s.collArrives p pkt [0x17])
/-- REDO (11 R332). -/
def execRedo (p : Fin 16) (pkt : ErgPacket) (s : State) : Host.Outcome State Fault Refusal := .next (s.collArrives p pkt [0x18])
/-- ARRIVE_DATA (11 R338). -/
def execArriveData (p : Fin 16) (pkt : ErgPacket) (s : State) : Host.Outcome State Fault Refusal := .next (s.collArrives p pkt [0x19])
/-- ARRIVE_META (11 R338). -/
def execArriveMeta (p : Fin 16) (pkt : ErgPacket) (s : State) : Host.Outcome State Fault Refusal := .next (s.collArrives p pkt [0x1A])

end Sys2Proof.Machine
end

