-- ==== Sys2Proof/Machine/Spdm.lean ====
section
/-! DEFINITION. SPDM over DOE and MCTP, MCTP control messages, DOE Discovery (12 R358, 16 R481 to R484). Message layouts, response and
error codes are those of DMTF DSP0274, DSP0236 and the PCIe Base Specification, which the spec names (PRESUMED, log 36). -/

namespace Sys2Proof.Machine

/-- The certificate chain of a slot (16 R473, R482): length, the root's digest, the certificates. -/
def Notar.chain (n : Notar) (serial : BitVec 64) (slot : Nat) : List Byte :=
  let certs := deviceCa ++ idevId serial ++ n.aliasMf serial ++ (if slot = 1 then n.aliasCm serial else [])
  leBytes 2 (52 + certs.length) ++ [0, 0] ++ digestBytes (some Config.rootDigest) ++ certs

/-- Whether a certificate slot exists (16 R482). -/
def Notar.slotOk (n : Notar) (slot : Nat) : Bool := slot == 0 || (slot == 1 && n.m2.isSome)

/-- A transport's connection. -/
def Notar.conn (n : Notar) (t : Transport) : SpdmConn :=
  match t with
  | .doe => n.doe
  | .mctp => n.mctp

/-- A transport's connection changes. -/
def State.modConn (s : State) (t : Transport) (f : SpdmConn → SpdmConn) : State :=
  s.modNotar fun n => match t with
    | .doe => { n with doe := f n.doe }
    | .mctp => { n with mctp := f n.mctp }

/-- Whether requests reach Notar on a transport. -/
def State.spdmUp (s : State) (t : Transport) : Bool :=
  match t with
  | .doe => s.pcieUp
  | .mctp => s.i3cUp

/-- Words of the `RX` registers that hold a packet. -/
def rxWords (l : List Byte) : Vector Reg 17 :=
  (List.finRange 17).foldl (fun (v : Vector Reg 17) i =>
    v.set i.val (BitVec.ofNat 32 (packBits 8 (((l.drop (4 * i.val)).take 4).map (·.toNat))))) (Vector.replicate 17 0)

/-- A packet for the RMC goes to `RX`, or waits in Notar (16 R484). -/
def Notar.putRx (n : Notar) (l : List Byte) : Notar :=
  if n.rxReady then { n with rxWaiting := n.rxWaiting ++ [l] }
  else { n with rxReady := true, rxLen := BitVec.ofNat 8 l.length, rx := rxWords l }

/-- MCTP packets of a message, in pieces of at most 64 bytes: header version, destination, source, start and end marks, packet number
and tag, then the piece. -/
def mctpPackets (fuel : Nat) (dst src tag : Byte) (seq : Nat) (first : Bool) (l : List Byte) : List (List Byte) :=
  match fuel with
  | 0 => []
  | k + 1 =>
    let last := decide (l.length ≤ 64)
    let flags := (if first then 0x80 else 0) + (if last then 0x40 else 0) + seq % 4 * 16 + tag.toNat % 8
    ([0x01, dst, src, BitVec.ofNat 8 flags] ++ l.take 64) :: (if last then [] else mctpPackets k dst src tag (seq + 1) false (l.drop 64))

/-- Byte i of the packet in `TX`. -/
def Notar.txByte (n : Notar) (i : Nat) : Byte := BitVec.ofNat 8 (bitsOf (n.tx.toList.getD (i / 4) 0).toNat (8 * (i % 4)) 8)

/-- The packet in `TX` has been taken, and a message goes back to its sender (16 R484). -/
def State.mctpReply (s : State) (l : List Byte) : State :=
  s.modNotar fun n =>
    let ps := mctpPackets (l.length / 64 + 1) (n.txByte 2) n.eid (n.txByte 3) 0 true l
    ps.foldl Notar.putRx { n with txBusy := false }

/-- A DOE data object of the SPDM (1) or Secured SPDM (2) protocol: vendor 0x0001, type, length in doublewords, contents padded to
doublewords (PRESUMED from the PCIe Base Specification, log 36). -/
def doeObject (type : Byte) (l : List Byte) : List Byte :=
  let n := (l.length + 3) / 4
  [0x01, 0x00, type, 0x00] ++ leBytes 4 (n + 2) ++ l ++ List.replicate (4 * n - l.length) 0

/-- An SPDM message goes back on its transport, inside a secure session as a secured message (16 R481): on DOE as a data object, on MCTP
as a message of type 0x05 or 0x06. -/
def State.spdmSend (s : State) (t : Transport) (secure : Bool) (l : List Byte) : State :=
  let c := s.notar.conn t
  let s := s.send (.spdm t l)
  let l := if secure then Config.secured l c.opened c.keys else l
  match t with
  | .doe => s.send (.doe (doeObject (if secure then 2 else 1) l))
  | .mctp => s.mctpReply ((if secure then 0x06 else 0x05) :: l)

/-- Response header: version 1.3, code, two parameters. -/
def spdmHead (code p1 p2 : Byte) : List Byte := [0x13, code, p1, p2]

/-- ERROR with a code: 0x01 InvalidRequest, 0x04 UnexpectedRequest, 0x07 UnsupportedRequest, 0x0B SessionRequired, 0x42
ResponseNotReady. -/
def spdmError (code : Byte) : List Byte := spdmHead 0x7F code 0

/-- A request is served if it comes in the connection's state. -/
def State.spdmServe (s : State) (t : Transport) (ok : SpdmConn → Bool) (f : State → State) : Host.Outcome State Fault Refusal :=
  .next (if !s.spdmUp t then s else if ok (s.notar.conn t) then f s else s.spdmSend t false (spdmError 0x04))

/-- A connection in which algorithms have been agreed. -/
def SpdmConn.agreed (c : SpdmConn) : Bool := c.phase == .negotiated

/-- A response that may be delayed (16 R482): it goes at once, or ERROR ResponseNotReady with a token goes and the response waits for
RESPOND_IF_READY. Which happens is a free choice, since the spec bounds no response time. -/
def State.spdmMaybeLater (s : State) (t : Transport) (l : List Byte) : State :=
  let later := Config.freeBit s.free
  let (tok, s) := s.draw 8
  if later then
    let tok := BitVec.ofNat 8 tok
    (s.modConn t fun c => { c with delayed := some (tok, l) }).spdmSend t false (spdmError 0x42 ++ [0, l.getD 1 0, tok, 0])
  else s.spdmSend t false l

/-- Request codes that Notar lists: GET_DIGESTS, GET_CERTIFICATE, CHALLENGE, GET_VERSION, GET_MEASUREMENTS, GET_CAPABILITIES,
NEGOTIATE_ALGORITHMS, KEY_EXCHANGE, FINISH, HEARTBEAT, KEY_UPDATE, END_SESSION, RESPOND_IF_READY (16 R482). -/
def spdmRequests : List Byte := [0x81, 0x82, 0x83, 0x84, 0xE0, 0xE1, 0xE3, 0xE4, 0xE5, 0xE8, 0xE9, 0xEC, 0xFF]

/-- GET_VERSION, code 0x84: 1.3 only; the connection starts anew. Any request code that is not listed is answered with ERROR
UnsupportedRequest; the other listed ones have rows of their own, and nothing happens here (16 R482). -/
def execGetVersion (r : SpdmAsk) (s : State) : Host.Outcome State Fault Refusal :=
  let t := r.t
  s.spdmServe t (fun _ => true) fun s =>
    if spdmRequests.contains r.code = false then s.spdmSend t false (spdmHead 0x7F 0x07 r.code)
    else if r.code ≠ 0x84 then s
    else (s.modConn t fun c => { c.ended with phase := .versioned, delayed := none }).spdmSend t false [0x10, 0x04, 0, 0, 0, 0x01, 0x00, 0x13]

/-- Flags of CAPABILITIES: CERT, CHAL, MEAS with signature, ENCRYPT, MAC, KEY_EX, HBEAT, KEY_UPD (16 R482). -/
def capabilityFlags : Nat := 2 ^ 1 + 2 ^ 2 + 2 ^ 4 + 2 ^ 6 + 2 ^ 7 + 2 ^ 9 + 2 ^ 13 + 2 ^ 14

/-- GET_CAPABILITIES (16 R482): the largest message is 4,096 bytes. The response time exponent is a free value. -/
def execGetCapabilities (t : Transport) (s : State) : Host.Outcome State Fault Refusal :=
  s.spdmServe t (fun c => c.phase != .idle) fun s =>
    let (ct, s) := s.draw 9
    (s.modConn t fun c => { c with phase := .capable }).spdmSend t false
      (spdmHead 0x61 0 0 ++ [0, BitVec.ofNat 8 ct, 0, 0] ++ leBytes 4 capabilityFlags ++ leBytes 4 4096 ++ leBytes 4 4096)

/-- ALGORITHMS (16 R482), in DSP0274's layout: two bytes of length, the DMTF measurement specification, other parameters, the
measurement hash SHA-384, the base algorithm ECDSA P-384, the base hash SHA-384, no extended ones; then the structures DHE secp384r1,
AEAD AES-256-GCM and the key schedule of SPDM. The other parameters, which the spec does not state, are free. -/
def algorithmsBody (other : Byte) : List Byte :=
  leBytes 2 48 ++ [0x01, other] ++ leBytes 4 0x4 ++ leBytes 4 0x80 ++ leBytes 4 0x2 ++ List.replicate 16 0
    ++ [0x02, 0x20] ++ leBytes 2 0x10 ++ [0x03, 0x20] ++ leBytes 2 0x2 ++ [0x05, 0x20] ++ leBytes 2 0x1

/-- NEGOTIATE_ALGORITHMS (16 R482). -/
def execNegotiateAlgorithms (t : Transport) (req : List Byte) (s : State) : Host.Outcome State Fault Refusal :=
  s.spdmServe t (fun c => c.phase == .capable || c.phase == .negotiated) fun s =>
    if Config.spdmOffersAlgorithms req then
      (s.modConn t fun c => { c with phase := .negotiated }).spdmSend t false (spdmHead 0x63 3 0 ++ algorithmsBody ((Config.spdmBody 0x63 req s.free).headD 0))
    else s.spdmSend t false (spdmError 0x01)

/-- GET_DIGESTS: slot 0, and slot 1 while Alias-CM exists (16 R482). -/
def execGetDigests (t : Transport) (s : State) : Host.Outcome State Fault Refusal :=
  s.spdmServe t SpdmConn.agreed fun s =>
    let n := s.notar
    let slots := (List.range 2).filter n.slotOk
    s.spdmSend t false (spdmHead 0x01 0x03 (if n.slotOk 1 then 0x03 else 0x01) ++
      slots.flatMap fun k => digestBytes (some (Config.sha384 (n.chain s.ident.serial k))))

/-- GET_CERTIFICATE: a portion of a slot's chain, within the largest message (16 R482). -/
def execGetCertificate (t : Transport) (slot off len : Nat) (s : State) : Host.Outcome State Fault Refusal :=
  s.spdmServe t SpdmConn.agreed fun s =>
    let l := s.notar.chain s.ident.serial slot
    if !s.notar.slotOk slot || decide (l.length ≤ off) then s.spdmSend t false (spdmError 0x01)
    else
      let m := min (min len 4088) (l.length - off)
      s.spdmSend t false (spdmHead 0x02 (BitVec.ofNat 8 slot) 0 ++ leBytes 2 m ++ leBytes 2 (l.length - off - m) ++ (l.drop off).take m)

/-- A signed response: what it holds, then the signature of a slot's leaf key over it (16 R482). The transcript that DSP0274 puts before
it is part of the free body. -/
def State.signed (s : State) (slot : Nat) (l : List Byte) : List Byte × State :=
  let (sig, s) := s.sign (s.notar.leaf slot) l
  (l ++ sig, s)

/-- CHALLENGE (16 R482). -/
def execChallenge (t : Transport) (slot : Nat) (req : List Byte) (s : State) : Host.Outcome State Fault Refusal :=
  s.spdmServe t SpdmConn.agreed fun s =>
    if !s.notar.slotOk slot then s.spdmSend t false (spdmError 0x01)
    else
      let (l, s) := s.signed slot (spdmHead 0x03 (BitVec.ofNat 8 slot) 0 ++ digestBytes (some (Config.sha384 (s.notar.chain s.ident.serial slot)))
        ++ Config.spdmBody 0x03 req s.free)
      s.spdmMaybeLater t l

/-- GET_MEASUREMENTS (16 R482, R483). -/
def execGetMeasurements (t : Transport) (index : Nat) (req : List Byte) (s : State) : Host.Outcome State Fault Refusal :=
  s.spdmServe t SpdmConn.agreed fun s =>
    let bs := s.measureBlocks index
    if bs.isEmpty then s.spdmSend t false (spdmError 0x01)
    else
      let rec_ := bs.flatten
      let (l, s) := s.signed 0 (spdmHead 0x60 0 0 ++ [BitVec.ofNat 8 bs.length] ++ leBytes 3 rec_.length ++ rec_ ++ Config.spdmBody 0x60 req s.free)
      s.spdmMaybeLater t l

/-- KEY_EXCHANGE opens a session, ending any other on the transport (16 R481, R482). -/
def execKeyExchange (t : Transport) (slot : Nat) (req : List Byte) (s : State) : Host.Outcome State Fault Refusal :=
  s.spdmServe t SpdmConn.agreed fun s =>
    if !s.notar.slotOk slot then s.spdmSend t false (spdmError 0x01)
    else
      let s := s.modConn t fun c => { c.ended with session := .handshake, opened := c.opened + 1 }
      let (l, s) := s.signed slot (spdmHead 0x64 0 0 ++ Config.spdmBody 0x64 req s.free)
      s.spdmMaybeLater t l

/-- FINISH completes the session (16 R482). -/
def execFinish (t : Transport) (req : List Byte) (s : State) : Host.Outcome State Fault Refusal :=
  s.spdmServe t (fun c => c.session == .handshake) fun s =>
    (s.modConn t fun c => { c with session := .established }).spdmSend t true (spdmHead 0x65 0 0 ++ Config.spdmBody 0x65 req s.free)

/-- A request that needs an established session; outside one it is answered with ERROR SessionRequired (16 R482). -/
def State.inSession (s : State) (t : Transport) (f : State → State) : Host.Outcome State Fault Refusal :=
  .next (if !s.spdmUp t then s
    else if (s.notar.conn t).session = .established then f s else s.spdmSend t false (spdmError 0x0B))

/-- HEARTBEAT (16 R482). -/
def execHeartbeat (t : Transport) (s : State) : Host.Outcome State Fault Refusal :=
  s.inSession t fun s => s.spdmSend t true (spdmHead 0x68 0 0)

/-- KEY_UPDATE: operations 1 and 2 make new keys, 3 verifies them (16 R482). -/
def execKeyUpdate (t : Transport) (op : Byte) (s : State) : Host.Outcome State Fault Refusal :=
  s.inSession t fun s =>
    if op = 1 ∨ op = 2 then (s.spdmSend t true (spdmHead 0x69 op 0)).modConn t fun c => { c with keys := c.keys + 1 }
    else if op = 3 then s.spdmSend t true (spdmHead 0x69 op 0)
    else s.spdmSend t true (spdmError 0x01)

/-- END_SESSION (16 R482). -/
def execEndSession (t : Transport) (s : State) : Host.Outcome State Fault Refusal :=
  s.inSession t fun s => (s.spdmSend t true (spdmHead 0x6C 0 0)).modConn t SpdmConn.ended

/-- RESPOND_IF_READY: the delayed response (16 R482). -/
def execRespondIfReady (t : Transport) (token : Byte) (s : State) : Host.Outcome State Fault Refusal :=
  .next (if !s.spdmUp t then s
    else match (s.notar.conn t).delayed with
      | some (tok, l) =>
        if tok = token then (s.modConn t fun c => { c with delayed := none }).spdmSend t false l else s.spdmSend t false (spdmError 0x01)
      | none => s.spdmSend t false (spdmError 0x04))

/-- An MCTP control response: command code, completion code 0, data; the requester's instance number comes back (16 R484). -/
def State.mctpControl (s : State) (code : Byte) (data : List Byte) : Host.Outcome State Fault Refusal :=
  .next (if !s.spdmUp .mctp then s else s.mctpReply ([0x00, s.notar.txByte 5 &&& 0x1F, code, 0x00] ++ data))

/-- SET_ENDPOINT_ID (16 R484). -/
def execSetEndpointId (eid : Byte) (s : State) : Host.Outcome State Fault Refusal :=
  ({ s with notar := { s.notar with eid := if s.spdmUp .mctp then eid else s.notar.eid } } : State).mctpControl 0x01 [0x00, eid, 0x00]

/-- GET_ENDPOINT_ID (16 R484). -/
def execGetEndpointId (s : State) : Host.Outcome State Fault Refusal := s.mctpControl 0x02 [s.notar.eid, 0x00, 0x00]

/-- GET_MCTP_VERSION_SUPPORT (16 R484). The version number of the base specification is not stated: free bytes. -/
def execGetMctpVersionSupport (s : State) : Host.Outcome State Fault Refusal :=
  let (v, s') := s.draw 10
  s'.mctpControl 0x04 (0x01 :: leBytes 4 v)

/-- GET_MESSAGE_TYPE_SUPPORT: SPDM and secured SPDM (16 R481, R484). -/
def execGetMessageTypeSupport (s : State) : Host.Outcome State Fault Refusal := s.mctpControl 0x05 [0x02, 0x05, 0x06]

/-- TX_GO: the packet in `TX` is sent; while the last one is still being taken it is ignored and counted (16 R484). A length outside 4 to
68 is no packet: it is taken, and nothing comes of it. -/
def State.txGo (s : State) (len : Byte) : State :=
  if !s.spdmUp .mctp then s
  else if s.notar.txBusy then { s with power := { s.power with i3cErr := satInc s.power.i3cErr } }
  else if len.toNat < 4 ∨ 68 < len.toNat then s
  else s.modNotar fun n => { n with txBusy := true }

/-- RX_DONE frees `RX`; a packet that waits takes its place (16 R484). -/
def State.rxDone (s : State) : State :=
  if !s.spdmUp .mctp then s
  else s.modNotar fun n =>
    let n := { n with rxReady := false }
    match n.rxWaiting with
    | [] => n
    | l :: r => { n with rxWaiting := r }.putRx l

/-- TX_GO (16 R484). -/
def execTxGo (len : Byte) (s : State) : Host.Outcome State Fault Refusal := .next (s.txGo len)

/-- RX_DONE (16 R484). -/
def execRxDone (s : State) : Host.Outcome State Fault Refusal := .next s.rxDone

/-- DOE_DISCOVERY: the protocols are DOE Discovery, SPDM and Secured SPDM of the PCI-SIG (12 R358); an index beyond them is answered
with vendor 0xFFFF. -/
def execDoeDiscovery (index : Byte) (s : State) : Host.Outcome State Fault Refusal :=
  .next (if !s.pcieUp then s
    else if index.toNat < 3 then s.send (.doe [0x01, 0x00, index, if index = 2 then 0 else index + 1])
    else s.send (.doe [0xFF, 0xFF, 0, 0]))

end Sys2Proof.Machine
end

