-- ==== Sys2Proof/Machine/Power.lean ====
section
/-! DEFINITION. Start-up, resets, power-off, temperature, power and throttling, PERST_N (15, 17 R505, R506), the fill and the patrol
scrubber (09 R272 to R275). -/

namespace Sys2Proof.Machine

/-- The power state changes. -/
def State.modPower (s : State) (f : Power → Power) : State := { s with power := f s.power }

/-- An output pin takes a level, announced where it changes (17 R497). -/
def State.setPwrGood (s : State) (v : Bool) : State :=
  if s.power.pwrGood = v then s else (s.modPower fun p => { p with pwrGood := v }).send (.pin .pwrGood v)
def State.setThermTrip (s : State) (v : Bool) : State :=
  if s.power.thermTripN = v then s else (s.modPower fun p => { p with thermTripN := v }).send (.pin .thermTripN v)

/-- A bit of PM_EVENT is set: vector 11 where it is enabled, and the in-band interrupt 0x02 (15 R451, R469). -/
def State.pmSet (s : State) (i : Fin 6) : State :=
  let b := BitVec.ofNat 6 (2 ^ i.val)
  if s.power.pmEvent &&& b ≠ 0 then s
  else
    let s := s.modPower fun p => { p with pmEvent := p.pmEvent ||| b }
    let s := if s.power.pmEventEn &&& b ≠ 0 then s.msix 11 else s
    s.ibi 0x02

/-- A power limit as it is taken: at least 1,000 and at most 2,200 W (15 R453, R470). -/
def limitOf (x : BitVec 12) : Nat := max 1000 (min 2200 x.toNat)

/-- The smaller of the two limits as they are taken (15 R467). -/
def Power.lowerLimit (p : Power) : Nat := min (limitOf p.hostLimit) (limitOf p.rmcLimit)

/-- Throttle levels change: what PM_EVENT shows of it (15 R469, R470). -/
def State.setLevels (s : State) (l : Vector (BitVec 3) 4) : State :=
  let old := s.power.level
  let s := s.modPower fun p => { p with level := l }
  let s := if (List.finRange 4).any fun d => decide (old[d].toNat < l[d].toNat) then s.pmSet 0 else s
  if old.toList.any (· != 0) && l.toList.all (· == 0) then s.pmSet 1 else s

/-- Every throttle level is 0, and nothing raises or holds one (15 R459, R470). -/
def State.clearLevels (s : State) : State :=
  (s.modPower fun p => { p with calm := Vector.replicate 4 0, byTemp := false, byPower := false, byBrake := false }).setLevels
    (Vector.replicate 4 0)

/-- The switch of the reference is over: the island's clocks run (15 R447). -/
def State.clocksRun (s : State) : State := s.modPower fun p => { p with clocksStopped := false }

/-- Whether main power is on, coming up or going off. -/
def Power.mainBusy (p : Power) : Bool :=
  p.stage == .rails || p.stage == .training || p.stage == .filling || p.stage == .on || p.stage == .goingOff

/-- Main power is on or coming up. -/
def Power.mainUp (p : Power) : Bool := p.mainBusy && p.stage != .goingOff

/-- What ends with the main domain's state: cores, memories, router, engine, job, queues, window, logs, silent-error tools. The MSI-X
table is reset with the endpoint (13 R417, 15 R460). -/
def State.clearMain (s : State) (endpoint : Bool) : State :=
  let h := s.host
  { s with
    cores := [], mem := Mem.reset, erg := Fabric.reset, coll := Coll.reset, job := JobRegs.reset, silent := Silent.reset,
    host := { HostIf.reset with
      nextId := h.nextId, mail := h.mail, cmds := h.cmds, winPages := if endpoint then 32768 else h.winPages,
      msix := if endpoint then [] else h.msix, pba := if endpoint then 0 else h.pba },
    ident := { s.ident with jobOpen := false, generation := 0 } }

/-- A module reset, from its time 0 to the retraining of its links (13 R417, 15 R460): source 0 host, 1 RMC, 2 PERST_N. -/
def State.moduleReset (s : State) (source : Nat) : State :=
  let s := s.setState 0x1
  let s := s.record 0x0005 1 [BitVec.ofNat 8 source]
  let s := s.clearMain (source = 2)
  { s with
    host := { s.host with cmds := [], mail := Vector.replicate 16 Mailbox.reset },
    ident := { s.ident with state := 0x1 },
    power := { s.power with stage := .training, endpoint := if source = 2 then .held else s.power.endpoint,
                             memSpace := s.power.memSpace && decide (source ≠ 2), busMaster := s.power.busMaster && decide (source ≠ 2) } }

/-- RESET_KEY (13 R419, 15 R460, R461): a write of RESET_CTRL by the host. -/
def State.hostResetKey (s : State) (value : Reg) : State :=
  if bitsOf value.toNat 0 8 = 0xA5 ∧ (s.power.stage = .on ∨ s.power.stage = .training ∨ s.power.stage = .filling) then s.moduleReset 0 else s

/-- RESET_KEY (13 R419). -/
def execResetKey (value : Reg) (s : State) : Host.Outcome State Fault Refusal :=
  .next (if s.linked then s.hostResetKey value else s)

/-- A `RESET_KEY` of the RMC (15 R461): ignored, and shown, while main power is off or coming up. -/
def State.rmcResetKey (s : State) (value : Byte) : State :=
  if value ≠ 0xA5 then s
  else if s.power.mainUp ∧ s.power.comingUp = false then s.moduleReset 1
  else s.modPower fun p => { p with resetIgn := true }

/-- Whether the RMC reaches the registers other than those of the recovery set (15 R450, 16 R477). -/
def State.rmcUp (s : State) : Bool := s.i3cUp && s.notar.fwRuns

/-- RMC_RESET_KEY (15 R461). -/
def execRmcResetKey (value : Byte) (s : State) : Host.Outcome State Fault Refusal :=
  .next (if s.rmcUp then s.rmcResetKey value else s)

/-- Of two causes of a power-off in one control cycle, the one that is recorded: the lowest other than 1 (15 R463). -/
def worseCause (a b : BitVec 4) : BitVec 4 := if a = 1 then b else if b = 1 ∨ a.toNat ≤ b.toNat then a else b

/-- Main power-off begins (15 R462, R463): streams and engines stop, links go down, an open job ends without teardown. Commands of queues
vanish with them; a mailbox command that has started ends with BAD_STATE, and mailboxes of core controllers become Free (DESIGN CHOICE,
log 45). -/
def State.powerOff (s : State) (cause : BitVec 4) : State :=
  if !s.power.mainUp then
    if s.cycle.any (·.off) then s.modPower fun p => { p with offReason := worseCause p.offReason cause } else s
  else
    let mine := fun (c : Cmd) => match c.src with
      | .queue _ => false
      | .mailbox _ => true
    let s := { s with host := { s.host with cmds := s.host.cmds.filter mine } }
    let s := (s.host.cmds.filter (·.started)).foldl (fun (s : State) c => s.endCmd c stBadState 0 0) s
    ((s.freeCoreMail.clearMain true).mark fun k => { k with off := true }).modPower fun p =>
      { p with stage := .goingOff, offReason := cause, endpoint := .held, memSpace := false, busMaster := false }

/-- LOCK: a write of RMC_COORD (15 R452, R454). -/
def State.writeCoord (s : State) (v : Reg) : State :=
  let s := if s.ident.coordLock then s
    else s.modPower fun p =>
      { p with slot := v.extractLsb' 0 6, rack := v.extractLsb' 6 6, hall := v.extractLsb' 12 8 }
  if !v.getLsbD 31 then s
  else if s.ident.coordLock ∨ s.power.slot ≠ s.power.slotStrap then s.modPower fun p => { p with coordErr := true }
  else
    let p := s.power
    let s := { s with ident := { s.ident with
      slot := p.slot, rack := p.rack, hall := p.hall, coordLock := true, id := BitVec.ofNat 12 (64 * p.rack.toNat + p.slot.toNat) } }
    let s := { s with erg := { s.erg with lockCycle := true } }
    let s := s.record 0x0006 0 (leBytes 4 (s.identReg 2))
    (List.finRange 16).foldl (fun (s : State) q => if s.erg.portEn.getLsbD q.val then s.startLink q else s) s

/-- LOCK (15 R454). -/
def execLock (value : Reg) (s : State) : Host.Outcome State Fault Refusal :=
  .next (if s.rmcUp then s.writeCoord value else s)

/-- A `MAIN_ON` write of 1 with the input and the reference as they are at that moment; the island's clocks stop while the reference is
switched (15 R444, R447, R448, R455, R465, 16 R477). -/
def State.mainOnWrite (s : State) (milliVolts : Nat) (refOk : Bool) : State :=
  let s := (s.setThermTrip true).modPower fun p => { p with tripped := Vector.replicate 12 false }
  if s.power.mainUp then s
  else if s.ident.state = 0x0 ∧ s.power.stage = .standby ∧ 53000 ≤ milliVolts ∧ milliVolts ≤ 63000 ∧ refOk ∧ s.notar.fwRuns then
    (s.modPower fun p =>
      { p with
        stage := .rails, comingUp := true, mainOn := true, refSrc := true, refclkOk := true, clocksStopped := true, offReason := 0 }).clearLevels
  else s.modPower fun p => { p with mainErr := true, mainOn := false }

/-- MAIN_ON (15 R455). -/
def execMainOn (milliVolts : Nat) (refPpm : Option Nat) (s : State) : Host.Outcome State Fault Refusal :=
  .next (if s.i3cUp then s.mainOnWrite milliVolts (refPpm.any fun x => decide (x ≤ 300)) else s)

/-- A `MAIN_ON` write of 0 (15 R462). -/
def State.mainOffWrite (s : State) : State := (s.modPower fun p => { p with mainOn := false }).powerOff 1

/-- ORDERLY_POWER_OFF (15 R462). -/
def execOrderlyPowerOff (s : State) : Host.Outcome State Fault Refusal := .next (if s.rmcUp then s.mainOffWrite else s)

/-- MAIN_POWER_OFF_COMPLETE (15 R447, R462, R463, R470, 16 R472, R492). -/
def execMainPowerOffComplete (s : State) : Host.Outcome State Fault Refusal :=
  .next (if s.power.stage ≠ .goingOff then s
    else
      let p := s.power
      let s := (s.setPwrGood false).setState 0x0
      let s := s.record 0x0004 3 ([p.offReason.setWidth 8] ++ leBytes 4 (p.vin.toNat + 65536 * p.pin.toNat)
        ++ p.temp.toList.flatMap fun t => leBytes 4 t.toNat)
      let s := s.modNotar fun n => { n with m2 := none }
      s.modPower fun p =>
        { p with
          stage := .standby, comingUp := false, offCause := p.offReason, mainOn := false, mainGood := false, refSrc := false, refclkOk := false, clocksStopped := true,
          pllLock := 0x40, pdOn := 0x3 })

/-- MAIN_RAILS_GOOD (15 R456). -/
def execMainRailsGood (s : State) : Host.Outcome State Fault Refusal :=
  .next (if s.power.stage ≠ .rails then s
    else
      ((s.modPower fun p =>
        { p with
          stage := .training, mainGood := true, refclkOk := true, refSrc := true, clocksStopped := false, pllLock := 0x7F, pdOn := 0xFFFFF,
          endpoint := if p.perstLow then .held else .starting }).setPwrGood true).setState 0x1)

/-- MEMORY_TRAINING_DONE: the fill begins (09 R272, R280, 15 R456). -/
def execMemoryTrainingDone (s : State) : Host.Outcome State Fault Refusal :=
  .next (if s.power.stage ≠ .training then s
    else
      let s := s.modPower fun p => { p with stage := .filling }
      { s with mem := { s.mem with fillActive := true, fillDone := false, fillProgress := 0 } })

/-- A start-up step has failed (15 R456). -/
def State.startupFailed (s : State) : State :=
  (s.modPower fun p => { p with mainErr := true, mainOn := false }).powerOff 7

/-- FILL_COMPLETE: the memories hold zeros; the microcode is verified, the cores are released and every mailbox is Free (DEDUCED, log 132); at
the end of start-up the throttle levels are 0 and both limits at their AUX power-on values; a module that has stopped on an internal fault
stays in `STATE` 0xF (01 R26, 09 R272, 13 R390, 15 R456, R459, R460, 16 R477). The time that MAIN_ON's record gives is a free value. -/
def execFillComplete (s : State) : Host.Outcome State Fault Refusal :=
  let s0 := s
  .next (if s.power.stage ≠ .filling then s
    else
      let s := { s with
        mem := { s.mem with bonded := [], lpddr := [], fillActive := false, fillDone := true, fillProgress := 0xFF } }
      match s.loadMicrocode with
      | (false, s) => s.startupFailed
      | (true, s) =>
        let (t, s) := s.draw 11
        let s := if s.power.comingUp then s.record 0x0003 3 (leBytes 4 t) else s
        let s := if s.power.comingUp then
            (s.modPower fun p => { p with hostLimit := 2200, rmcLimit := 2200, effLimit := 2200 }).clearLevels
          else s
        let s := (s.freeMail fun _ _ => true).modPower fun p => { p with stage := .on, comingUp := false }
        (if s.ident.state = 0x1 then s.setState 0x2 else s).oneCycle s0)

/-- STARTUP_STEP_FAILED (15 R456). -/
def execStartupStepFailed (_unit : Nat) (s : State) : Host.Outcome State Fault Refusal :=
  .next (if s.power.stage = .rails ∨ s.power.stage = .training ∨ s.power.stage = .filling then s.startupFailed else s)

/-- INPUT_UNDERVOLTAGE (15 R444, R463). -/
def execInputUndervoltage (milliVolts : Nat) (s : State) : Host.Outcome State Fault Refusal :=
  .next (if milliVolts < 51000 then s.powerOff 2 else s)

/-- INPUT_OVERVOLTAGE (15 R444, R463); above 75 V nothing is said of what the module does (17 R499). -/
def execInputOvervoltage (milliVolts : Nat) (s : State) : Host.Outcome State Fault Refusal :=
  if 75000 < milliVolts then .fault .beyondAbsoluteMaximum
  else .next (if 64000 < milliVolts then s.powerOff 3 else s)

/-- OVER_CURRENT (15 R444, R463). -/
def execOverCurrent (milliAmps : Nat) (s : State) : Host.Outcome State Fault Refusal :=
  .next (if 45000 < milliAmps then s.powerOff 4 else s)

/-- REFCLK_LOST (15 R448, R463). -/
def execRefclkLost (s : State) : Host.Outcome State Fault Refusal :=
  .next (if s.power.mainUp then (s.modPower fun p => { p with refclkOk := false }).powerOff 6 else s)

/-- RAIL_LEAVES_REGULATION (17 R505, 15 R470). -/
def execRailLeavesRegulation (s : State) : Host.Outcome State Fault Refusal :=
  .next (if s.power.mainGood then (s.modPower fun p => { p with mainGood := false }).setPwrGood false else s)

/-- AUX_POWER_ON: PD0 leaves reset and the oscillator starts; the device secret can be read again (15 R445, R458, R470, 16 R471, R487;
PD1 is shown on from here: DEDUCED, log 119). The straps are not yet sampled (15 R449). -/
def execAuxPowerOn (_straps : BitVec 6) (s : State) : Host.Outcome State Fault Refusal :=
  .next (if s.power.stage ≠ .auxOff then s
    else
      let s := { s with cairn := { s.cairn with boot := s.cairn.boot + 1, time := 0 } }
      (s.modNotar fun n => { n with udsLocked := false }).modPower fun p => { p with stage := .auxRising, auxGood := true, pdOn := 0x3 })

/-- OSC_STABLE: straps are sampled, the first compound device identifier is derived and the device secret locked, POWER_ON is recorded,
PD1 comes up, Notar verifies the management firmware (15 R449, R458, 16 R471, R472, R477). -/
def execOscStable (straps : BitVec 6) (s : State) : Host.Outcome State Fault Refusal :=
  .next (if s.power.stage ≠ .auxRising then s
    else
      let s := s.modPower fun p => { p with stage := .island, slotStrap := straps, pdOn := 0x3, pllLock := 0x40 }
      let s := s.record 0x0001 0 ([straps.setWidth 8] ++ leBytes 4 (s.identReg 1) ++ [s.notar.banks])
      (s.modNotar fun n => { n with udsLocked := true }).loadFirmware)

/-- FIRMWARE_READY: the I3C target is enabled, by the firmware or by Notar, and Hot-Join is issued (15 R450, R458, 16 R477, R480). -/
def execFirmwareReady (s : State) : Host.Outcome State Fault Refusal :=
  .next (if s.power.i3cOn ∨ s.power.stage = .auxOff ∨ s.power.stage = .auxRising then s
    else
      let s := s.modPower fun p => { p with i3cOn := true, stage := if p.stage = .island then .standby else p.stage }
      if s.power.dynAddr = 0 ∧ s.power.hotJoinOn then s.send .hotJoin else s)

/-- No seal is being signed. -/
def State.noSeal (s : State) : State := { s with cairn := { s.cairn with sealing := none } }

/-- Queued records are written, n at most; those over their type's limit are not (16 R489, R491). The number that is not written comes
with it. -/
def State.flushRecords (n : Nat) (s : State) (l : List CairnEntry) : Nat × State :=
  match l with
  | [] => (0, s)
  | e :: r =>
    if n = 0 ∨ s.cairn.overCap e.type then
      let (k, s) := s.flushRecords n r
      (k + 1, s)
    else (s.writeRecord e).noSeal.flushRecords (n - 1) r

/-- Cairn as the loss of AUX leaves it: up to 16 queued records are written, then POWER_LOSS; no seal is started, and an unfinished one
is lost (16 R491). -/
def State.cairnLoss (s : State) : State :=
  let (left, s) := s.noSeal.flushRecords 16 s.cairn.queue
  let s := { s with cairn := { s.cairn with queue := [] } }
  let s := s.writeRecord { type := 0x0002, origin := 0, payload := leBytes 4 left ++ leBytes 4 s.cairn.lost.toNat }
  { s with cairn := { s.cairn with
      sealing := none, lost := 0, second := [], suppressed := [], host := Cairn.reset.host, rmc := Cairn.reset.rmc } }

/-- AUX_LOST: Cairn closes, main power goes off, and everything but the firmware store, the fuses and Cairn's records is lost (15 R458,
01 R26, 16 R474, R486, R491). -/
def execAuxLost (s : State) : Host.Outcome State Fault Refusal :=
  .next (if s.power.stage = .auxOff then s
    else
      let s := ((s.cairnLoss.setPwrGood false).setThermTrip true).clearMain true
      { s with
        ident := { s.ident with slot := 0, rack := 0, hall := 0, coordLock := false, id := 0, state := 0x0 },
        host := { s.host with cmds := [], mail := Vector.replicate 16 Mailbox.reset },
        power := { Power.reset with
          stage := .auxOff, comingUp := false, auxGood := false, pdOn := 0, i3cOn := false, brake := s.power.brake,
          perstLow := s.power.perstLow, perstTaken := s.power.perstTaken, slotStrap := 0 },
        notar := { s.notar with
          m1 := none, m2 := none, fwRuns := false, doe := SpdmConn.reset, mctp := SpdmConn.reset, eid := 0,
          tx := Vector.replicate 17 0, txBusy := false, rx := Vector.replicate 17 0, rxReady := false, rxLen := 0, rxWaiting := [] } })

/-- Signed value of a temperature code (15 R470). -/
def degOf (t : BitVec 12) : Int := codeOf 12 true t.toNat

/-- Temperatures of a source at which it throttles, below which it releases, and at which it trips, in eighths of a degree (15 R464,
R465). -/
def throttleAt (i : Nat) : Int := if (4 ≤ i ∧ i < 8) ∨ i = 11 then 760 else 800
def releaseBelow (i : Nat) : Int := if (4 ≤ i ∧ i < 8) ∨ i = 11 then 736 else 776
def tripAt (i : Nat) : Int := if (4 ≤ i ∧ i < 8) ∨ i = 11 then 840 else 920

/-- The THERMAL record (16 R492). -/
def State.thermalRecord (s : State) (i : Nat) (trip : Bool) (t : BitVec 12) : State :=
  s.record 0x0040 3 ([BitVec.ofNat 8 i, if trip then 1 else 0] ++ leBytes 2 t.toNat)

/-- Sensors of a source (15 R464). -/
def sensorsOf (i : Nat) : Nat := if i < 4 ∨ i = 11 then 16 else if i = 10 then 6 else 4

/-- The highest reading of a source's sensors (15 R464). -/
def highest (i : Nat) (l : List (BitVec 12)) : BitVec 12 :=
  (List.range (sensorsOf i)).foldl (fun a k => if degOf a < degOf (l.getD k 0) then l.getD k 0 else a) (l.getD 0 0)

/-- A source's reading is taken (15 R464, R465, R469, R470). -/
def State.readSource (s : State) (i : Fin 12) (t : BitVec 12) : State :=
  let p := s.power
  let warm : Bool := decide (tripAt i.val - 40 ≤ degOf t)
  let s := { s with power := { p with
    temp := p.temp.set i t, peak := p.peak.set i (if degOf p.peak[i] < degOf t then t else p.peak[i]),
    nearTrip := p.nearTrip.set i (decide (tripAt i.val ≤ degOf t)), warned := p.warned.set i warm } }
  if warm && !p.warned[i] then (s.pmSet 2).thermalRecord i.val false t else s

/-- SENSOR_READ: every source that has tripped since it was last cool, or since `MAIN_ON` was last written, is recorded once (15 R464, R465, R469,
R470, 16 R492). With main power off the sources of the main domains read 0. -/
def execSensorRead (r : Readings) (s : State) : Host.Outcome State Fault Refusal :=
  let old := s.power
  let temp := fun (i : Fin 12) => if old.mainBusy ∨ i.val = 10 then highest i.val (r.temps.getD i.val []) else 0
  let s0 := s
  .next (if !s.notarUp then s
    else
      let s := (List.finRange 12).foldl (fun (s : State) i => s.readSource i (temp i)) s
      let ovr : Bool := decide (old.effLimit.toNat < r.pin.toNat)
      let s := s.modPower fun p =>
        { p with
          vin := r.vin, pin := r.pin, vaux := r.vaux, paux := r.paux, energy := BitVec.ofNat 64 (p.energy.toNat + r.energy), overLimit := ovr }
      let s := (if ovr && !old.overLimit then s.pmSet 3 else s).clocksRun
      let trips := (List.finRange 12).filter fun i => old.nearTrip[i] && s.power.nearTrip[i]
      if trips.isEmpty then s.modPower fun p => { p with tripped := Vector.replicate 12 false }
      else
        let s := trips.foldl (fun (s : State) i => if old.tripped[i] then s else s.thermalRecord i.val true (temp i)) s
        let s := s.modPower fun p => { p with tripped := Vector.ofFn fun i => trips.contains i }
        ((s.setThermTrip false).powerOff 5).oneCycle s0)

/-- Whether a thermal trip is taking main power off: it takes precedence over every throttle action (15 R465). -/
def Power.tripping (p : Power) : Bool := p.stage == .goingOff && p.offReason == 5

/-- Sources that throttle a die (15 R467). -/
def sourcesOf (d : Nat) : List (Fin 12) := (List.finRange 12).filter fun i => i.val = d ∨ i.val = 4 + d ∨ 8 ≤ i.val

/-- THROTTLE_EVALUATION: the limits as they are written now are in force from here (15 R465, R467, R469, R470). -/
def execThrottleEvaluation (s : State) : Host.Outcome State Fault Refusal :=
  let p := s.power
  let hot := fun (d : Fin 4) => (sourcesOf d.val).any fun i => decide (throttleAt i.val ≤ degOf p.temp[i])
  let limit := p.lowerLimit
  let ovr : Bool := decide (limit < p.pin.toNat)
  let cool := fun (d : Fin 4) => (sourcesOf d.val).all (fun i => decide (degOf p.temp[i] < releaseBelow i.val))
    && decide (100 * p.pin.toNat < 98 * limit)
  let calm := fun (d : Fin 4) => if cool d then p.calm[d] + 1 else 0
  let level := fun (d : Fin 4) =>
    let k := p.level[d].toNat
    if p.brake then 6 else if hot d || ovr then min 6 (k + 1) else if 10 ≤ calm d then k - 1 else k
  let ms := if p.level.toList.any (· != 0) then satInc p.throttleMs else p.throttleMs
  .next (if !s.notarUp || p.tripping then s
    else
      let l : Vector (BitVec 3) 4 := Vector.ofFn fun d => BitVec.ofNat 3 (level d)
      let up : Bool := l.toList.any (· != 0)
      (s.modPower fun p =>
        { p with
          effLimit := BitVec.ofNat 12 limit, clocksStopped := false, calm := Vector.ofFn calm, throttleMs := ms,
          byTemp := (List.finRange 4).any hot || (p.byTemp && up), byPower := ovr || (p.byPower && up), byBrake := p.brake }).setLevels l)

/-- POWER_FAST_PATH (15 R465, R468, R469). -/
def execPowerFastPath (s : State) : Host.Outcome State Fault Refusal :=
  .next (if !s.notarUp || s.power.tripping then s
    else
      ((s.modPower fun p => { p with byPower := true }).setLevels
        (s.power.level.map fun k => if k.toNat < 4 then 4 else k)).pmSet 5)

/-- PWR_BRAKE_N is low, the glitch filter passed: levels 6, unless a thermal trip takes precedence, and `BRAKE_EV` (15 R465, R468 to R470). -/
def State.brakeLow (s : State) : State :=
  if s.power.brake then s
  else
    let s := s.modPower fun p => { p with brake := true }
    if !s.notarUp then s
    else
      (if s.power.tripping then s
        else (s.modPower fun p => { p with byBrake := true }).setLevels (Vector.replicate 4 6)).pmSet 4

/-- PWR_BRAKE_N is high again; levels fall only by evaluations (15 R468). -/
def State.brakeHigh (s : State) : State := s.modPower fun p => { p with brake := false, byBrake := false }

/-- PWR_BRAKE_ASSERT: a low that the glitch filter takes and that lasts until PWR_BRAKE_RELEASE (15 R468, R469, 17 R505). -/
def execPwrBrakeAssert (s : State) : Host.Outcome State Fault Refusal := .next s.brakeLow

/-- PWR_BRAKE_RELEASE (15 R468). -/
def execPwrBrakeRelease (s : State) : Host.Outcome State Fault Refusal := .next s.brakeHigh

/-- The endpoint is reset by PERST_N, with its configuration space, its MSI-X table and BAR sizes (12 R357, 15 R457, R459, R460). -/
def State.resetEndpoint (s : State) : State :=
  { s with power := { s.power with endpoint := .held, memSpace := false, busMaster := false },
           host := { s.host with msix := [], pba := 0, winPages := 32768 } }

/-- The glitch filter of PERST_N and PWR_BRAKE_N: pulses shorter than 1 µs are ignored, those of 2 µs or longer are taken, and between the two
either happens, by a free bit (17 R505, R506). -/
def State.filtered (s : State) (ns : Nat) : Bool × State :=
  if ns < 1000 then (false, s)
  else if 2000 ≤ ns then (true, s)
  else (Config.freeBit s.free, { s with free := s.free + 1 })

/-- PERST_N_ASSERT: a low of PERST_N, or a pulse of PWR_BRAKE_N, through the glitch filter (15 R457, R468, 17 R505, R506). -/
def execPerstNAssert (x : Pulse) (s : State) : Host.Outcome State Fault Refusal :=
  let (taken, s) := s.filtered x.ns
  .next (if !taken then s
    else if x.brake then (if s.power.brake then s else s.brakeLow.brakeHigh)
    else (s.modPower fun p => { p with perstLow := true, perstTaken := true }).resetEndpoint)

/-- PERST_N_HOLD_EXPIRY: a module reset starts when PERST_N has been low for 100 µs, once `STATE` has reached 0x1 (15 R457, R460). -/
def execPerstNHoldExpiry (s : State) : Host.Outcome State Fault Refusal :=
  let p := s.power
  .next (if p.perstLow && p.perstTaken && (p.stage == .training || p.stage == .filling || p.stage == .on) then
      (s.modPower fun p => { p with perstTaken := false }).moduleReset 2
    else s)

/-- PERST_N_RELEASE: the endpoint trains, once main power is up (15 R457). -/
def execPerstNRelease (s : State) : Host.Outcome State Fault Refusal :=
  .next (if !s.power.perstLow then s
    else s.modPower fun p =>
      { p with perstLow := false, perstTaken := false, endpoint := if p.mainGood && p.stage != .goingOff then .starting else p.endpoint })

/-- ENDPOINT_READY (15 R457). During a pattern test of the PCIe link it is not in L0 (14 R442). -/
def execEndpointReady (s : State) : Host.Outcome State Fault Refusal :=
  .next (if s.power.endpoint = .starting ∧ ¬ (s.silent.lpState = 1 ∧ s.silent.lpClass = 3) then
      s.modPower fun p => { p with endpoint := .ready }
    else s)

/-- Words of a patrol class: bonded DRAM, LPDDR6 (09 R274, 01 R20). -/
def State.scrubWords (s : State) (k : ScrubClass) : Nat :=
  match k with
  | .bonded => 4 * 2 ^ 29
  | .lpddr6 => 2 ^ 25 * s.ident.lpddrGib.toNat

/-- Position, overrun and period of a patrol class. -/
def Mem.scrub (m : Mem) (k : ScrubClass) : Nat × Bool × BitVec 16 :=
  match k with
  | .bonded => (m.bdPos, m.bdOver, m.bdPeriod)
  | .lpddr6 => (m.lpPos, m.lpOver, m.lpPeriod)

/-- Position and overrun of a patrol class change. -/
def Mem.setScrub (m : Mem) (k : ScrubClass) (pos : Nat) (ovr : Bool) : Mem :=
  match k with
  | .bonded => { m with bdPos := pos, bdOver := ovr }
  | .lpddr6 => { m with lpPos := pos, lpOver := ovr }

/-- A pass ends; `LATE` is set where its period had expired, and the next pass starts at once (09 R275, R280). -/
def Mem.passDone (m : Mem) (k : ScrubClass) : Mem :=
  match k with
  | .bonded => { m with bdPasses := m.bdPasses + 1, bdLate := m.bdLate || m.bdOver, bdPos := if m.bdOver then 0 else m.bdPos, bdOver := false }
  | .lpddr6 => { m with lpPasses := m.lpPasses + 1, lpLate := m.lpLate || m.lpOver, lpPos := if m.lpOver then 0 else m.lpPos, lpOver := false }

/-- PATROL_SCRUB_READ (09 R274, R275). -/
def execPatrolScrubRead (k : ScrubClass) (s : State) : Host.Outcome State Fault Refusal :=
  let (pos, ovr, period) := s.mem.scrub k
  let total := s.scrubWords k
  .next (if !s.mem.fillDone || period == 0 || decide (total ≤ pos) || s.power.stage != .on then s
    else
      let (_, s) := match k with
        | .bonded => s.readDram (pos / 2 ^ 29) (pos % 2 ^ 29 * 32) true
        | .lpddr6 => s.readDram 4 (pos * 32) true
      let s := { s with mem := s.mem.setScrub k (pos + 1) ovr }
      if pos + 1 = total then { s with mem := s.mem.passDone k } else s)

/-- SCRUB_PERIOD_EXPIRY (09 R275): a pass that has ended makes way for the next; one that has not runs on, overdue. -/
def execScrubPeriodExpiry (k : ScrubClass) (s : State) : Host.Outcome State Fault Refusal :=
  let (pos, _, period) := s.mem.scrub k
  .next (if period = 0 then s
    else if s.scrubWords k ≤ pos then { s with mem := s.mem.setScrub k 0 false }
    else { s with mem := s.mem.setScrub k pos true })

/-- A write of SCRUB_CTRL: a class whose period changes stops, or starts a fresh pass from offset 0 (09 R274); one whose period is
written as it stands goes on (DEDUCED, log 42). -/
def State.writeScrub (s : State) (v : Reg) : State :=
  let bd : BitVec 16 := v.extractLsb' 0 16
  let lp : BitVec 16 := v.extractLsb' 16 16
  let m := s.mem
  let m := if bd = m.bdPeriod ∨ bd = 0 then m else m.setScrub .bonded 0 false
  let m := if lp = m.lpPeriod ∨ lp = 0 then m else m.setScrub .lpddr6 0 false
  { s with mem := { m with bdPeriod := bd, lpPeriod := lp } }

/-- INTERNAL_FAULT: the module stops, and Cairn records it (13 R390, 16 R492). -/
def execInternalFault (status : BitVec 16) (unit : BitVec 16) (info : List Byte) (s : State) : Host.Outcome State Fault Refusal :=
  .next (if s.ident.state = 0x1 ∨ s.ident.state = 0x2 ∨ s.ident.state = 0x3 then
      (s.record 0x0030 1 (leBytes 2 status.toNat ++ leBytes 2 unit.toNat ++ (info ++ List.replicate 32 0).take 32)).setState 0xF
    else s)

end Sys2Proof.Machine
end

