-- ==== Sys2Proof/Machine/Registers.lean ====
section
/-! DEFINITION. Register writes over PCIe, by access code and block, and the reads that latch (00 R7 to R11, 01 R24, R25, and the
register maps of 04, 05, 08 to 16). -/

namespace Sys2Proof.Machine

/-- Bit i of a written value. -/
def on_ (v : Nat) (i : Nat) : Bool := v.testBit i

/-- A write of TOKEN_SET on a core: the token in bits 4:0, the value in bits 15:8 (05 R162, R163). -/
def Core.writeToken (c : Core) (v : Nat) : Core := c.tokenSet (BitVec.ofNat 5 v) (BitVec.ofNat 8 (bitsOf v 8 8))

/-- A write to a core's diagnostic window (05 R162, 08 R260, 09 R281). -/
def Core.writeReg (c : Core) (o v : Nat) : Core :=
  let s := streamOf (o / 256)
  if o < 0x300 ∧ o % 256 = 0x04 then c.modStream s fun st => { st with flags := st.flags &&& ~~~ BitVec.ofNat 8 v }
  else if o < 0x300 ∧ o % 256 = 0x08 then c.modStream s fun st => { st with wdogLimit := BitVec.ofNat 24 v }
  else if o = 0x420 then c.writeToken v
  else if o = 0x424 then { c with tovf := c.tovf && !on_ v 0, hostWrRefused := c.hostWrRefused && !on_ v 1 }
  else if o = 0x800 then { c with hazard := { c.hazard with enable := on_ v 0, haltOnHit := on_ v 1 } }
  else if o = 0x804 then if on_ v 0 then { c with hazard := { c.hazard with hit := false, count := 0 } } else c
  else if o = 0x3008 then { c with log := { c.log with valid := c.log.valid && !on_ v 21 } }
  else if o = 0x3010 then if on_ v 0 then { c with log := { c.log with ce := 0, ue := 0, psn := 0 } } else c
  else if 0x2000 ≤ o ∧ o < 0x2400 ∧ o % 256 = 0x04 then
    let n : Fin 4 := ⟨(o - 0x2000) / 256 % 4, Nat.mod_lt _ (by decide)⟩
    let x := c.ch[n]
    { c with ch := c.ch.set n { x with flags := x.flags &&& ~~~ BitVec.ofNat 8 v } }
  else c

/-- An access to the diagnostic window of a core: of a fused core it completes with Unsupported Request (01 R25). -/
def State.coreWindow (s : State) (p : Nat) (f : Core → Core) : State :=
  if s.coreOn p then s.setCore p (f (s.core p)) else s.unsupported

/-- A QSTEP write (13 R397). -/
def State.writeQstep (s : State) (q : Fin 8) (v : Reg) : State :=
  let x := s.queue q
  let c := s.job.committed.toNat
  if x.cmdHead = x.cmdTail ∧ c < v.toNat ∧ v.toNat ≤ c + 2 then s.modQueue q fun x => { x with qstep := v }
  else { s with job := { s.job with qstepRefused := true } }

/-- A write of PORT_EN (10 R315). -/
def State.writePortEn (s : State) (v : BitVec 16) : State :=
  let old := s.erg.portEn
  let s := { s with erg := { s.erg with portEn := v } }
  (List.finRange 16).foldl (fun (s : State) p =>
    if v.getLsbD p.val && !old.getLsbD p.val && s.ident.coordLock then s.startLink p
    else if !v.getLsbD p.val && old.getLsbD p.val then s.setLink p .off
    else s) s

/-- A RETRAIN write: training restarts from Down or Up (10 R287, R316). -/
def State.retrain (s : State) (p : Fin 16) : State :=
  let l := (s.port p).lstate
  if l = .down ∨ l = .up then s.startLink p else s

/-- FORCE_DOWN: the link is held in Down, or no longer (10 R316). -/
def State.forceDown (s : State) (p : Fin 16) (hold : Bool) : State :=
  let s := s.modPort p fun q => { q with forceDown := hold }
  if hold ∧ (s.port p).lstate ≠ .off then s.setLink p .down else s

/-- Counters are cleared (10 R316, 11 R355, 12 R389, 09 R280). -/
def State.clearErgCounts (s : State) : State := { s with erg := { s.erg with cnt := Vector.replicate 8 0 } }
def State.clearCollCounts (s : State) : State := { s with coll := { s.coll with cnt := Vector.replicate 12 0 } }
def State.clearHcCounts (s : State) : State := { s with host := { s.host with late := 0, hostRefused := 0, modRefused := 0 } }
def State.clearSource (s : State) (src : Nat) : State := s.modLog src fun l => { l with ce := 0, ue := 0, psn := 0 }

/-- Every `PEAK` becomes the current `TEMP` (15 R470). -/
def State.clearPeaks (s : State) : State := s.modPower fun p => { p with peak := p.temp }

/-- Half of a 64-bit register is replaced: the low one, or the high one. -/
def setHalf (x : BitVec 64) (high : Bool) (v : Nat) : BitVec 64 :=
  BitVec.ofNat 64 (if high then x.toNat % 2 ^ 32 + 2 ^ 32 * v else 2 ^ 32 * (x.toNat / 2 ^ 32) + v)

/-- A write to the identity and status block (01 R26, 12 R389, 13 R423, 14 R443). -/
def State.writeIdent (s : State) (o v : Nat) : State :=
  if o = 0x1000 then
    { s with host := { s.host with margin := BitVec.ofNat 8 v, floor_ := BitVec.ofNat 16 (bitsOf v 8 16) } }
  else if o = 0x1008 then { s with host := { s.host with ownValid := s.host.ownValid && !on_ v 0 } }
  else if o = 0x1010 then if on_ v 0 then s.clearHcCounts else s
  else if o = 0x2020 then { s with job := { s.job with qstepRefused := s.job.qstepRefused && !on_ v 0 } }
  else if o = 0x2024 then s.hostResetKey (BitVec.ofNat 32 v)
  else if o = 0x2028 then { s with job := { s.job with teardownTo := BitVec.ofNat 16 v } }
  else if 0x2040 ≤ o ∧ o < 0x2060 then s.writeQstep ⟨(o - 0x2040) / 4 % 8, Nat.mod_lt _ (by decide)⟩ (BitVec.ofNat 32 v)
  else if o = 0x3000 then
    if s.ident.jobOpen then s else { s with silent := { s.silent with layers := BitVec.ofNat 13 v } }
  else s

/-- A write to a command queue's registers (12 R361, R365). Ring bases take no write while the queue is enabled; bits [11:0] read 0. -/
def State.writeQueue (s : State) (q : Fin 8) (o v : Nat) : State :=
  let page := 4096 * (v / 4096)
  let base := fun (f : Queue → Queue) => s.modQueue q fun x => if x.enable then x else f x
  if o = 0x00 then s.writeQctrl q v
  else if o = 0x04 then s.modQueue q fun x => { x with dbErr := x.dbErr && !on_ v 9 }
  else if o = 0x08 then base fun x => { x with cmdBase := setHalf x.cmdBase false page }
  else if o = 0x0C then base fun x => { x with cmdBase := setHalf x.cmdBase true v }
  else if o = 0x10 then base fun x => { x with cplBase := setHalf x.cplBase false page }
  else if o = 0x14 then base fun x => { x with cplBase := setHalf x.cplBase true v }
  else s

/-- PM_EVENT bits are cleared (15 R470). -/
def State.clearPm (s : State) (v : Nat) : State := s.modPower fun p => { p with pmEvent := p.pmEvent &&& ~~~ BitVec.ofNat 6 v }

/-- A write to the power block (15 R470). -/
def State.writePower (s : State) (o v : Nat) : State :=
  if o = 0x10 then s.modPower fun p => { p with hostLimit := BitVec.ofNat 12 v }
  else if o = 0x80 then s.clearPm v
  else if o = 0x84 then s.modPower fun p => { p with pmEventEn := BitVec.ofNat 6 v }
  else if o = 0x88 then if on_ v 0 then s.clearPeaks else s
  else s

/-- A write to a shadow table entry: ignored, and shown, while a swap is pending (10 R301, R304). -/
def State.writeShadow (s : State) (rank : Bool) (i v : Nat) : State :=
  let f := s.erg
  let e := BitVec.ofNat 32 (v % 2 ^ (if rank then 12 else 16) + 2 ^ 31 * bitsOf v 31 1)
  if f.swapPending then { s with erg := { f with shadowLocked := true } }
  else
    { s with erg :=
        match rank, f.active with
        | true, true => { f with rank0 := spSet 0 f.rank0 i e }
        | true, false => { f with rank1 := spSet 0 f.rank1 i e }
        | false, true => { f with route0 := spSet 0 f.route0 i e }
        | false, false => { f with route1 := spSet 0 f.route1 i e } }

/-- A write to the fabric block, by its offset in the block (10 R316). -/
def State.writeFabric (s : State) (o v : Nat) : State :=
  if o < 0x400 ∧ o % 0x40 = 0x10 then
    let p : Fin 16 := ⟨o / 0x40 % 16, Nat.mod_lt _ (by decide)⟩
    let s := s.forceDown p (on_ v 1)
    if on_ v 0 then s.retrain p else s
  else if o = 0x1000 then
    let s := s.writePortEn (BitVec.ofNat 16 v)
    let s := { s with erg := { s.erg with shadowLocked := s.erg.shadowLocked && !on_ v 19 } }
    if on_ v 20 then s.clearErgCounts else s
  else if o = 0x1004 then
    { s with erg := { s.erg with
        resend := BitVec.ofNat 8 v, resendMax := BitVec.ofNat 4 (bitsOf v 8 4), nrHold := BitVec.ofNat 8 (bitsOf v 12 8),
        quietTo := BitVec.ofNat 8 (bitsOf v 20 8), retrain := BitVec.ofNat 4 (bitsOf v 28 4) } }
  else if 0x10000 ≤ o ∧ o < 0x14000 then s.writeShadow true ((o - 0x10000) / 4) v
  else if 0x14000 ≤ o ∧ o < 0x18000 then s.writeShadow false ((o - 0x14000) / 4) v
  else s

/-- A write to the collective engine's block (11 R355). -/
def State.writeColl (s : State) (o v : Nat) : State :=
  if o = 0x04 then { s with coll := { s.coll with bktTo := BitVec.ofNat 24 v } }
  else if o = 0x08 then if on_ v 0 then s.clearCollCounts else s
  else if o = 0x48 then { s with coll := { s.coll with errValid := s.coll.errValid && !on_ v 0 } }
  else s

/-- A write to the memory and code log block (09 R280). -/
def State.writeMem (s : State) (o v : Nat) : State :=
  let src := (o - 0x1000) / 0x20
  if o = 0x04 then s.writeScrub (BitVec.ofNat 32 v)
  else if o = 0x0C then { s with mem := { s.mem with bdLate := s.mem.bdLate && !on_ v 0, lpLate := s.mem.lpLate && !on_ v 1 } }
  else if 0x1000 ≤ o ∧ src < 20 ∧ o % 0x20 = 0x14 then s.modLog src fun l => { l with valid := l.valid && !on_ v 0 }
  else if 0x1000 ≤ o ∧ src < 20 ∧ o % 0x20 = 0x18 then if on_ v 0 then s.clearSource src else s
  else s

/-- A write to the low half of `SEL` stores it; one to the high half loads `RECORD` (16 R493). -/
def State.writeSel (s : State) (side : Side) (o v : Nat) : State :=
  if o = 0x18 then
    let x := s.cairn.window side
    { s with cairn := s.cairn.setWindow side { x with sel := setHalf x.sel false v } }
  else if o = 0x1C then { s with cairn := s.cairn.load side (BitVec.ofNat 32 v) }
  else s

/-- A 32-bit write to BAR0 by block (01 R24). -/
def State.writeBar0 (s : State) (o v : Nat) : State :=
  if o < 0x10000 then s.writeIdent o v
  else if o < 0x18000 then s.writeQueue ⟨(o - 0x10000) / 0x1000 % 8, Nat.mod_lt _ (by decide)⟩ (o % 0x1000) v
  else if 0x40000 ≤ o ∧ o < 0x80000 then s.writePower (o - 0x40000) v
  else if 0x80000 ≤ o ∧ o < 0xC0000 then s.writeFabric (o - 0x80000) v
  else if 0xC0000 ≤ o ∧ o < 0x100000 then s.writeColl (o - 0xC0000) v
  else if 0x100000 ≤ o ∧ o < 0x140000 then s.writeMem (o - 0x100000) v
  else if 0x1000000 ≤ o ∧ o < 0x1E00000 then s.coreWindow ((o - 0x1000000) / 0x10000) fun c => c.writeReg (o % 0x10000) v
  else if 0x2000000 ≤ o then s.writeSel .host (o - 0x2000000) v
  else s

/-- A write to a mailbox register by an agent (12 R381, R383, R384). -/
def State.writeMail (s : State) (m : Fin 16) (a : Agent) (o v : Nat) : State :=
  let x := s.mailbox m
  let mine : Bool := x.sender == agentCode a
  if o < 0x40 then
    if (x.state = .claimed ∧ mine) ∨ (x.state = .sent ∧ x.receiver m = agentCode a) then
      s.modMail m fun x => { x with data := x.data.set (o / 4 % 16) (BitVec.ofNat 32 v) (Nat.mod_lt _ (by decide)) }
    else s.mailRefused m
  else if o = 0x40 then
    match v % 8 with
    | 1 => s.mailClaim m a
    | 2 => s.mailGo m a
    | 4 => s.mailRelease m a
    | _ => s.mailRefused m
  else if o = 0x44 then s.modMail m fun x => { x with refused := x.refused && !on_ v 14 }
  else if o = 0x48 then s.mailCode m a (BitVec.ofNat 16 v)
  else if o = 0x4C then
    if x.state = .claimed ∧ mine then s.modMail m fun x => { x with target := BitVec.ofNat 8 v } else s.mailRefused m
  else s

/-- A write of a doubleword of the MSI-X table (12 R358, R359). A vector that is pending is sent when it is unmasked. -/
def State.writeMsix (s : State) (o v : Nat) : State :=
  let n := o / 16
  let e := spGet MsixEntry.reset s.host.msix n
  let e' : MsixEntry :=
    if o % 16 = 0 then { e with addr := setHalf e.addr false v }
    else if o % 16 = 4 then { e with addr := setHalf e.addr true v }
    else if o % 16 = 8 then { e with data := BitVec.ofNat 32 v }
    else { e with masked := on_ v 0 }
  let s := { s with host := { s.host with msix := spSet MsixEntry.reset s.host.msix n e' } }
  if e.masked ∧ e'.masked = false ∧ s.power.busMaster ∧ s.host.pba.getLsbD n then
    ({ s with host := { s.host with pba := s.host.pba &&& ~~~ BitVec.ofNat 64 (2 ^ n) } } : State).send (.msix n)
  else s

/-- A doorbell write (12 R362). -/
def State.doorbell (s : State) (q : Fin 8) (cpl : Bool) (v : Reg) : State :=
  let out := if cpl then execCplHeadDoorbell q v s else execCmdTailDoorbell q v s
  match out with
  | .next t => t
  | _ => s

/-- A 32-bit write to BAR4 (12 R358). -/
def State.writeBar4 (s : State) (o v : Nat) : State :=
  if o < 0x1000 then s.writeMail ⟨o / 0x100 % 16, Nat.mod_lt _ (by decide)⟩ .host (o % 0x100) v
  else if o < 0x1040 then
    s.doorbell ⟨(o - 0x1000) / 8 % 8, Nat.mod_lt _ (by decide)⟩ (o % 8 == 4) (BitVec.ofNat 32 v)
  else if 0x2000 ≤ o ∧ o < 0x2400 then s.writeMsix (o - 0x2000) v
  else s

/-- A write to PCIe configuration space: Memory Space is bit 1 of the Command register at offset 4, Bus Master bit 2 (15 R459; PRESUMED from
the PCIe Base Specification, log 120). Vectors that have waited for Bus Master are sent. -/
def State.writeConfig (s : State) (off v : Nat) : State :=
  if off ≠ 4 then s
  else
    let s := s.modPower fun p => { p with memSpace := on_ v 1, busMaster := on_ v 2 }
    (List.range 14).foldl (fun (s : State) n =>
      if s.power.busMaster && s.host.pba.getLsbD n && !(spGet MsixEntry.reset s.host.msix n).masked then
        ({ s with host := { s.host with pba := s.host.pba &&& ~~~ BitVec.ofNat 64 (2 ^ n) } } : State).send (.msix n)
      else s) s

/-- Whether an agent writes mailboxes from inside the module (12 R380). -/
def onModule (a : Agent) : Bool :=
  match a with
  | .host | .rmc => false
  | .mgmt | .notar | .core _ => true

/-- An agent inside the module writes a register of a mailbox, at its offset in the mailbox block (12 R381). -/
def State.writeAgent (s : State) (a : Agent) (o v : Nat) : State :=
  let m : Fin 16 := ⟨o / 0x100 % 16, Nat.mod_lt _ (by decide)⟩
  if o < 0x1000 ∧ onModule a ∧ s.agentUp m a then s.writeMail m a (o % 0x100) v else s

/-- REGISTER_WRITE: 32 bits wide and aligned, or Unsupported Request (00 R7, R11, 12 R358). The MSI-X table also takes aligned
quadwords, as the PCIe Base Specification has it; an access to it of another width changes nothing. Beyond a BAR there is no register.
Configuration space answers while the endpoint does, and with Request Retry Status while it is on its way there (15 R457, R459). A
write that an agent inside the module does not make 32 bits wide and aligned has no effect. -/
def execRegisterWrite (bar : Bar) (off : Nat) (width : Nat) (value : BitVec 64) (s : State) : Host.Outcome State Fault Refusal :=
  let good : Bool := width == 4 && off % 4 == 0
  let low := value.toNat % 2 ^ 32
  .next (match bar with
    | .bar0 => if !s.linked ∨ 2 ^ 26 ≤ off then s else if good then s.writeBar0 off low else s.unsupported
    | .bar4 =>
      if !s.linked ∨ 0x4000 ≤ off then s
      else if good then s.writeBar4 off low
      else if off < 0x1044 then s.unsupported
      else if width = 8 ∧ off % 8 = 0 ∧ 0x2000 ≤ off ∧ off < 0x2400 then
        (s.writeMsix (off - 0x2000) low).writeMsix (off - 0x2000 + 4) (value.toNat / 2 ^ 32)
      else s
    | .config => if s.pcieUp then s.writeConfig off low else if s.retrying then s.send .retryStatus else s
    | .mail a => if good then s.writeAgent a off low else s)

/-- Something that a host register write does, while the endpoint answers. -/
def State.byHost (s : State) (f : State → State) : Host.Outcome State Fault Refusal := .next (if s.linked then f s else s)

/-- TOKEN_SET (05 R163). -/
def execTokenSet (c : CoreId) (value : Reg) (s : State) : Host.Outcome State Fault Refusal :=
  s.byHost fun s => s.coreWindow c.val fun x => x.writeToken value.toNat

/-- QSTEP_WRITE (13 R397). -/
def execQstepWrite (q : Fin 8) (value : Reg) (s : State) : Host.Outcome State Fault Refusal := s.byHost fun s => s.writeQstep q value

/-- PORT_EN (10 R315). -/
def execPortEn (value : BitVec 16) (s : State) : Host.Outcome State Fault Refusal := s.byHost fun s => s.writePortEn value

/-- RETRAIN (10 R287). -/
def execRetrain (p : Fin 16) (s : State) : Host.Outcome State Fault Refusal := s.byHost fun s => s.retrain p

/-- FORCE_DOWN (10 R316). -/
def execForceDown (p : Fin 16) (hold : Bool) (s : State) : Host.Outcome State Fault Refusal := s.byHost fun s => s.forceDown p hold

/-- ERG_CNT_CLR (10 R316). -/
def execErgCntClr (s : State) : Host.Outcome State Fault Refusal := s.byHost State.clearErgCounts

/-- COLL_CNT_CLR (11 R355). -/
def execCollCntClr (s : State) : Host.Outcome State Fault Refusal := s.byHost State.clearCollCounts

/-- HC_CNT_CLR (12 R389). -/
def execHcCntClr (s : State) : Host.Outcome State Fault Refusal := s.byHost State.clearHcCounts

/-- CODE_CLR_COUNTS (09 R280). -/
def execCodeClrCounts (src : Fin 20) (s : State) : Host.Outcome State Fault Refusal := s.byHost fun s => s.clearSource src.val

/-- SP_CLR_COUNTS (09 R281). -/
def execSpClrCounts (c : CoreId) (s : State) : Host.Outcome State Fault Refusal :=
  s.byHost fun s => s.coreWindow c.val fun x => x.writeReg 0x3010 1

/-- PEAK_CLR (15 R470). -/
def execPeakClr (s : State) : Host.Outcome State Fault Refusal := s.byHost State.clearPeaks

/-- SCRUB_CTRL_WRITE (09 R274). -/
def execScrubCtrlWrite (value : Reg) (s : State) : Host.Outcome State Fault Refusal := s.byHost fun s => s.writeScrub value

/-- BUDGET_LO_READ: the low half is returned and the high half latched (04 R132, R133). -/
def execBudgetLoRead (c : CoreId) (b : Bool) (s : State) : Host.Outcome State Fault Refusal :=
  s.byHost fun s =>
    if !s.coreOn c.val then s.unsupported
    else
      let x := s.core c.val
      let n := (x.bank b).budget.toNat
      let hi := BitVec.ofNat 9 (n / 2 ^ 32)
      (s.setCore c.val (if b then { x with budgetHi1 := hi } else { x with budgetHi0 := hi })).send (.hostReply (leBytes 4 (n % 2 ^ 32)) false)

/-- ENERGY_LO_READ: the low half is returned, the high half is latched (15 R470). The RMC's read of the mirror is a private read. -/
def execEnergyLoRead (s : State) : Host.Outcome State Fault Refusal :=
  let n := s.power.energy.toNat
  let t := s.modPower fun p => { p with energyHi := BitVec.ofNat 32 (n / 2 ^ 32) }
  .next (if s.linked then t.send (.hostReply (leBytes 4 (n % 2 ^ 32)) false) else s)

/-- SEL_LOAD (16 R493). -/
def execSelLoad (side : Side) (high : Reg) (s : State) : Host.Outcome State Fault Refusal :=
  let up : Bool := match side with
    | .host => s.linked
    | .rmc => s.i3cUp
  .next (if up then { s with cairn := s.cairn.load side high } else s)

end Sys2Proof.Machine
end

