-- ==== Sys2Proof/Machine/Reads.lean ====
section
/-! DEFINITION. What a read of a register returns, by block (00 R7, 01 R24 to R26, and the register maps of 04, 05, 08 to 16): a view
of the state. The table has rows only for the reads that also change something; every other read changes nothing. -/

namespace Sys2Proof.Machine

/-- A flag as a number. -/
def flagNat (b : Bool) : Nat := if b then 1 else 0

/-- Fields of a register: value, lowest bit, width; bits that no field names read 0 (00 R7, R8). -/
def fields (l : List (Nat × Nat × Nat)) : Nat := l.foldl (fun a x => a + x.1 % 2 ^ x.2.2 * 2 ^ x.2.1) 0

/-- `STATE` of a stream as read (05 R162). -/
def StreamState.code (x : StreamState) : Nat :=
  match x with
  | .idle => 0
  | .running => 1
  | .waiting => 2
  | .halted => 3

/-- State of an instruction memory half as read (05 R162). -/
def HalfState.code (x : HalfState) : Nat :=
  match x with
  | .empty => 0
  | .loading => 1
  | .loaded => 2

/-- `BSTATE` as read (04 R133). -/
def BankState.code (x : BankState) : Nat :=
  match x with
  | .cleared => 0
  | .filling => 1
  | .tail => 2
  | .reading => 3

/-- `STATE` of a channel as read (08 R260). -/
def ChanState.code (x : ChanState) : Nat :=
  match x with
  | .idle => 0
  | .active => 1
  | .paged => 2
  | .fault => 3

/-- `LSTATE` as read (10 R316). -/
def LinkState.code (x : LinkState) : Nat :=
  match x with
  | .off => 0
  | .training => 1
  | .up => 2
  | .recovery => 3
  | .down => 4

/-- `QSTATE` as read (12 R365). -/
def QueueState.code (x : QueueState) : Nat :=
  match x with
  | .disabled => 0
  | .running => 1
  | .stalled => 2
  | .error => 3

/-- `MSTATE` as read (12 R384). -/
def MailState.code (x : MailState) : Nat :=
  match x with
  | .free => 0
  | .claimed => 1
  | .sent => 2
  | .acked => 3

/-- A register of a stream's block at the array cycle `now` (05 R162). -/
def Stream.reg (st : Stream) (now o : Nat) : Nat :=
  if o = 0x00 then
    fields [(st.state.code, 0, 2), (flagNat st.half, 2, 1), (st.pc.toNat, 3, 12), (st.haltCause.toNat, 16, 8), (st.waitToken.toNat, 24, 5)]
  else if o = 0x04 then st.flags.toNat
  else if o = 0x08 then st.wdogLimit.toNat
  else if o = 0x0C then (st.waited now).toNat
  else if o = 0x10 then fields [(st.lastCode.toNat, 0, 16), (st.lost.toNat, 16, 8), (st.events.length, 24, 5)]
  else if o = 0x14 then fields [(st.h0.state.code, 0, 2), (st.h1.state.code, 2, 2)]
  else if o = 0x18 then fields [(st.h0.tag.toNat, 0, 16), (st.h1.tag.toNat, 16, 16)]
  else if 0x20 ≤ o ∧ o < 0x40 ∧ o % 4 = 0 then st.ctr (BitVec.ofNat 3 ((o - 0x20) / 4))
  else if 0x40 ≤ o ∧ o < 0x50 ∧ o % 4 = 0 then
    let k := BitVec.ofNat 2 ((o - 0x40) / 4)
    let c := st.cmps[k.toFin]
    fields [(c.limit.toNat, 0, 24), (c.counter.toNat, 24, 3), (c.mode.toNat, 27, 2), (flagNat (st.cmpTrue k), 29, 1)]
  else 0

/-- A register of a bank's block (04 R133). -/
def Core.bankReg (c : Core) (b : Bool) (o : Nat) : Nat :=
  let k := c.bank b
  if o = 0x00 then
    fields [(k.tbase.toNat, 0, 10), (k.flags.toNat, 16, 8), (k.state.code, 24, 2), (flagNat k.compact, 26, 1), (flagNat k.poison, 27, 1),
      (flagNat (c.filling == b), 28, 1), (flagNat k.owner, 29, 1)]
  else if o = 0x04 then bitsOf k.budget.toNat 0 32
  else if o = 0x08 then (if b then c.budgetHi1 else c.budgetHi0).toNat
  else 0

/-- A row exponent as read: 0x200 in exact mode (04 R133). -/
def Bank.rowExpAt (k : Bank) (m : Nat) : Nat := if k.compact then (spGet 0x200 k.rowExp m).toNat else 0x200

/-- A register of a channel's block (08 R260). -/
def Channel.reg (x : Channel) (o : Nat) : Nat :=
  if o = 0x00 then fields [(x.state.code, 0, 2), (x.queue.length, 2, 5), (x.lastStatus.toNat, 8, 16)]
  else if o = 0x04 then x.flags.toNat
  else if o = 0x08 then fields [(x.posI1.toNat, 16, 12)]
  else if o = 0x0C then fields [(x.posI2.toNat, 0, 12), (x.posI3.toNat, 12, 12)]
  else if o = 0x10 then bitsOf x.page.toNat 0 32
  else if o = 0x14 then bitsOf x.page.toNat 32 32
  else if o = 0x18 then x.retired.toNat
  else if o = 0x1C then x.poisonWords.toNat
  else 0

/-- A register of the core's code log (09 R281). -/
def CoreLog.reg (l : CoreLog) (o : Nat) : Nat :=
  if o = 0x00 then l.ce.toNat
  else if o = 0x04 then fields [(l.ue.toNat, 0, 16), (l.psn.toNat, 16, 16)]
  else if o = 0x08 then
    fields [(l.addr.toNat, 0, 21), (flagNat l.valid, 21, 1), (flagNat l.decoupled, 22, 1), (flagNat l.imem, 23, 1), (l.stream.toNat, 24, 2)]
  else if o = 0x0C then l.syn.toNat
  else 0

/-- A register of a core's diagnostic window (04 R131, R133, 05 R162, 08 R260, 09 R281). -/
def Core.reg (c : Core) (o : Nat) : Nat :=
  if o < 0x300 then (c.stream (streamOf (o / 256))).reg (c.watchAt c.cycle) (o % 256)
  else if 0x400 ≤ o ∧ o < 0x420 then
    fields ((List.range 4).map fun i => ((c.tokens.toList.getD (o - 0x400 + i) 0).toNat, 8 * i, 8))
  else if o = 0x424 then fields [(flagNat c.tovf, 0, 1), (flagNat c.hostWrRefused, 1, 1), (c.ovfIndex.toNat, 8, 5)]
  else if o = 0x800 then fields [(flagNat c.hazard.enable, 0, 1), (flagNat c.hazard.haltOnHit, 1, 1)]
  else if o = 0x804 then
    fields [(flagNat c.hazard.hit, 0, 1), (c.hazard.stream.toNat, 1, 2), (flagNat c.hazard.half, 3, 1), (c.hazard.pc.toNat, 4, 12),
      (c.hazard.count.toNat, 16, 16)]
  else if o = 0x808 then fields [(c.hazard.addr.toNat, 0, 21), (flagNat c.hazard.narrow, 21, 1)]
  else if 0x1000 ≤ o ∧ o < 0x1040 then c.bankReg (decide (0x1020 ≤ o)) (o % 0x20)
  else if 0x1100 ≤ o ∧ o < 0x1300 then
    let k := c.bank (decide (0x1200 ≤ o))
    let i := o % 0x100 / 4
    fields [(k.rowExpAt (2 * i), 0, 10), (k.rowExpAt (2 * i + 1), 16, 10)]
  else if 0x1400 ≤ o ∧ o < 0x1500 then
    match c.n.toList[(o - 0x1400) / 0x20]? with
    | some a => bitsOf a.value.toNat (8 * (o % 0x20)) 32
    | none => 0
  else if 0x1500 ≤ o ∧ o < 0x1520 then
    match c.n.toList[(o - 0x1500) / 4]? with
    | some a => fields [(a.exp.toNat, 0, 12), (a.flags.toNat, 16, 8), (flagNat a.poison, 24, 1)]
    | none => 0
  else if 0x2000 ≤ o ∧ o < 0x2400 then
    match c.ch.toList[(o - 0x2000) / 0x100]? with
    | some x => x.reg (o % 0x100)
    | none => 0
  else if 0x3000 ≤ o ∧ o < 0x3014 then c.log.reg (o - 0x3000)
  else 0

/-- MODULE_IDENT to MODULE_STATE (01 R26). -/
def Ident.reg (i : Ident) (o : Nat) : Nat :=
  if o = 0x00 then fields [(0x2D5, 0, 12), (0x5A09, 12, 16)]
  else if o = 0x04 then fields [(i.cores.length, 0, 8), (i.lpddrGib.toNat, 8, 16), (i.stepping.toNat, 24, 8)]
  else if o = 0x08 then fields [(i.slot.toNat, 0, 6), (i.rack.toNat, 6, 6), (i.hall.toNat, 12, 8), (flagNat i.coordLock, 31, 1)]
  else if o = 0x0C then i.id.toNat
  else if o = 0x10 then fields [(i.state.toNat, 0, 4), (i.generation.toNat, 8, 8), (flagNat i.jobOpen, 16, 1)]
  else 0

/-- The host control registers (12 R389). -/
def HostIf.reg (h : HostIf) (o : Nat) : Nat :=
  if o = 0x1000 then fields [(h.margin.toNat, 0, 8), (h.floor_.toNat, 8, 16)]
  else if o = 0x1004 then h.late.toNat
  else if o = 0x1008 then fields [(flagNat h.ownValid, 0, 1), (flagNat h.ownWrite, 1, 1), (flagNat h.ownMod, 2, 1), (h.ownPage.toNat, 3, 15)]
  else if o = 0x100C then fields [(h.hostRefused.toNat, 0, 16), (h.modRefused.toNat, 16, 16)]
  else 0

/-- The job registers (13 R423). -/
def State.jobReg (s : State) (o : Nat) : Nat :=
  let j := s.job
  if o = 0x2000 then j.jobId.toNat
  else if o = 0x2004 then fields [(j.rank.toNat, 0, 12), (j.nranks.toNat, 12, 13)]
  else if o = 0x2008 then j.committed.toNat
  else if o = 0x200C then j.begun.toNat
  else if o = 0x2010 then
    fields [(j.epoch.toNat, 0, 8), (flagNat j.inplace, 8, 1), (flagNat j.pendValid, 9, 1), (j.pendEpoch.toNat, 10, 8),
      (flagNat j.pendInplace, 18, 1), (flagNat j.fence, 19, 1)]
  else if o = 0x2014 then j.pendStep.toNat
  else if o = 0x2018 then j.jbase.toNat
  else if o = 0x201C then j.jcount.toNat
  else if o = 0x2020 then flagNat j.qstepRefused
  else if o = 0x2028 then j.teardownTo.toNat
  else if 0x2040 ≤ o ∧ o < 0x2060 then
    match s.host.queues.toList[(o - 0x2040) / 4]? with
    | some q => q.qstep.toNat
    | none => 0
  else 0

/-- The silent-error registers (14 R443). -/
def Silent.reg (x : Silent) (o : Nat) : Nat :=
  if o = 0x3000 then x.layers.toNat
  else if o = 0x3004 then fields [(x.dropped.toNat, 0, 16), (x.badKind.toNat, 16, 8), (flagNat x.replay.isSome, 24, 1)]
  else if o = 0x3008 then x.replayStep.toNat
  else if 0x3400 ≤ o ∧ o < 0x3400 + 4 * 224 then (spGet 0 x.margins ((o - 0x3400) / 4)).toNat
  else if 0x3800 ≤ o ∧ o < 0x3810 then
    let d := (o - 0x3800) / 4
    fields [((x.voff.toList.getD d 0).toNat, 0, 3), (flagNat (x.settled.toList.getD d false), 3, 1)]
  else if o = 0x3A00 then fields [(x.lpState.toNat, 0, 2), (x.lpClass.toNat, 2, 4), (x.lpIndex.toNat, 6, 8), (flagNat x.lpLock, 14, 1)]
  else if o = 0x3A04 then x.lpErrors.toNat
  else 0

/-- Commands of a queue that have started and not completed (12 R365). -/
def HostIf.inflight (h : HostIf) (q : Fin 8) : Nat := (h.cmds.filter fun c => c.src == .queue q && c.started && !c.replied).length

/-- A queue's registers (12 R365). -/
def State.queueReg (s : State) (q : Fin 8) (o : Nat) : Nat :=
  let x := s.host.queues[q]
  if o = 0x00 then fields [(flagNat x.enable, 0, 1), (x.cmdSize.toNat, 1, 4), (x.cplSize.toNat, 5, 4), (flagNat x.irqAll, 9, 1)]
  else if o = 0x04 then fields [(x.state.code, 0, 2), (s.host.inflight q, 2, 7), (flagNat x.dbErr, 9, 1), (x.err.toNat, 16, 16)]
  else if o = 0x08 then bitsOf x.cmdBase.toNat 0 32
  else if o = 0x0C then bitsOf x.cmdBase.toNat 32 32
  else if o = 0x10 then bitsOf x.cplBase.toNat 0 32
  else if o = 0x14 then bitsOf x.cplBase.toNat 32 32
  else if o = 0x18 then fields [(x.cmdHead.toNat, 0, 16), (x.cplTail.toNat, 16, 16)]
  else if o = 0x1C then fields [(x.cmdTail.toNat, 0, 16), (x.cplHead.toNat, 16, 16)]
  else 0

/-- A window entry as read (12 R388). -/
def WinEntry.reg (e : WinEntry) : Nat := fields [(e.owner.toNat, 0, 2), (e.region.toNat, 2, 4), (e.ppn.toNat, 6, 18)]

/-- The power, clock and thermal registers (15 R470). -/
def Power.reg (p : Power) (o : Nat) : Nat :=
  if o = 0x00 then
    fields [(flagNat p.auxGood, 0, 1), (flagNat p.mainGood, 1, 1), (flagNat p.refclkOk, 2, 1), (flagNat p.refSrc, 3, 1),
      (p.pllLock.toNat, 4, 7), (flagNat p.brake, 11, 1)]
  else if o = 0x04 then p.pdOn.toNat
  else if o = 0x08 then fields [(p.vin.toNat, 0, 16), (p.pin.toNat, 16, 16)]
  else if o = 0x0C then fields [(p.vaux.toNat, 0, 16), (p.paux.toNat, 16, 16)]
  else if o = 0x10 then fields [(p.hostLimit.toNat, 0, 12), (p.effLimit.toNat, 16, 12)]
  else if o = 0x14 then bitsOf p.energy.toNat 0 32
  else if o = 0x18 then p.energyHi.toNat
  else if 0x20 ≤ o ∧ o < 0x50 then
    let i := (o - 0x20) / 4
    fields [((p.temp.toList.getD i 0).toNat, 0, 12), ((p.peak.toList.getD i 0).toNat, 16, 12)]
  else if o = 0x60 then
    fields [(packBits 3 (p.level.toList.map (·.toNat)), 0, 12), (flagNat p.byTemp, 12, 1), (flagNat p.byPower, 13, 1), (flagNat p.byBrake, 14, 1)]
  else if o = 0x64 then p.throttleMs.toNat
  else if o = 0x80 then p.pmEvent.toNat
  else if o = 0x84 then p.pmEventEn.toNat
  else 0

/-- A port's registers (10 R316). -/
def Port.reg (q : Port) (o : Nat) : Nat :=
  if o = 0x00 then fields [(q.lstate.code, 0, 3), (q.laneLock.toNat, 4, 8)]
  else if o = 0x04 then q.fecCorr.toNat
  else if o = 0x08 then fields [(q.fecUncorr.toNat, 0, 16), (q.crcFail.toNat, 16, 16)]
  else if o = 0x0C then fields [(q.replays.toNat, 0, 16), (q.recoveries.toNat, 16, 8)]
  else if o = 0x10 then fields [(flagNat q.forceDown, 1, 1)]
  else 0

/-- The fabric block by its offset (10 R316). -/
def Fabric.reg (f : Fabric) (o : Nat) : Nat :=
  if o < 0x400 then
    match f.ports.toList[o / 0x40]? with
    | some q => q.reg (o % 0x40)
    | none => 0
  else if o = 0x1000 then
    fields [(f.portEn.toNat, 0, 16), (flagNat f.active, 16, 1), (flagNat f.swapPending, 17, 1), (flagNat (f.probes != 0), 18, 1),
      (flagNat f.shadowLocked, 19, 1)]
  else if o = 0x1004 then
    fields [(f.resend.toNat, 0, 8), (f.resendMax.toNat, 8, 4), (f.nrHold.toNat, 12, 8), (f.quietTo.toNat, 20, 8), (f.retrain.toNat, 28, 4)]
  else if o = 0x1008 then f.trunkRate.toNat
  else if 0x1020 ≤ o ∧ o < 0x1040 then (f.cnt.toList.getD ((o - 0x1020) / 4) 0).toNat
  else if 0x10000 ≤ o ∧ o < 0x14000 then (spGet 0 (if f.active then f.rank0 else f.rank1) ((o - 0x10000) / 4)).toNat
  else if 0x14000 ≤ o ∧ o < 0x18000 then (spGet 0 (if f.active then f.route0 else f.route1) ((o - 0x14000) / 4)).toNat
  else if 0x20000 ≤ o ∧ o < 0x24000 then (spGet 0 (if f.active then f.rank1 else f.rank0) ((o - 0x20000) / 4)).toNat
  else if 0x24000 ≤ o ∧ o < 0x28000 then (spGet 0 (if f.active then f.route1 else f.route0) ((o - 0x24000) / 4)).toNat
  else if 0x28000 ≤ o ∧ o < 0x2C000 then (spGet 0 f.bounced ((o - 0x28000) / 4)).toNat
  else 0

/-- The collective engine's block by its offset (11 R355). -/
def Coll.reg (c : Coll) (o : Nat) : Nat :=
  if o = 0x00 then fields [(c.slotsFree, 0, 11), ((c.insts.filter fun i => i.phase ≠ .done).length, 16, 12)]
  else if o = 0x04 then c.bktTo.toNat
  else if 0x10 ≤ o ∧ o < 0x40 then (c.cnt.toList.getD ((o - 0x10) / 4) 0).toNat
  else if o = 0x40 then fields [(c.errCid.toNat, 0, 16), (c.errBucket.toNat, 16, 16)]
  else if o = 0x44 then c.errStep.toNat
  else if o = 0x48 then
    fields [(flagNat c.errValid, 0, 1), (c.errBstat.toNat, 1, 4), (flagNat c.errAttempt, 5, 1), (c.errStage.toNat, 6, 2), (c.errSrc.toNat, 8, 12)]
  else 0

/-- A source log block (09 R280). -/
def SrcLog.reg (l : SrcLog) (o : Nat) : Nat :=
  if o = 0x00 then l.ce.toNat
  else if o = 0x04 then fields [(l.ue.toNat, 0, 16), (l.psn.toNat, 16, 16)]
  else if o = 0x08 then bitsOf l.addr.toNat 0 32
  else if o = 0x0C then bitsOf l.addr.toNat 32 32
  else if o = 0x10 then l.syn.toNat
  else if o = 0x14 then fields [(flagNat l.valid, 0, 1), (flagNat l.patrol, 1, 1), (flagNat l.rmw, 2, 1), (l.lane.toNat, 8, 8)]
  else 0

/-- The memory and code log block by its offset (09 R280). -/
def Mem.reg (m : Mem) (o : Nat) : Nat :=
  if o = 0x00 then fields [(flagNat m.fillDone, 0, 1), (flagNat m.fillActive, 1, 1), (m.fillProgress.toNat, 8, 8)]
  else if o = 0x04 then fields [(m.bdPeriod.toNat, 0, 16), (m.lpPeriod.toNat, 16, 16)]
  else if o = 0x08 then fields [(m.bdPasses.toNat, 0, 16), (m.lpPasses.toNat, 16, 16)]
  else if o = 0x0C then fields [(flagNat m.bdLate, 0, 1), (flagNat m.lpLate, 1, 1)]
  else if 0x1000 ≤ o ∧ o < 0x1000 + 20 * 0x20 then (spGet SrcLog.reset m.logs ((o - 0x1000) / 0x20)).reg (o % 0x20)
  else 0

/-- A 32-bit aligned register of BAR0; none for the window of a fused core, whose access completes with Unsupported Request (01 R24,
R25). Every offset that the maps do not list reads 0. -/
def State.readBar0 (s : State) (o : Nat) : Option Reg :=
  let v := fun (n : Nat) => some (BitVec.ofNat 32 n)
  if o < 0x1000 then v (s.ident.reg o)
  else if o < 0x2000 then v (s.host.reg o)
  else if o < 0x3000 then v (s.jobReg o)
  else if o < 0x10000 then v (s.silent.reg o)
  else if o < 0x18000 then v (s.queueReg ⟨(o - 0x10000) / 0x1000 % 8, Nat.mod_lt _ (by decide)⟩ (o % 0x1000))
  else if 0x20000 ≤ o ∧ o < 0x40000 then v (spGet WinEntry.reset s.host.window ((o - 0x20000) / 4)).reg
  else if 0x40000 ≤ o ∧ o < 0x80000 then v (s.power.reg (o - 0x40000))
  else if 0x80000 ≤ o ∧ o < 0xC0000 then v (s.erg.reg (o - 0x80000))
  else if 0xC0000 ≤ o ∧ o < 0x100000 then v (s.coll.reg (o - 0xC0000))
  else if 0x100000 ≤ o ∧ o < 0x140000 then v (s.mem.reg (o - 0x100000))
  else if 0x1000000 ≤ o ∧ o < 0x1E00000 then
    let p := (o - 0x1000000) / 0x10000
    if s.coreOn p then v ((s.core p).reg (o % 0x10000)) else none
  else if 0x2000000 ≤ o then v (s.cairn.reg .host (o - 0x2000000))
  else v 0

/-- A mailbox register (12 R384). -/
def Mailbox.reg (x : Mailbox) (o : Nat) : Nat :=
  if o < 0x40 then (x.data.toList.getD (o / 4) 0).toNat
  else if o = 0x44 then fields [(x.state.code, 0, 2), (x.sender.toNat, 2, 12), (flagNat x.refused, 14, 1)]
  else if o = 0x48 then x.code.toNat
  else if o = 0x4C then x.target.toNat
  else 0

/-- Mailboxes that are Sent to the host or Acked to the host (12 R384). -/
def State.mbPending (s : State) : Nat :=
  packBits 1 ((List.finRange 16).map fun m =>
    let x := s.mailbox m
    flagNat ((x.state == .sent && x.receiver m == 0x001) || (x.state == .acked && x.sender == 0x001)))

/-- A doubleword of the MSI-X table (12 R358). -/
def MsixEntry.reg (e : MsixEntry) (o : Nat) : Nat :=
  if o = 0x0 then bitsOf e.addr.toNat 0 32
  else if o = 0x4 then bitsOf e.addr.toNat 32 32
  else if o = 0x8 then e.data.toNat
  else flagNat e.masked

/-- A 32-bit aligned register of BAR4 (12 R358). -/
def State.readBar4 (s : State) (o : Nat) : Reg :=
  BitVec.ofNat 32 (
    if o < 0x1000 then (s.mailbox ⟨o / 0x100 % 16, Nat.mod_lt _ (by decide)⟩).reg (o % 0x100)
    else if o = 0x1040 then s.mbPending
    else if 0x2000 ≤ o ∧ o < 0x2400 then (spGet MsixEntry.reset s.host.msix ((o - 0x2000) / 16)).reg (o % 16)
    else if o = 0x3000 then bitsOf s.host.pba.toNat 0 32
    else if o = 0x3004 then bitsOf s.host.pba.toNat 32 32
    else 0)

/-- Whether an offset of BAR4 is that of a block: mailboxes, doorbells, MB_PENDING, the MSI-X table, the pending bits (12 R358). -/
def bar4Block (o : Nat) : Bool :=
  decide (o < 0x1044) || (decide (0x2000 ≤ o) && decide (o < 0x2400)) || (decide (0x3000 ≤ o) && decide (o < 0x3008))

/-- What the host reads; of configuration space the bits that the spec names. 32 bits, aligned, or Unsupported Request (none) for another
width or alignment (00 R7, R11). A reserved offset of BAR4 reads as 0 in every width and alignment; the MSI-X table and the pending bits also
answer aligned quadwords (12 R358). -/
def State.hostRead (s : State) (bar : Bar) (off width : Nat) : Option (BitVec 64) :=
  let good : Bool := width == 4 && off % 4 == 0
  match bar with
  | .bar0 => if good then (s.readBar0 off).map fun v => v.setWidth 64 else none
  | .bar4 =>
    if good then some ((s.readBar4 off).setWidth 64)
    else if !bar4Block off then some 0
    else if width = 8 ∧ off % 8 = 0 ∧ 0x2000 ≤ off ∧ off < 0x3008 then
      some (BitVec.ofNat 64 ((s.readBar4 off).toNat + 2 ^ 32 * (s.readBar4 (off + 4)).toNat))
    else none
  | .config => if off = 4 ∧ width ≤ 4 then some (BitVec.ofNat 64 (fields [(flagNat s.power.memSpace, 1, 1), (flagNat s.power.busMaster, 2, 1)]))
    else none
  | .mail _ => none

/-- A read by the host and what it leaves behind: one that is refused completes with Unsupported Request, which AER reports; configuration space
of an endpoint that trains answers with Request Retry Status (00 R11, 01 R25, 12 R358, 15 R457). -/
def State.hostReads (s : State) (bar : Bar) (off width : Nat) : Option (BitVec 64) × State :=
  if bar = .config ∧ s.pcieUp = false then (none, if s.retrying then s.send .retryStatus else s)
  else if bar ≠ .config ∧ s.linked = false then (none, s)
  else
    match s.hostRead bar off width with
    | some v => (some v, s)
    | none => (none, if bar = .config then s else s.unsupported)

/-- The RMC registers (15 R453). -/
def Power.rmcReg (p : Power) (o : Nat) : Nat :=
  if o = 0x100 then fields [(p.slot.toNat, 0, 6), (p.rack.toNat, 6, 6), (p.hall.toNat, 12, 8)]
  else if o = 0x104 then flagNat p.mainOn
  else if o = 0x108 then
    fields [(p.slotStrap.toNat, 0, 6), (flagNat p.coordErr, 6, 1), (flagNat p.mainErr, 7, 1), (flagNat p.resetIgn, 8, 1),
      (p.offCause.toNat, 12, 4)]
  else if o = 0x10C then p.rmcLimit.toNat
  else if o = 0x110 then fields [(p.i3cErr.toNat, 0, 16), (p.dynAddr.toNat, 16, 7)]
  else 0

/-- The MCTP registers (16 R484). -/
def Notar.mctpReg (n : Notar) (o : Nat) : Nat :=
  if o = 0xF000 then fields [(flagNat n.rxReady, 0, 1), (flagNat n.txBusy, 1, 1), (n.rxLen.toNat, 8, 8)]
  else if 0xF200 ≤ o ∧ o < 0xF244 then (n.rx.toList.getD ((o - 0xF200) / 4) 0).toNat
  else 0

/-- Whether an offset lies in the recovery set: MODULE_IDENT to MODULE_STATE, mailboxes 6 and 7, Cairn, MCTP (16 R477). -/
def inRecovery (o : Nat) : Bool :=
  decide (o < 0x14) || (decide (0x1600 ≤ o) && decide (o < 0x1800)) || (decide (0x2000 ≤ o) && decide (o < 0x3000)) || decide (0xF000 ≤ o)

/-- A 32-bit register of the I3C space; of the recovery set alone while no management firmware runs (15 R453, 16 R477). -/
def State.readI3c (s : State) (o : Nat) : Reg :=
  BitVec.ofNat 32 (
    if !s.notar.fwRuns && !inRecovery o then 0
    else if o < 0x14 then s.ident.reg o
    else if 0x100 ≤ o ∧ o < 0x114 then s.power.rmcReg o
    else if 0x200 ≤ o ∧ o < 0x300 then s.power.reg (o - 0x200)
    else if 0x1000 ≤ o ∧ o < 0x2000 then (s.mailbox ⟨(o - 0x1000) / 0x100 % 16, Nat.mod_lt _ (by decide)⟩).reg (o % 0x100)
    else if 0x2000 ≤ o ∧ o < 0x3000 then s.cairn.reg .rmc (o - 0x2000)
    else if 0xF000 ≤ o then s.notar.mctpReg o
    else 0)

end Sys2Proof.Machine
end

