-- ==== Sys2Proof/Machine/I3c.lean ====
section
/-! DEFINITION. The I3C target: private writes, common command codes (15 R449 to R453). -/

namespace Sys2Proof.Machine

/-- Whether the target is addressed: it has a dynamic address (15 R450). -/
def State.i3cAddressed (s : State) : Bool := s.i3cUp && s.power.dynAddr != 0

/-- A write of RMC_CTRL (15 R453, R455, R461, R462). The main input is taken as last read; the reference, which is compared only while
main power is on, is a free value at that moment. -/
def State.writeRmcCtrl (s : State) (v : Nat) : State :=
  let ok := Config.freeBit s.free
  let s := { s with free := s.free + 1 }
  let s := if on_ v 0 then s.mainOnWrite (s.power.vin.toNat * 10) ok else s.mainOffWrite
  s.rmcResetKey (BitVec.ofNat 8 (bitsOf v 8 8))

/-- A write of a register by the RMC (15 R452, R453, 16 R484, R493). While Notar serves the recovery set a `MAIN_ON` write only sets
`MAIN_ERR`, and of the rest only Cairn, MCTP and mailboxes 6 and 7 answer (16 R477). -/
def State.writeRmc (s : State) (o v : Nat) : State :=
  let all := s.notar.fwRuns
  if o = 0x104 then
    if all then s.writeRmcCtrl v else if on_ v 0 then s.mainOnWrite 0 false else s
  else if o = 0x100 then if all then s.writeCoord (BitVec.ofNat 32 v) else s
  else if o = 0x108 then
    if all then
      s.modPower fun p =>
        { p with coordErr := p.coordErr && !on_ v 6, mainErr := p.mainErr && !on_ v 7, resetIgn := p.resetIgn && !on_ v 8 }
    else s
  else if o = 0x10C then if all then s.modPower fun p => { p with rmcLimit := BitVec.ofNat 12 v } else s
  else if o = 0x280 then if all then s.clearPm v else s
  else if 0x1000 ≤ o ∧ o < 0x2000 then
    let m : Fin 16 := ⟨(o - 0x1000) / 0x100 % 16, Nat.mod_lt _ (by decide)⟩
    if s.agentUp m .rmc then s.writeMail m .rmc (o % 0x100) v else s
  else if 0x2000 ≤ o ∧ o < 0x3000 then s.writeSel .rmc (o - 0x2000) v
  else if o = 0xF004 then
    let s := if on_ v 0 then s.txGo (BitVec.ofNat 8 (bitsOf v 8 8)) else s
    if on_ v 1 then s.rxDone else s
  else if 0xF100 ≤ o ∧ o < 0xF144 then
    s.modNotar fun n => { n with tx := n.tx.set ((o - 0xF100) / 4 % 17) (BitVec.ofNat 32 v) (Nat.mod_lt _ (by decide)) }
  else s

/-- Registers of a private write, four bytes each, in ascending order; a trailing partial register is ignored and counted (15 R452). -/
def State.i3cBytes (n : Nat) (s : State) (off : Nat) (l : List Byte) : State :=
  match n with
  | 0 => s
  | k + 1 =>
    if l.isEmpty then s
    else if l.length < 4 then s.modPower fun p => { p with i3cErr := satInc p.i3cErr }
    else (s.writeRmc off (packBits 8 ((l.take 4).map (·.toNat)))).i3cBytes k (off + 4) (l.drop 4)

/-- A transfer is ignored and counted (15 R452). -/
def State.i3cIgnored (s : State) : State := s.modPower fun p => { p with i3cErr := satInc p.i3cErr }

/-- A private write (15 R452). A transfer without a whole offset is ignored and counted as one (DESIGN CHOICE, log 47). -/
def State.i3cWrite (s : State) (bytes : List Byte) : State :=
  let off := (bytes.getD 0 0).toNat + 256 * (bytes.getD 1 0).toNat
  if bytes.length < 2 ∨ off % 4 ≠ 0 then s.i3cIgnored
  else (s.modPower fun p => { p with i3cOffset := BitVec.ofNat 16 off }).i3cBytes bytes.length off (bytes.drop 2)

/-- n registers are read from the last offset written on; the offset advances with each, and PWR_ENERGY_LO latches its high half (15 R452,
R453, R470). -/
def State.i3cRegs (n : Nat) (s : State) : List Byte × State :=
  match n with
  | 0 => ([], s)
  | k + 1 =>
    let o := s.power.i3cOffset.toNat
    let v := s.readI3c o
    let latch : Bool := o == 0x214 && s.notar.fwRuns
    let s := s.modPower fun p =>
      { p with i3cOffset := p.i3cOffset + 4, energyHi := if latch then BitVec.ofNat 32 (p.energy.toNat / 2 ^ 32) else p.energyHi }
    let (r, s) := s.i3cRegs k
    (leBytes 4 v.toNat ++ r, s)

/-- A private read of n registers; from an offset that is no multiple of 4 it is ignored and counted (15 R452). -/
def State.i3cRead (s : State) (n : Nat) : State :=
  if n = 0 then s
  else if s.power.i3cOffset.toNat % 4 ≠ 0 then s.i3cIgnored
  else
    let (l, s) := s.i3cRegs n
    s.send (.i3cReply l)

/-- The direct codes that the target answers: ENEC, DISEC, RSTDAA, SETMWL, SETMRL, GETMWL, GETMRL, GETPID, GETBCR, GETDCR, GETSTATUS
(15 R450; the numbers PRESUMED from MIPI I3C, log 48). -/
def directCodes : List Byte := [0x80, 0x81, 0x86, 0x89, 0x8A, 0x8B, 0x8C, 0x8D, 0x8E, 0x8F, 0x90]

/-- I3C_PRIVATE_WRITE, with the private read that may follow it; with no byte to write, a private read alone, from the offset that stands (15
R447, R452). A direct code that is not listed is not acknowledged; the
listed ones have rows of their own, and nothing happens here (15 R450). -/
def execI3cPrivateWrite (x : I3cTransfer) (s : State) : Host.Outcome State Fault Refusal :=
  .next (match x with
    | .priv bytes regs =>
      if s.i3cAddressed then (if bytes.isEmpty ∧ regs ≠ 0 then s else s.i3cWrite bytes).i3cRead regs else if s.power.clocksStopped then s.send .i3cNack else s
    | .ccc code => if directCodes.contains code then s else s.send .i3cNack)

/-- The provisioned ID (15 R449). -/
def State.provisionedId (s : State) : Nat := 0x2D5 * 2 ^ 33 + 0x5A09 * 2 ^ 16 + 2 ^ 10 * s.power.slotStrap.toNat

/-- ENTDAA: a target without an address sends its PID, BCR and DCR and takes the address (15 R449, R450). -/
def execEntdaa (addr : BitVec 7) (s : State) : Host.Outcome State Fault Refusal :=
  .next (if s.i3cUp && s.power.dynAddr == 0 then
      (s.modPower fun p => { p with dynAddr := addr }).send (.i3cReply (beBytes 6 s.provisionedId ++ [0x06, 0x00]))
    else s)

/-- RSTDAA (15 R450). -/
def execRstdaa (s : State) : Host.Outcome State Fault Refusal :=
  .next (if s.i3cUp then s.modPower fun p => { p with dynAddr := 0 } else s)

/-- ENEC: bit 0 in-band interrupts, bit 3 Hot-Join (15 R450; the bits PRESUMED from MIPI I3C Basic, log 48). -/
def execEnec (mask : Byte) (s : State) : Host.Outcome State Fault Refusal :=
  .next (if s.i3cUp then
      s.modPower fun p => { p with ibiOn := p.ibiOn || mask.getLsbD 0, hotJoinOn := p.hotJoinOn || mask.getLsbD 3 }
    else s)

/-- DISEC (15 R450). -/
def execDisec (mask : Byte) (s : State) : Host.Outcome State Fault Refusal :=
  .next (if s.i3cUp then
      s.modPower fun p => { p with ibiOn := p.ibiOn && !mask.getLsbD 0, hotJoinOn := p.hotJoinOn && !mask.getLsbD 3 }
    else s)

/-- SETMWL (15 R450). -/
def execSetmwl (value : BitVec 16) (s : State) : Host.Outcome State Fault Refusal :=
  .next (if s.i3cUp then s.modPower fun p => { p with mwl := value } else s)

/-- SETMRL (15 R450). -/
def execSetmrl (value : BitVec 16) (s : State) : Host.Outcome State Fault Refusal :=
  .next (if s.i3cUp then s.modPower fun p => { p with mrl := value } else s)

/-- A direct code is answered by an addressed target; otherwise it is not acknowledged (15 R450). -/
def State.i3cAnswer (s : State) (l : List Byte) : Host.Outcome State Fault Refusal :=
  .next (if s.i3cAddressed then s.send (.i3cReply l) else s.send .i3cNack)

/-- GETMWL (15 R450). -/
def execGetmwl (s : State) : Host.Outcome State Fault Refusal := s.i3cAnswer (beBytes 2 s.power.mwl.toNat)

/-- GETMRL: with the in-band interrupt's payload size, a free value, since BCR says that it has one (15 R449, R450, log 48). -/
def execGetmrl (s : State) : Host.Outcome State Fault Refusal :=
  let (n, s') := s.draw 12
  s'.i3cAnswer (beBytes 2 s.power.mrl.toNat ++ [BitVec.ofNat 8 n])

/-- GETPID (15 R449). -/
def execGetpid (s : State) : Host.Outcome State Fault Refusal := s.i3cAnswer (beBytes 6 s.provisionedId)

/-- GETBCR (15 R449). -/
def execGetbcr (s : State) : Host.Outcome State Fault Refusal := s.i3cAnswer [0x06]

/-- GETDCR (15 R449). -/
def execGetdcr (s : State) : Host.Outcome State Fault Refusal := s.i3cAnswer [0x00]

/-- GETSTATUS: the spec does not lay the two bytes out; they are a free value (15 R450, log 48). -/
def execGetstatus (s : State) : Host.Outcome State Fault Refusal :=
  let (n, s') := s.draw 13
  s'.i3cAnswer (beBytes 2 (n % 65536))

end Sys2Proof.Machine
end

