-- ==== Sys2Proof/Machine/QanatGroup.lean ====
section
/-! DEFINITION. What the Qanat rows do (08). -/

namespace Sys2Proof.Machine

/-- QANAT_DESCRIPTOR_START (08 R231, R238). -/
def execQanatDescriptorStart (c : CoreId) (ch : Fin 4) (s : State) : Host.Outcome State Fault Refusal :=
  .next (if s.coresRun && s.coreOn c.val then s.qStart c.val ch else s)

/-- QANAT_READ_DONE (08 R244, R245). -/
def execQanatReadDone (c : CoreId) (ch : Fin 4) (s : State) : Host.Outcome State Fault Refusal :=
  .next (if s.coresRun && s.coreOn c.val then s.qReadDone c.val ch else s)

/-- QANAT_DESCRIPTOR_RETIRE (08 R229, R243, R245). -/
def execQanatDescriptorRetire (c : CoreId) (ch : Fin 4) (s : State) : Host.Outcome State Fault Refusal :=
  .next (if s.coresRun && s.coreOn c.val then s.qRetire c.val ch else s)

end Sys2Proof.Machine
end

