-- ==== Sys2Proof/Machine/VectorGroup.lean ====
section
/-! DEFINITION. The vector group's instructions, scratchpad write effects and VU results (04 R119 to R129, 06 R195 to R203). -/

namespace Sys2Proof.Machine

/-- Whether an instruction is VFP. -/
def isVfp (i : Insn) : Bool :=
  match i with
  | .vfp _ => true
  | _ => false

/-- VFP (06 R197): the stream's instruction issues if it is this one. -/
def execVfp (c : CoreId) (k : StreamId) (s : State) : Host.Outcome State Fault Refusal :=
  .next (s.issue c k isVfp bodyVfp)

/-- Whether an instruction is VINT. -/
def isVint (i : Insn) : Bool :=
  match i with
  | .vint _ => true
  | _ => false

/-- VINT (06 R198): the stream's instruction issues if it is this one. -/
def execVint (c : CoreId) (k : StreamId) (s : State) : Host.Outcome State Fault Refusal :=
  .next (s.issue c k isVint bodyVint)

/-- Whether an instruction is VXL. -/
def isVxl (i : Insn) : Bool :=
  match i with
  | .vxl _ => true
  | _ => false

/-- VXL (06 R199): the stream's instruction issues if it is this one. -/
def execVxl (c : CoreId) (k : StreamId) (s : State) : Host.Outcome State Fault Refusal :=
  .next (s.issue c k isVxl bodyVxl)

/-- Whether an instruction is VCVT. -/
def isVcvt (i : Insn) : Bool :=
  match i with
  | .vcvt _ _ => true
  | _ => false

/-- VCVT (06 R200): the stream's instruction issues if it is this one. -/
def execVcvt (c : CoreId) (k : StreamId) (s : State) : Host.Outcome State Fault Refusal :=
  .next (s.issue c k isVcvt bodyVcvt)

/-- Whether an instruction is NOPEN. -/
def isNopen (i : Insn) : Bool :=
  match i with
  | .vnacc h => decide (h.fn.toNat = 0)
  | _ => false

/-- NOPEN (06 R201): the stream's instruction issues if it is this one. -/
def execNopen (c : CoreId) (k : StreamId) (s : State) : Host.Outcome State Fault Refusal :=
  .next (s.issue c k isNopen bodyNopen)

/-- Whether an instruction is NACC. -/
def isNacc (i : Insn) : Bool :=
  match i with
  | .vnacc h => decide (h.fn.toNat = 1)
  | _ => false

/-- NACC (06 R201): the stream's instruction issues if it is this one. -/
def execNacc (c : CoreId) (k : StreamId) (s : State) : Host.Outcome State Fault Refusal :=
  .next (s.issue c k isNacc bodyNacc)

/-- Whether an instruction is NSQ. -/
def isNsq (i : Insn) : Bool :=
  match i with
  | .vnacc h => decide (h.fn.toNat = 2)
  | _ => false

/-- NSQ (06 R201): the stream's instruction issues if it is this one. -/
def execNsq (c : CoreId) (k : StreamId) (s : State) : Host.Outcome State Fault Refusal :=
  .next (s.issue c k isNsq bodyNsq)

/-- Whether an instruction is NDOT. -/
def isNdot (i : Insn) : Bool :=
  match i with
  | .vnacc h => decide (h.fn.toNat = 3)
  | _ => false

/-- NDOT (06 R201): the stream's instruction issues if it is this one. -/
def execNdot (c : CoreId) (k : StreamId) (s : State) : Host.Outcome State Fault Refusal :=
  .next (s.issue c k isNdot bodyNdot)

/-- Whether an instruction is NREAD. -/
def isNread (i : Insn) : Bool :=
  match i with
  | .vnacc h => decide (h.fn.toNat = 4)
  | _ => false

/-- NREAD (06 R201): the stream's instruction issues if it is this one. -/
def execNread (c : CoreId) (k : StreamId) (s : State) : Host.Outcome State Fault Refusal :=
  .next (s.issue c k isNread bodyNread)

/-- Whether an instruction is MWADD. -/
def isMwadd (i : Insn) : Bool :=
  match i with
  | .vnacc h => decide (h.fn.toNat = 5)
  | _ => false

/-- MWADD (06 R201, 02 R62): the stream's instruction issues if it is this one. -/
def execMwadd (c : CoreId) (k : StreamId) (s : State) : Host.Outcome State Fault Refusal :=
  .next (s.issue c k isMwadd bodyMwadd)

/-- Whether an instruction is MWADDN. -/
def isMwaddn (i : Insn) : Bool :=
  match i with
  | .vnacc h => decide (h.fn.toNat = 6)
  | _ => false

/-- MWADDN (06 R201): the stream's instruction issues if it is this one. -/
def execMwaddn (c : CoreId) (k : StreamId) (s : State) : Host.Outcome State Fault Refusal :=
  .next (s.issue c k isMwaddn bodyMwaddn)

/-- Whether an instruction is MWRITE. -/
def isMwrite (i : Insn) : Bool :=
  match i with
  | .vmask h _ => decide (h.fn.toNat = 0)
  | _ => false

/-- MWRITE (06 R202): the stream's instruction issues if it is this one. -/
def execMwrite (c : CoreId) (k : StreamId) (s : State) : Host.Outcome State Fault Refusal :=
  .next (s.issue c k isMwrite bodyMwrite)

/-- Whether an instruction is MREAD. -/
def isMread (i : Insn) : Bool :=
  match i with
  | .vmask h _ => decide (h.fn.toNat = 1)
  | _ => false

/-- MREAD (06 R202): the stream's instruction issues if it is this one. -/
def execMread (c : CoreId) (k : StreamId) (s : State) : Host.Outcome State Fault Refusal :=
  .next (s.issue c k isMread bodyMread)

/-- Whether an instruction is DROP. -/
def isDrop (i : Insn) : Bool :=
  match i with
  | .vmask h _ => decide (h.fn.toNat = 2)
  | _ => false

/-- DROP (06 R202): the stream's instruction issues if it is this one. -/
def execDrop (c : CoreId) (k : StreamId) (s : State) : Host.Outcome State Fault Refusal :=
  .next (s.issue c k isDrop bodyDrop)

/-- Whether an instruction is VLD. -/
def isVld (i : Insn) : Bool :=
  match i with
  | .vld _ _ => true
  | _ => false

/-- VLD (06 R203): the stream's instruction issues if it is this one. -/
def execVld (c : CoreId) (k : StreamId) (s : State) : Host.Outcome State Fault Refusal :=
  .next (s.issue c k isVld bodyVld)

/-- Whether an instruction is VST. -/
def isVst (i : Insn) : Bool :=
  match i with
  | .vst _ _ => true
  | _ => false

/-- VST (06 R203): the stream's instruction issues if it is this one. -/
def execVst (c : CoreId) (k : StreamId) (s : State) : Host.Outcome State Fault Refusal :=
  .next (s.issue c k isVst bodyVst)

/-- SCRATCHPAD_WRITE_EFFECT (04 R119, R120). -/
def execScratchpadWriteEffect (c : CoreId) (s : State) : Host.Outcome State Fault Refusal :=
  .next (s.atCore c.val fun env x => x.writeEffect env)

/-- VU_RESULT_WRITEBACK (06 R196). -/
def execVuResultWriteback (c : CoreId) (s : State) : Host.Outcome State Fault Refusal :=
  .next (s.atCore c.val fun env x => x.writeback env)

end Sys2Proof.Machine
end

