-- ==== Sys2Proof/Machine/Dispatch.lean ====
section
/-! DEFINITION. One arm for each command. -/

namespace Sys2Proof.Machine

/-- What a command does to everything but the queue. -/
def exec (i : Instr) (s : State) : Host.Outcome State Fault Refusal :=
  match i with
  | .nop c k => Sys2Proof.Machine.execNop c k s
  | .halt c k => Sys2Proof.Machine.execHalt c k s
  | .event c k => Sys2Proof.Machine.execEvent c k s
  | .cset c k => Sys2Proof.Machine.execCset c k s
  | .cinc c k => Sys2Proof.Machine.execCinc c k s
  | .cmpset c k => Sys2Proof.Machine.execCmpset c k s
  | .br c k => Sys2Proof.Machine.execBr c k s
  | .brc c k => Sys2Proof.Machine.execBrc c k s
  | .brn c k => Sys2Proof.Machine.execBrn c k s
  | .hswitch c k => Sys2Proof.Machine.execHswitch c k s
  | .twait c k => Sys2Proof.Machine.execTwait c k s
  | .twaitGrant c k => Sys2Proof.Machine.execTwaitGrant c k s
  | .tpost c k => Sys2Proof.Machine.execTpost c k s
  | .tokenPost c j => Sys2Proof.Machine.execTokenPost c j s
  | .qpush c k => Sys2Proof.Machine.execQpush c k s
  | .lctx c k => Sys2Proof.Machine.execLctx c k s
  | .matmul c k => Sys2Proof.Machine.execMatmul c k s
  | .p96Accumulate c => Sys2Proof.Machine.execP96Accumulate c s
  | .wload c k => Sys2Proof.Machine.execWload c k s
  | .wloadComplete c => Sys2Proof.Machine.execWloadComplete c s
  | .wswap c k => Sys2Proof.Machine.execWswap c k s
  | .drain c k => Sys2Proof.Machine.execDrain c k s
  | .bankTailEnd c => Sys2Proof.Machine.execBankTailEnd c s
  | .bankDrainEnd c => Sys2Proof.Machine.execBankDrainEnd c s
  | .bfill c k => Sys2Proof.Machine.execBfill c k s
  | .bfillComplete c => Sys2Proof.Machine.execBfillComplete c s
  | .vfp c k => Sys2Proof.Machine.execVfp c k s
  | .vint c k => Sys2Proof.Machine.execVint c k s
  | .vxl c k => Sys2Proof.Machine.execVxl c k s
  | .vcvt c k => Sys2Proof.Machine.execVcvt c k s
  | .nopen c k => Sys2Proof.Machine.execNopen c k s
  | .nacc c k => Sys2Proof.Machine.execNacc c k s
  | .nsq c k => Sys2Proof.Machine.execNsq c k s
  | .ndot c k => Sys2Proof.Machine.execNdot c k s
  | .nread c k => Sys2Proof.Machine.execNread c k s
  | .mwadd c k => Sys2Proof.Machine.execMwadd c k s
  | .mwaddn c k => Sys2Proof.Machine.execMwaddn c k s
  | .mwrite c k => Sys2Proof.Machine.execMwrite c k s
  | .mread c k => Sys2Proof.Machine.execMread c k s
  | .drop c k => Sys2Proof.Machine.execDrop c k s
  | .vld c k => Sys2Proof.Machine.execVld c k s
  | .vst c k => Sys2Proof.Machine.execVst c k s
  | .scratchpadWriteEffect c => Sys2Proof.Machine.execScratchpadWriteEffect c s
  | .vuResultWriteback c => Sys2Proof.Machine.execVuResultWriteback c s
  | .progressWatchdogExpiry c k => Sys2Proof.Machine.execProgressWatchdogExpiry c k s
  | .eventCompletionPost c k => Sys2Proof.Machine.execEventCompletionPost c k s
  | .halfLoaded c k half => Sys2Proof.Machine.execHalfLoaded c k half s
  | .launchComplete src => Sys2Proof.Machine.execLaunchComplete src s
  | .qanatDescriptorStart c ch => Sys2Proof.Machine.execQanatDescriptorStart c ch s
  | .qanatReadDone c ch => Sys2Proof.Machine.execQanatReadDone c ch s
  | .qanatDescriptorRetire c ch => Sys2Proof.Machine.execQanatDescriptorRetire c ch s
  | .patrolScrubRead k => Sys2Proof.Machine.execPatrolScrubRead k s
  | .scrubPeriodExpiry k => Sys2Proof.Machine.execScrubPeriodExpiry k s
  | .fillComplete => Sys2Proof.Machine.execFillComplete s
  | .linkFrame p seq check => Sys2Proof.Machine.execLinkFrame p seq check s
  | .linkNak p seq => Sys2Proof.Machine.execLinkNak p seq s
  | .linkTrainingComplete p => Sys2Proof.Machine.execLinkTrainingComplete p s
  | .retrainBudgetExpiry p => Sys2Proof.Machine.execRetrainBudgetExpiry p s
  | .write p pkt => Sys2Proof.Machine.execWrite p pkt s
  | .read p pkt => Sys2Proof.Machine.execRead p pkt s
  | .readData p pkt => Sys2Proof.Machine.execReadData p pkt s
  | .status p pkt => Sys2Proof.Machine.execStatus p pkt s
  | .ack p pkt => Sys2Proof.Machine.execAck p pkt s
  | .quiet p pkt => Sys2Proof.Machine.execQuiet p pkt s
  | .bounce p pkt => Sys2Proof.Machine.execBounce p pkt s
  | .ackTimerExpiry src sid => Sys2Proof.Machine.execAckTimerExpiry src sid s
  | .resendTimerExpiry dst sid seq => Sys2Proof.Machine.execResendTimerExpiry dst sid seq s
  | .nrHoldExpiry j => Sys2Proof.Machine.execNrHoldExpiry j s
  | .quietToExpiry => Sys2Proof.Machine.execQuietToExpiry s
  | .contribution => Sys2Proof.Machine.execContribution s
  | .instanceAdmit j => Sys2Proof.Machine.execInstanceAdmit j s
  | .upData p pkt => Sys2Proof.Machine.execUpData p pkt s
  | .upMeta p pkt => Sys2Proof.Machine.execUpMeta p pkt s
  | .nodeOutput r => Sys2Proof.Machine.execNodeOutput r s
  | .downData p pkt => Sys2Proof.Machine.execDownData p pkt s
  | .downMeta p pkt => Sys2Proof.Machine.execDownMeta p pkt s
  | .back p pkt => Sys2Proof.Machine.execBack p pkt s
  | .resendReq p pkt => Sys2Proof.Machine.execResendReq p pkt s
  | .redo p pkt => Sys2Proof.Machine.execRedo p pkt s
  | .arriveData p pkt => Sys2Proof.Machine.execArriveData p pkt s
  | .arriveMeta p pkt => Sys2Proof.Machine.execArriveMeta p pkt s
  | .bucketTimeout j => Sys2Proof.Machine.execBucketTimeout j s
  | .hostWindowRead off len => Sys2Proof.Machine.execHostWindowRead off len s
  | .hostWindowWrite off bytes ep => Sys2Proof.Machine.execHostWindowWrite off bytes ep s
  | .cmdTailDoorbell q value => Sys2Proof.Machine.execCmdTailDoorbell q value s
  | .cplHeadDoorbell q value => Sys2Proof.Machine.execCplHeadDoorbell q value s
  | .commandFetch q => Sys2Proof.Machine.execCommandFetch q s
  | .commandTimeout src j => Sys2Proof.Machine.execCommandTimeout src j s
  | .queueEnable q value => Sys2Proof.Machine.execQueueEnable q value s
  | .queueDisable q value => Sys2Proof.Machine.execQueueDisable q value s
  | .nopEcho src => Sys2Proof.Machine.execNopEcho src s
  | .moduleInfo src => Sys2Proof.Machine.execModuleInfo src s
  | .memCopy src => Sys2Proof.Machine.execMemCopy src s
  | .memFill src => Sys2Proof.Machine.execMemFill src s
  | .pageMap src => Sys2Proof.Machine.execPageMap src s
  | .pageUnmap src => Sys2Proof.Machine.execPageUnmap src s
  | .pageResident src => Sys2Proof.Machine.execPageResident src s
  | .windowOwn src => Sys2Proof.Machine.execWindowOwn src s
  | .imemLoad src => Sys2Proof.Machine.execImemLoad src s
  | .launch src => Sys2Proof.Machine.execLaunch src s
  | .streamResume src => Sys2Proof.Machine.execStreamResume src s
  | .streamResumeDiscardHead src => Sys2Proof.Machine.execStreamResumeDiscardHead src s
  | .streamResumeDiscardAll src => Sys2Proof.Machine.execStreamResumeDiscardAll src s
  | .coreHalt src => Sys2Proof.Machine.execCoreHalt src s
  | .collSetup src => Sys2Proof.Machine.execCollSetup src s
  | .exchange src => Sys2Proof.Machine.execExchange src s
  | .scaleSet src => Sys2Proof.Machine.execScaleSet src s
  | .jobOpen src => Sys2Proof.Machine.execJobOpen src s
  | .jobClose src => Sys2Proof.Machine.execJobClose src s
  | .teardownToExpiry => Sys2Proof.Machine.execTeardownToExpiry s
  | .jobCloseScrubDone => Sys2Proof.Machine.execJobCloseScrubDone s
  | .modeSet src => Sys2Proof.Machine.execModeSet src s
  | .stepCloseRequest src => Sys2Proof.Machine.execStepCloseRequest src s
  | .stepClose step => Sys2Proof.Machine.execStepClose step s
  | .stepCommit src => Sys2Proof.Machine.execStepCommit src s
  | .stepAbort src => Sys2Proof.Machine.execStepAbort src s
  | .stepAbortFenceClear src => Sys2Proof.Machine.execStepAbortFenceClear src s
  | .checkpoint src => Sys2Proof.Machine.execCheckpoint src s
  | .restore src => Sys2Proof.Machine.execRestore src s
  | .rankRemap src => Sys2Proof.Machine.execRankRemap src s
  | .routeSwap src => Sys2Proof.Machine.execRouteSwap src s
  | .diagPatrol src => Sys2Proof.Machine.execDiagPatrol src s
  | .diagPatrolEnd => Sys2Proof.Machine.execDiagPatrolEnd s
  | .replay src => Sys2Proof.Machine.execReplay src s
  | .replayDisarm src => Sys2Proof.Machine.execReplayDisarm src s
  | .marginSet src => Sys2Proof.Machine.execMarginSet src s
  | .marginRailSettled die => Sys2Proof.Machine.execMarginRailSettled die s
  | .linkPattern src => Sys2Proof.Machine.execLinkPattern src s
  | .linkPatternEnd bits errors lanes => Sys2Proof.Machine.execLinkPatternEnd bits errors lanes s
  | .computeReset src => Sys2Proof.Machine.execComputeReset src s
  | .dumpSample src => Sys2Proof.Machine.execDumpSample src s
  | .dumpAccessTimeout c b j => Sys2Proof.Machine.execDumpAccessTimeout c b j s
  | .attest src => Sys2Proof.Machine.execAttest src s
  | .fwUpdateStage src => Sys2Proof.Machine.execFwUpdateStage src s
  | .fwUpdateChunk src => Sys2Proof.Machine.execFwUpdateChunk src s
  | .fwUpdateVerify src => Sys2Proof.Machine.execFwUpdateVerify src s
  | .fwUpdateActivate src => Sys2Proof.Machine.execFwUpdateActivate src s
  | .fwUpdateBurn src => Sys2Proof.Machine.execFwUpdateBurn src s
  | .cairnRead src => Sys2Proof.Machine.execCairnRead src s
  | .cairnReadStatus src => Sys2Proof.Machine.execCairnReadStatus src s
  | .claim m by_ => Sys2Proof.Machine.execClaim m by_ s
  | .go m by_ => Sys2Proof.Machine.execGo m by_ s
  | .release m by_ => Sys2Proof.Machine.execRelease m by_ s
  | .code m by_ value => Sys2Proof.Machine.execCode m by_ value s
  | .mailboxDelivery m => Sys2Proof.Machine.execMailboxDelivery m s
  | .tokenSet c value => Sys2Proof.Machine.execTokenSet c value s
  | .qstepWrite q value => Sys2Proof.Machine.execQstepWrite q value s
  | .resetKey value => Sys2Proof.Machine.execResetKey value s
  | .rmcResetKey value => Sys2Proof.Machine.execRmcResetKey value s
  | .lock value => Sys2Proof.Machine.execLock value s
  | .mainOn milliVolts refPpm => Sys2Proof.Machine.execMainOn milliVolts refPpm s
  | .orderlyPowerOff => Sys2Proof.Machine.execOrderlyPowerOff s
  | .mainPowerOffComplete => Sys2Proof.Machine.execMainPowerOffComplete s
  | .portEn value => Sys2Proof.Machine.execPortEn value s
  | .retrain p => Sys2Proof.Machine.execRetrain p s
  | .forceDown p hold => Sys2Proof.Machine.execForceDown p hold s
  | .ergCntClr => Sys2Proof.Machine.execErgCntClr s
  | .collCntClr => Sys2Proof.Machine.execCollCntClr s
  | .hcCntClr => Sys2Proof.Machine.execHcCntClr s
  | .codeClrCounts k => Sys2Proof.Machine.execCodeClrCounts k s
  | .spClrCounts c => Sys2Proof.Machine.execSpClrCounts c s
  | .peakClr => Sys2Proof.Machine.execPeakClr s
  | .scrubCtrlWrite value => Sys2Proof.Machine.execScrubCtrlWrite value s
  | .budgetLoRead c b => Sys2Proof.Machine.execBudgetLoRead c b s
  | .energyLoRead => Sys2Proof.Machine.execEnergyLoRead s
  | .selLoad side high => Sys2Proof.Machine.execSelLoad side high s
  | .txGo len => Sys2Proof.Machine.execTxGo len s
  | .rxDone => Sys2Proof.Machine.execRxDone s
  | .registerWrite bar off width value => Sys2Proof.Machine.execRegisterWrite bar off width value s
  | .i3cPrivateWrite x => Sys2Proof.Machine.execI3cPrivateWrite x s
  | .entdaa addr => Sys2Proof.Machine.execEntdaa addr s
  | .rstdaa => Sys2Proof.Machine.execRstdaa s
  | .enec mask => Sys2Proof.Machine.execEnec mask s
  | .disec mask => Sys2Proof.Machine.execDisec mask s
  | .setmwl value => Sys2Proof.Machine.execSetmwl value s
  | .setmrl value => Sys2Proof.Machine.execSetmrl value s
  | .getmwl => Sys2Proof.Machine.execGetmwl s
  | .getmrl => Sys2Proof.Machine.execGetmrl s
  | .getpid => Sys2Proof.Machine.execGetpid s
  | .getbcr => Sys2Proof.Machine.execGetbcr s
  | .getdcr => Sys2Proof.Machine.execGetdcr s
  | .getstatus => Sys2Proof.Machine.execGetstatus s
  | .auxPowerOn straps => Sys2Proof.Machine.execAuxPowerOn straps s
  | .oscStable straps => Sys2Proof.Machine.execOscStable straps s
  | .firmwareReady => Sys2Proof.Machine.execFirmwareReady s
  | .auxLost => Sys2Proof.Machine.execAuxLost s
  | .mainRailsGood => Sys2Proof.Machine.execMainRailsGood s
  | .memoryTrainingDone => Sys2Proof.Machine.execMemoryTrainingDone s
  | .startupStepFailed unit => Sys2Proof.Machine.execStartupStepFailed unit s
  | .inputUndervoltage milliVolts => Sys2Proof.Machine.execInputUndervoltage milliVolts s
  | .inputOvervoltage milliVolts => Sys2Proof.Machine.execInputOvervoltage milliVolts s
  | .overCurrent milliAmps => Sys2Proof.Machine.execOverCurrent milliAmps s
  | .refclkLost => Sys2Proof.Machine.execRefclkLost s
  | .sensorRead r => Sys2Proof.Machine.execSensorRead r s
  | .throttleEvaluation => Sys2Proof.Machine.execThrottleEvaluation s
  | .powerFastPath => Sys2Proof.Machine.execPowerFastPath s
  | .pwrBrakeAssert => Sys2Proof.Machine.execPwrBrakeAssert s
  | .pwrBrakeRelease => Sys2Proof.Machine.execPwrBrakeRelease s
  | .perstNAssert x => Sys2Proof.Machine.execPerstNAssert x s
  | .perstNHoldExpiry => Sys2Proof.Machine.execPerstNHoldExpiry s
  | .perstNRelease => Sys2Proof.Machine.execPerstNRelease s
  | .doeDiscovery index => Sys2Proof.Machine.execDoeDiscovery index s
  | .getVersion r => Sys2Proof.Machine.execGetVersion r s
  | .getCapabilities t => Sys2Proof.Machine.execGetCapabilities t s
  | .negotiateAlgorithms t req => Sys2Proof.Machine.execNegotiateAlgorithms t req s
  | .getDigests t => Sys2Proof.Machine.execGetDigests t s
  | .getCertificate t slot off len => Sys2Proof.Machine.execGetCertificate t slot off len s
  | .challenge t slot req => Sys2Proof.Machine.execChallenge t slot req s
  | .getMeasurements t index req => Sys2Proof.Machine.execGetMeasurements t index req s
  | .keyExchange t slot req => Sys2Proof.Machine.execKeyExchange t slot req s
  | .finish t req => Sys2Proof.Machine.execFinish t req s
  | .heartbeat t => Sys2Proof.Machine.execHeartbeat t s
  | .keyUpdate t op => Sys2Proof.Machine.execKeyUpdate t op s
  | .endSession t => Sys2Proof.Machine.execEndSession t s
  | .respondIfReady t token => Sys2Proof.Machine.execRespondIfReady t token s
  | .setEndpointId eid => Sys2Proof.Machine.execSetEndpointId eid s
  | .getEndpointId => Sys2Proof.Machine.execGetEndpointId s
  | .getMctpVersionSupport => Sys2Proof.Machine.execGetMctpVersionSupport s
  | .getMessageTypeSupport => Sys2Proof.Machine.execGetMessageTypeSupport s
  | .cairnRecordWrite => Sys2Proof.Machine.execCairnRecordWrite s
  | .sealTimerExpiry => Sys2Proof.Machine.execSealTimerExpiry s
  | .sealSigned => Sys2Proof.Machine.execSealSigned s
  | .suppressionSecondEnd => Sys2Proof.Machine.execSuppressionSecondEnd s
  | .matmulFeedEnd c => Sys2Proof.Machine.execMatmulFeedEnd c s
  | .internalFault status unit info => Sys2Proof.Machine.execInternalFault status unit info s
  | .badPkt p pkt => Sys2Proof.Machine.execBadPkt p pkt s
  | .hdrUe p syndrome => Sys2Proof.Machine.execHdrUe p syndrome s
  | .railLeavesRegulation => Sys2Proof.Machine.execRailLeavesRegulation s
  | .endpointReady => Sys2Proof.Machine.execEndpointReady s

end Sys2Proof.Machine
end

