-- ==== Sys2Proof/Machine/Cycle.lean ====
section
/-! DEFINITION. Commands of one control cycle. The block takes one command after the other, each as if in a control cycle of its own;
where several fall in one control cycle the spec says which acts first and what becomes of ties: `State.controlCycle` runs them so
(log 82). -/

namespace Sys2Proof.Machine

/-- The place of a command among those of its control cycle, the lower acting first; commands of one place are those among which the spec
gives no order.
- 0: the expiry of PERST_N's hold, before a RESET_KEY (15 R461).
- 1: writes of the host, the RMC and the agents, before what hardware does, so that a bit set in the cycle of its clearing write ends
  set, and a field that hardware updates ends with the update (00 R9, R10); LOCK, before JOB_OPEN and before packets (01 R28, 10 R315).
- From 2: writes that may be refused or act, and set what another write clears (00 R9); QSTEP writes, before doorbells (13 R397). Of two
  CLAIMs the lower sender's comes first (12 R383).
- 5000: doorbells. 5001: command fetches, before MODE_SET (13 R401).
- From 6002: the causes of an emergency power-off, the lowest code first, the thermal trip before every throttle action (15 R463, R465).
- 7000: evaluations, before the fast paths at 7001, so that the larger level stands (15 R467, R468).
- 7950 and on: ACKs, before BOUNCEs at 8020 and on (10 R310). 8000: all else that hardware does, and the receiver's CODE, before a RELEASE
  at 8100 (12 R383); packets by the plane they arrive on, so that the copy on the lower plane is the one taken (10 R306).
- 8500: timers whose end puts a channel into Fault, before the commands that meet it there (08 R256), after the ACKs that stop them.
- 9000: commands that start, after the accesses, closes, pauses and scale corrections that meet them (07 R227, 08 R256, 10 R299, 12 R388,
  14 R433); DIAG_PATROL at 9001, after LAUNCH (14 R439).
- 9002: other timers, after what they wait for (11 R352, 12 R379). 9003: an orderly power-off (15 R463). -/
def placeOf (i : Instr) : Nat :=
  match i with
  | .perstNHoldExpiry => 0
  | .lock _ | .registerWrite _ _ _ _ | .i3cPrivateWrite _ | .resetKey _ | .rmcResetKey _
  | .ergCntClr | .collCntClr | .hcCntClr | .codeClrCounts _ | .spClrCounts _ | .peakClr
  | .scrubCtrlWrite _ | .budgetLoRead _ _ | .energyLoRead | .selLoad _ _ | .queueEnable _ _ | .queueDisable _ _ => 1
  | .portEn _ | .retrain _ | .forceDown _ _ | .txGo _ | .rxDone | .hostWindowWrite _ _ _ | .tokenSet _ _ | .qstepWrite _ _ => 2
  | .claim _ a => 2 + (agentCode a).toNat
  | .cmdTailDoorbell _ _ | .cplHeadDoorbell _ _ => 5000
  | .commandFetch _ => 5001
  | .inputUndervoltage _ => 6002
  | .inputOvervoltage _ => 6003
  | .overCurrent _ => 6004
  | .sensorRead _ => 6005
  | .refclkLost => 6006
  | .startupStepFailed _ => 6007
  | .throttleEvaluation => 7000
  | .powerFastPath | .pwrBrakeAssert => 7001
  | .perstNAssert x => if x.brake then 7001 else 8000
  | .ack p _ => 7950 + p.val
  | .bounce p _ => 8020 + p.val
  | .write p _ | .read p _ | .readData p _ | .status p _ | .quiet p _ | .upData p _ | .upMeta p _ | .downData p _ | .downMeta p _
  | .resendReq p _ | .redo p _ | .arriveData p _ | .arriveMeta p _ | .badPkt p _ => 8000 + p.val
  | .release _ _ => 8100
  | .nrHoldExpiry _ | .resendTimerExpiry _ _ _ => 8500
  | .nopEcho _ | .moduleInfo _ | .memCopy _ | .memFill _ | .pageMap _ | .pageUnmap _ | .pageResident _ | .windowOwn _ | .imemLoad _
  | .launch _ | .streamResume _ | .streamResumeDiscardHead _ | .streamResumeDiscardAll _ | .coreHalt _ | .collSetup _ | .exchange _
  | .scaleSet _ | .jobOpen _ | .jobClose _ | .modeSet _ | .stepCloseRequest _ | .stepCommit _ | .stepAbort _ | .stepAbortFenceClear _
  | .checkpoint _ | .restore _ | .rankRemap _ | .routeSwap _ | .replay _ | .replayDisarm _ | .marginSet _ | .linkPattern _
  | .computeReset _ | .dumpSample _ | .attest _ | .fwUpdateStage _ | .fwUpdateChunk _ | .fwUpdateVerify _ | .fwUpdateActivate _
  | .fwUpdateBurn _ | .cairnRead _ | .cairnReadStatus _ => 9000
  | .diagPatrol _ => 9001
  | .ackTimerExpiry _ _ | .quietToExpiry | .bucketTimeout _ | .commandTimeout _ _ | .teardownToExpiry => 9002
  | .orderlyPowerOff => 9003
  | _ => 8000

/-- Whether a RELEASE says rightly that its mailbox's CODE falls in the same cycle (12 R383). -/
def releaseOk (l : List Instr) (i : Instr) : Bool :=
  match i with
  | .release m r => r.met == l.any fun j => match j with
    | .code k _ _ => k == m
    | _ => false
  | _ => true

/-- Whether commands stand in the order in which those of one control cycle act (00 R9, R10, and the rules at `placeOf`). -/
def oneControlCycle (l : List Instr) : Prop := l.Pairwise (fun i j => placeOf i ≤ placeOf j) ∧ l.all (releaseOk l) = true

/-- The commands of one control cycle in the order in which they act; those of one place stay as they come. -/
def inPlace (l : List Instr) : List Instr := l.foldl (fun r i => insertDue placeOf i r) []

/-- Commands act one after the other, up to the first that stops. -/
def State.runAll (l : List Instr) (s : State) : Host.Outcome State Fault Refusal :=
  match l with
  | [] => .next s
  | c :: r =>
    match exec c s with
    | .next t => t.runAll r
    | o => o

/-- A control cycle in which nothing has happened yet. -/
def CycleMarks.none : CycleMarks := { ues := [], ready := [], arrived := [], closed := [], downs := [], off := false, records := 0 }

/-- The end of a control cycle that began with `s`: a ROUTE_SWAP whose quiet came in it swaps (10 R304), and its in-band interrupts have
gone out in ascending order (15 R451). -/
def State.endCycle (t s : State) : State := (({ t with cycle := .none } : State).checkQuiet).oneCycle s

/-- One control cycle in which these commands fall. -/
def State.controlCycle (s : State) (l : List Instr) : Host.Outcome State Fault Refusal :=
  match ({ s with cycle := some CycleMarks.none } : State).runAll (inPlace l) with
  | .next t => .next (t.endCycle s)
  | o => o

end Sys2Proof.Machine
end

