-- ==== Sys2Proof/Safety.lean ====
section
/-! DEFINITION. A safe run: every step answers a next state. And the views of a state that the claims speak of: what lasts, what only
grows, and the canonical form of the memories. -/

namespace Sys2Proof

/-- The next k steps from a state stop at no fault and at no refusal. -/
def SafeFor (k : Nat) (s : Machine.State) : Prop := ∃ t, core.run k s = .next t

end Sys2Proof

namespace Sys2Proof.Machine

/-- The fused part of a module's identity (00 R5, 01 R26). -/
def Ident.fuses (i : Ident) : BitVec 224 × BitVec 16 × Byte × BitVec 64 := (i.enabled, i.lpddrGib, i.stepping, i.serial)

/-- The stored part of Cairn: the record slots and the serial of the next record (16 R486). -/
def Cairn.store (k : Cairn) : Sparse (Option (BitVec 2048)) × BitVec 64 := (k.slots, k.next)

/-- The waiting commands, the fuses, Cairn's record store, and whether commands share a control cycle. -/
def State.lasting (s : State) :
    List Instr × (BitVec 224 × BitVec 16 × Byte × BitVec 64) × (Sparse (Option (BitVec 2048)) × BitVec 64) × Bool :=
  (s.pending, s.ident.fuses, s.cairn.store, s.cycle.isSome)

/-- Records are appended to Cairn, in order. -/
def Cairn.appends (k : Cairn) (rs : List (BitVec 2048)) : Cairn := rs.foldl Cairn.append k

/-- From one state to another the waiting commands, the fuses and the sharing of a control cycle stay, and Cairn's store has grown by n
records at most. -/
def State.grown (n : Nat) (s t : State) : Prop :=
  t.pending = s.pending ∧ t.ident.fuses = s.ident.fuses ∧ t.cycle.isSome = s.cycle.isSome ∧
  ∃ rs, rs.length ≤ n ∧ t.cairn.store = (s.cairn.appends rs).store

/-- A core's scratchpad is in canonical form. -/
def Core.canon (c : Core) : Prop := spWf 0 c.spad = true

/-- All of the module's memories are in canonical form. -/
def State.canon (s : State) : Prop := spWf Core.reset s.cores = true ∧ (∀ p, (s.core p).canon) ∧ s.mem.wf = true

/-- A core without its traffic: the posts on their way to it, and what it has for the module. -/
def Core.rest (c : Core) : Core := { c with inbound := [], ues := [], remote := [], taps := [] }

/-- Core c of the module in the cycle in which its stream k issues, its instruction line fetched (05 R136, R137, 09 R263). -/
def State.coreAtIssue (s : State) (c : CoreId) (k : StreamId) : Core :=
  let c0 := s.core c.val
  let y := c0.advanceTo (s.coreEnv c.val) (max (c0.stream k).nextIssue c0.cycle)
  let n := (y.stream k).pc.toNat / 4
  let (o, raw, _) := ((y.stream k).halfOf (y.stream k).half).line n
  y.note o raw (BitVec.ofNat 21 (32 * n)) false true false (streamNo k)

/-- Stream k of core c issues the instruction d: the cores are released, the core is enabled, the stream is Running and still is
when its cycle comes, and d is what a readable line holds at its program counter. -/
def State.issues (s : State) (c : CoreId) (k : StreamId) (d : Decoded) : Prop :=
  s.coresRun = true ∧ s.coreOn c.val = true ∧ ((s.core c.val).stream k).state = .running ∧
  ((s.coreAtIssue c k).stream k).state = .running ∧ ((s.coreAtIssue c k).stream k).peek = some d

/-- The core in the cycle of the right parity in which a VU instruction of stream k issues, its issue slot taken (04 R121, R122). -/
def State.coreAtVu (s : State) (c : CoreId) (k : StreamId) : Core :=
  let x := s.coreAtIssue c k
  let y := x.advanceTo (s.coreEnv c.val) (vuCycle k x.cycle)
  { y with lastVu := if k = .u then y.lastVu else some (k, y.cycle) }

/-- Stream k of core c issues the VU instruction d: as before, and stream F issues none in the same cycle where k is B (04 R122). -/
def State.issuesVu (s : State) (c : CoreId) (k : StreamId) (d : Decoded) : Prop :=
  s.issues c k d ∧ isVu d.2.2 = true ∧
  let x := s.coreAtIssue c k
  let y := x.advanceTo (s.coreEnv c.val) (vuCycle k x.cycle)
  (y.stream k).state = .running ∧ (k = .b → usedAt y.lastVu .f y.cycle = false ∧ y.fIssuesAt y.cycle isVu = false)

/-- From one state to another only core p has changed, beside posts that have set out for other cores and the module's records,
pending vectors and fingerprint table. -/
def State.onlyCore (s t : State) (p : Nat) : Prop :=
  t.pending = s.pending ∧ t.ident = s.ident ∧ t.mem = s.mem ∧ t.erg = s.erg ∧ t.coll = s.coll ∧ t.job = s.job ∧
  t.power = s.power ∧ t.notar = s.notar ∧ t.host = { s.host with pba := t.host.pba } ∧
  t.silent = { s.silent with table := t.silent.table, dropped := t.silent.dropped, badKind := t.silent.badKind } ∧
  t.cairn = { s.cairn with queue := t.cairn.queue, lost := t.cairn.lost } ∧
  ∀ q, q ≠ p → (t.core q).rest = (s.core q).rest

/-- From one state to another core c has become y, traffic aside, and nothing else of the module has changed. -/
def State.becomes (s t : State) (c : CoreId) (y : Core) : Prop := s.onlyCore t c.val ∧ (t.core c.val).rest = y.rest

/-- It is the turn of a source's command: c is that command as it starts, with its timeout; no packet in hand is one that checks 1 and 2
refuse, and c has had no reply (12 R363, R374, R377). -/
def State.turn (s : State) (src : CmdSrc) (c : Cmd) : Prop :=
  (∀ d ∈ s.host.cmds, d.bad = false) ∧ c.replied = false ∧
  ∃ d, s.nextCmd src = some d ∧ c = { d with started := true, limit := s.timeLimit d }

/-- From s to t command c has been answered with a status, flags and `DETAIL` and is no longer in hand; `ELAPSED` is at most its
timeout (12 R367, R381). -/
def State.answered (s t : State) (c : Cmd) (status : BitVec 16) (flags : Byte) (detail : Nat) : Prop :=
  ∃ el, el ≤ c.limit ∧
    t = ((({ s with free := s.free + 1 } : State).cmdOutcome c status).replyTo c
      (cplEntry status (BitVec.ofNat 16 c.opc) c.seq 0 flags el detail) status).dropCmd c.id

/-- A row starts the source's command c: the first check that fails is its answer and nothing else happens (12 R374); with none failing
the command has its effect. -/
def State.runs (s : State) (i : Instr) (c : Cmd) (checks : State → Cmd → List (Bool × BitVec 16)) (effect : State → State → Prop) : Prop :=
  ∃ t, exec i s = .next t ∧
    (∀ st, firstFail (checks (s.keepCmd c) c) = some st → (s.keepCmd c).answered t c st 0 0) ∧
    (firstFail (checks (s.keepCmd c) c) = none → effect (s.keepCmd c) t)

end Sys2Proof.Machine
end

