-- ==== Sys2Proof/Certificates/Slice0/Obligations.lean ====
section
/-! DEFINITION. The statements for the provers, from the rules of spec/. -/

open Sys2Proof Sys2Proof.Machine

namespace Sys2Proof.Machine

/-- The core whose streams, engines or token unit a command acts on through the core's own clock: the stream instructions and the
events of a core. -/
def coreCommand (i : Instr) : Option CoreId :=
  match i with
  | .nop c _ | .halt c _ | .event c _ | .cset c _ | .cinc c _ | .cmpset c _ | .br c _ | .brc c _ | .brn c _ | .hswitch c _
  | .twait c _ | .twaitGrant c _ | .tpost c _ | .tokenPost c _ | .qpush c _ | .lctx c _ | .matmul c _ | .p96Accumulate c
  | .wload c _ | .wloadComplete c | .wswap c _ | .drain c _ | .bankTailEnd c | .bankDrainEnd c | .bfill c _ | .bfillComplete c
  | .vfp c _ | .vint c _ | .vxl c _ | .vcvt c _ | .nopen c _ | .nacc c _ | .nsq c _ | .ndot c _ | .nread c _ | .mwadd c _
  | .mwaddn c _ | .mwrite c _ | .mread c _ | .drop c _ | .vld c _ | .vst c _ | .scratchpadWriteEffect c | .vuResultWriteback c
  | .progressWatchdogExpiry c _ | .matmulFeedEnd c => some c
  | _ => none

/-- The word at a descriptor line of the half from which the stream issues, as it is delivered (06 R168). -/
def Stream.descAt (st : Stream) (desc : BitVec 10) : RWord := ((st.halfOf st.half).line desc.toNat).2.2

/-- Core c in the cycle in which its stream k issues, its instruction and the descriptor line read (06 R168). -/
def State.coreAtDesc (s : State) (c : CoreId) (k : StreamId) (desc : BitVec 10) : Core :=
  let x := s.coreAtIssue c k
  let (o, raw, _) := ((x.stream k).halfOf (x.stream k).half).line desc.toNat
  x.note o raw (BitVec.ofNat 21 (32 * desc.toNat)) false true false (streamNo k)

/-- The tile that a MATMUL's first beat meets: the active one, or with `SWAP` the shadow (04 R97). -/
def Core.tileFor (x : Core) (m : MatmulF) : WTile := if m.swap then x.shadow else x.active

/-- The conditions of 06 R182 on a MATMUL of stream k whose A operand has a format, but for those of its operand. -/
def Core.mayFeed (x : Core) (k : StreamId) (m : MatmulF) (fmt : BitVec 4) : Prop :=
  let bank := x.bank x.filling
  x.r99 k = false ∧ x.feed = none ∧ m.row0.toNat + (m.mm1.toNat + 1) ≤ 128 ∧
  (bank.state ≠ .cleared → bank.owner = (k == .b) ∧ bank.compact = m.cmode) ∧ (m.chalf = true → m.cmode = true) ∧
  (m.swap = true → x.canSwap = true) ∧ (passParts m.passes.toNat fmt.toNat (x.tileFor m).fmt.toNat).isSome = true

/-- Core y is x with the feed f of a MATMUL begun in the current cycle: the filling bank open, the swap made, the stream gone on. -/
def Core.feeds (x y : Core) (k : StreamId) (g : BitVec 12) (m : MatmulF) (fmt : BitVec 4) (coarse : Byte) (f : Feed) : Prop :=
  let bank := x.bank x.filling
  f.start = x.cycle ∧ f.beat = 0 ∧ f.bank = x.filling ∧ f.m = m.mm1.toNat + 1 ∧ f.row0 = m.row0.toNat ∧ f.fmt = fmt ∧
  f.ca = coarse ∧ f.cb = (x.tileFor m).coarse ∧
  passParts m.passes.toNat fmt.toNat (x.tileFor m).fmt.toNat = some (f.parts, f.beats) ∧
  ∃ b0 b1,
    y = ({ x with
            feed := some f, lastArray := some (k, x.cycle), bank0 := b0, bank1 := b1, active := x.tileFor m,
            shadow := if m.swap then { x.active with planes := 0 } else x.shadow } : Core).goOn k g 1 ∧
    (if x.filling then b0 else b1) = x.bank (!x.filling) ∧
    (bank.state ≠ .cleared → (if x.filling then b1 else b0) = bank) ∧
    (bank.state = .cleared → ∃ e, (if x.filling then b1 else b0) =
      { Bank.reset with state := .filling, compact := m.cmode, owner := k == .b, tbase := e } ∧
      (m.cmode = false → m.tbSel = true → e = m.tbase) ∧
      (m.cmode = false → m.tbSel = false → e = BitVec.ofInt 10 (coarse.toInt + (x.tileFor m).coarse.toInt - 32)))

/-- Whether an FP32 word is a NaN, and whether it is finite (02 R36, IEEE 754 binary32). -/
def fpNan (w : BitVec 32) : Prop := w.extractLsb' 23 8 = 255 ∧ w.extractLsb' 0 23 ≠ 0

@[inherit_doc fpNan] def fpFinite (w : BitVec 32) : Prop := w.extractLsb' 23 8 ≠ 255

/-- The value of a finite FP32 word in units of 2^−149, its smallest subnormal (02 R36). -/
def fpUnits (w : BitVec 32) : Int :=
  let e := (w.extractLsb' 23 8).toNat
  let f := (w.extractLsb' 0 23).toNat
  (if w.msb then -1 else 1) * ((if e = 0 then f else f + 2 ^ 23) * 2 ^ (max e 1 - 1) : Nat)

/-- The place of an FP32 word that is no NaN in the order of values, the infinities included; −0 and +0 share one (IEEE 754). -/
def fpOrder (w : BitVec 32) : Int := if w.msb then -(w.extractLsb' 0 31).toNat else (w.extractLsb' 0 31).toNat

/-- Vector v reaches the host as it is raised: it is not masked and Bus Master is on (12 R371; log 120). -/
def State.signals (s : State) (v : Nat) : Bool := !(spGet MsixEntry.reset s.host.msix v).masked && s.power.busMaster

/-- From s to t vector v is raised beside the outputs o: sent before them where it reaches the host, else pending (12 R371). -/
def State.raised (s t : State) (v : Nat) (o : List Out) : Prop :=
  (s.signals v = true → t.out = s.out ++ .msix v :: o ∧ t.host.pba = s.host.pba) ∧
  (s.signals v = false → t.out = s.out ++ o ∧ t.host.pba = s.host.pba ||| BitVec.ofNat 64 (2 ^ v))

/-- A command on which no work has been done yet: it waits for nothing, has read nothing and failed in nothing. -/
def Cmd.unused (c : Cmd) : Prop :=
  c.phase = 0 ∧ c.waits = [] ∧ c.got = [] ∧ c.failed = 0 ∧ c.accA = 0 ∧ c.accB = 0 ∧ c.flags = 0 ∧ c.progress = 0

/-- A job is open and does not close: data-path packets of this module to itself are taken (10 R300, R314, 13 R415). -/
def State.jobStands (s : State) : Prop := s.ident.coordLock = true ∧ s.ident.jobOpen = true ∧ s.job.closingDown = false

/-- Data whose code word is read back clean (09 R263). -/
def cleanData (d : Data) : Prop := decodeWord (encodeWord d) = (.clean, encodeWord d, { data := d, poison := false })

/-- The region and offset of a physical address name a word of the DRAM, and no owner refuses the access (01 R20, 12 R385). -/
def State.dramCell (s : State) (a : BitVec 64) (write : Bool) : Prop :=
  adr a 60 4 = 0 ∧ adr a 44 4 < 5 ∧ adr a 0 5 = 0 ∧ adr a 0 44 + 32 ≤ s.regionSize (adr a 44 4) ∧
  s.ownerRefuses (adr a 44 4) (adr a 0 44) write = none

/-- An address names a word of this module's DRAM by its physical address, and no owner refuses the access (01 R19, R20). -/
def State.dramWord (s : State) (a : BitVec 64) (write : Bool) : Prop := s.dramCell a write ∧ adr a 48 12 = s.ident.id.toNat

/-- The stored code word of a physical address. -/
def State.rawAt (s : State) (a : BitVec 64) : CodeWord := s.mem.raw (adr a 44 4) (adr a 0 44)

/-- A word of this module's DRAM that is read as d. -/
def State.holds (s : State) (a : BitVec 64) (d : Data) : Prop := s.dramWord a false ∧ s.rawAt a = encodeWord d ∧ cleanData d

/-- From s to t the DRAM word at an address takes a code word, and every other DRAM word stays. -/
def State.stores (s t : State) (a : BitVec 64) (w : CodeWord) : Prop :=
  t.rawAt a = w ∧
  ∀ r o, r < 5 → dramKey r o ≠ dramKey (adr a 44 4) (adr a 0 44) ∨ ¬(r < 4 ↔ adr a 44 4 < 4) → t.mem.raw r o = s.mem.raw r o

/-- The stored code word of a region's word: of the DRAM, or of a scratchpad (01 R20). -/
def State.wordAt (s : State) (region off : Nat) : CodeWord :=
  if region < 5 then s.mem.raw region off
  else match s.physOf (off / 2 ^ 21) with
    | some p => spGet 0 (s.core p).spad (off % 2 ^ 21 / 32)
    | none => 0

/-- A request of n words reaches words of this module's DRAM or scratchpads that no owner keeps from it (10 R294, R298, R311, 12 R385). -/
def State.reaches (s : State) (h : ErgHdr) (n region off : Nat) (write : Bool) : Prop :=
  let a := BitVec.ofNat 64 ((if h.space then 2 ^ 60 else 0) + h.addr.toNat)
  (h.space = true → h.rank = s.job.rank) ∧ s.translate a = .ok (region, off) ∧ (region < 5 ∨ region = 8) ∧ adr a 0 5 = 0 ∧
  adr a 0 10 + 32 * n ≤ 1024 ∧ off + 32 * n ≤ s.regionSize region ∧ (region < 5 → s.ownerRefuses region off write = none)

/-- Port p has nothing waiting, and its receiver takes n code words of responses (10 R288, R289). -/
def State.sendsAt (s : State) (p : Fin 16) (n : Nat) : Prop := (s.port p).queued = 0 ∧ n ≤ (s.port p).credits[(1 : Fin 4)]

/-- A packet that reaches port p is taken: the port receives, and nothing drops the packet (10 R287, R292, R314). -/
def State.takes (s : State) (p : Fin 16) (pkt : ErgPacket) : Prop :=
  s.receives p = true ∧ s.ident.coordLock = true ∧ s.dropCounter pkt = none

/-- A packet's payload is read clean as these words (09 R263, 10 R296). -/
def packetCarries (pkt : ErgPacket) (ws : List Data) : Prop :=
  pkt.payload = ws.map encodeWord ∧ pkt.hdr.len.toNat = ws.length ∧ pkt.hdr.psn = 0 ∧ ∀ w ∈ ws, cleanData w

/-- A collective packet is taken, is the next of its stream, and reaches the admitted instance i of the collective e; ws: its payload
(10 R306, 11 R354). -/
def State.takesColl (s : State) (p : Fin 16) (pkt : ErgPacket) (e : CollEntry) (i : Inst) (ws : List Data) : Prop :=
  let a := pkt.hdr.addr.toNat
  s.takes p pkt ∧ packetCarries pkt ws ∧ pkt.hdr.seq = (s.erg.rxOf pkt.hdr.src (pkt.hdr.addr.extractLsb' 32 16)).x ∧
  (s.erg.rxOf pkt.hdr.src (pkt.hdr.addr.extractLsb' 32 16)).received = [] ∧
  s.collEntry i.id.cid = some e ∧ s.instOf i.id = some i ∧ collShape e pkt.hdr = true ∧ i.id.cid.toNat = bitsOf a 32 16 ∧ i.id.bucket.toNat = bitsOf a 16 16 ∧
  i.id.bucket.toNat < e.nbkt.toNat ∧ s.job.fence = false ∧ s.stepOfBits (bitsOf a 0 8) = some i.id.step ∧
  pkt.hdr.epoch = s.job.epochFor i.id.step

end Sys2Proof.Machine

/-- Step runs the command in front (log 41 names the queue as the model's own): the command at the front of the queue acts on the
module with the queue's rest. -/
def Obligations.StepRunsFrontCommand : Prop :=
  ∀ (c : Instr) (r : List Instr) (s : State), s.pending = c :: r → step s = exec c { s with pending := r }

/-- Reset values of identity, state, cores, queues, the scrubber, the router's and the engine's timers, the ownership margin, the teardown
timeout, the power limits and the output pins, as the Reset columns of the registers give them (01 R26, 05 R162, 09 R275, 10 R316,
11 R355, 12 R365, R389, 13 R423, 15 R453, R470).

The memories are in canonical form after reset.

The PCIe endpoint and the stage at reset are not in it (log 7). -/
def Obligations.ResetValues : Prop :=
  (State.reset.pending = [] ∧ State.reset.cores = [] ∧ State.reset.mem.bonded = [] ∧ State.reset.mem.lpddr = [] ∧
  State.reset.ident.state = 0x1 ∧ State.reset.ident.jobOpen = false ∧ State.reset.ident.generation = 0 ∧
  (∀ q, (State.reset.queue q).enable = false ∧ (State.reset.queue q).state = .disabled ∧ (State.reset.queue q).cmdHead = 0 ∧ (State.reset.queue q).cmdTail = 0) ∧
  (∀ p, (State.reset.core p).tokens = Vector.replicate 32 0 ∧ (State.reset.core p).filling = false ∧
    ∀ k, ((State.reset.core p).stream k).state = .idle ∧ ((State.reset.core p).stream k).wdogLimit = 0x0A0000) ∧
  (State.reset.mem.bdPeriod = 60 ∧ State.reset.mem.lpPeriod = 60 ∧ State.reset.mem.fillDone = false) ∧
  (State.reset.erg.portEn = 0 ∧ State.reset.erg.resendMax = 8 ∧ State.reset.erg.nrHold = 20 ∧ State.reset.erg.quietTo = 10) ∧
  (State.reset.coll.bktTo = 0xF4240 ∧ State.reset.host.margin = 0x20 ∧ State.reset.host.floor_ = 100) ∧
  (State.reset.job.teardownTo = 100 ∧ State.reset.power.hostLimit = 2200 ∧ State.reset.power.rmcLimit = 2200) ∧
  (State.reset.power.thermTripN = true ∧ State.reset.power.pwrGood = false)) ∧
  (State.reset.canon)

/-- The enabled cores, the LPDDR6 capacity, the stepping and the serial number are fused: no step changes them (00 R5).

The model's own queue and control cycle (logs 41, 82) follow their choice as well: a step takes the front command off the queue and changes
nothing else of it, and neither begins nor ends a control cycle that commands share. -/
def Obligations.FusesLastAndQueueAdvances : Prop :=
  ∀ s t : State, step s = .next t →
    t.ident.fuses = s.ident.fuses ∧ t.pending = s.pending.tail ∧ t.cycle.isSome = s.cycle.isSome

/-- Cairn's slots are written in one way only: by adding records, each of which takes the next serial and the slot of that serial, which in
the full ring is that of the oldest record (16 R486). A step adds at most 17, and only one whose command is CAIRN_RECORD_WRITE,
SEAL_SIGNED or AUX_LOST adds any; a step on an empty queue adds none. -/
def Obligations.CairnOnlyAppends : Prop :=
  ∀ s t : State, step s = .next t →
    (∃ rs, rs.length ≤ 17 ∧ t.cairn.store = (s.cairn.appends rs).store) ∧
    (∀ c r, s.pending = c :: r → c ≠ .cairnRecordWrite → c ≠ .sealSigned → c ≠ .auxLost → t.cairn.store = s.cairn.store) ∧
    (s.pending = [] → t.cairn.store = s.cairn.store)

/-- Every step keeps the memories in canonical form: the table of cores, every core's scratchpad, the DRAM stores. -/
def Obligations.StepKeepsMemoriesCanonical : Prop := ∀ s t : State, s.canon → step s = .next t → t.canon

/-- A command of a core's streams, engines and token unit changes that core, and of the rest of the module only this: the posts on
their way to other cores; the fingerprint table with its counters FP_DROPPED and FP_BADKIND (14 R426, R428); what an uncorrectable word
of the core reports, which is a record in Cairn's queue or its count of lost ones, a pending or a sent MSI-X vector; the model's count of
free values drawn and its notes of the control cycle (log 82). No memory outside the core, no table, no link, no job or power register
changes. While the cores are held or the core is fused off nothing changes (01 R25, R26, 05 R134). -/
def Obligations.CoreCommandsStayInTheirCore : Prop :=
  ∀ (i : Instr) (c : CoreId) (s : State), coreCommand i = some c → s.canon →
    ∃ t, exec i s = .next t ∧ s.onlyCore t c.val ∧ ((s.coresRun && s.coreOn c.val) = false → t = s)

/-- A stream whose instruction line holds poison halts with cause 0x0A at the line's first word; one whose instruction is no legal
encoding halts with cause 0x02 where it stands (05 R144, R157, 06 R165). Neither has any other effect. -/
def Obligations.UnreadableOrIllegalInstructionHalts : Prop :=
  ∀ (s : State) (c : CoreId) (k : StreamId) (want : Insn → Bool) (body : CoreEnv → Core → StreamId → Decoded → Core),
    let x := s.coreAtIssue c k
    let st := x.stream k
    s.canon → (∀ e x k d, x.canon → (body e x k d).canon) → s.coresRun = true → s.coreOn c.val = true →
    ((s.core c.val).stream k).state = .running → st.state = .running →
    (((st.halfOf st.half).line (st.pc.toNat / 4)).2.2.poison = true →
      s.becomes (s.issue c k want body) c (x.halt k 0x0A (BitVec.ofNat 12 (4 * (st.pc.toNat / 4))))) ∧
    (((st.halfOf st.half).line (st.pc.toNat / 4)).2.2.poison = false → st.peek = none →
      s.becomes (s.issue c k want body) c (x.halt k 0x02 st.pc))

/-- NOP has no effect; the next instruction issues `GAP` + 1 cycles later, behind the NOP, and past word 4,095 the stream halts with
cause 0x08 (05 R136, R143, 06 R175). HALT halts the stream with cause 0x01 at the HALT (05 R157, 06 R175).

CSET writes a counter, CINC adds to it modulo 2²⁴, CMPSET sets a comparator, LCTX sets the logical context; nothing else of the
stream changes but its program counter and issue cycle (05 R145, R146, 06 R172, R175).

HSWITCH enters the other half at its target where that half is Loaded with the expected tag; it halts the stream with cause 0x06
where the half is Empty or Loading, and with cause 0x07 where it carries another tag (05 R142, R157). -/
def Obligations.PlainInstructionsHaveTheirEffect : Prop :=
  (∀ (s : State) (c : CoreId) (k : StreamId) (d : Decoded), s.canon → s.issues c k d →
    let x := s.coreAtIssue c k
    let st := x.stream k
    (d.2.2 = .nop → ∃ t, exec (.nop c k) s = .next t ∧
      (st.pc.toNat + d.2.1 ≤ 4095 → s.becomes t c
        (x.setStream k { st with pc := st.pc + BitVec.ofNat 12 d.2.1, nextIssue := x.cycle + 1 + d.1.toNat })) ∧
      (4095 < st.pc.toNat + d.2.1 → ((t.core c.val).stream k).state = .halted ∧ ((t.core c.val).stream k).haltCause = 0x08 ∧
        ((t.core c.val).stream k).pc = 4095)) ∧
    (d.2.2 = .halt → ∃ t, exec (.halt c k) s = .next t ∧
      s.becomes t c (x.setStream k { st with state := .halted, haltCause := 0x01 }))) ∧
  (∀ (s : State) (c : CoreId) (k : StreamId) (d : Decoded), s.canon → s.issues c k d →
    let x := s.coreAtIssue c k
    let goesOn := fun (st : Stream) => (x.setStream k st).goOn k d.1 d.2.1
    let st := x.stream k
    (∀ n v, d.2.2 = .cset n v → ∃ t, exec (.cset c k) s = .next t ∧
      s.becomes t c (goesOn { st with counters := st.counters.set n.toFin v })) ∧
    (∀ n v, d.2.2 = .cinc n v → ∃ t, exec (.cinc c k) s = .next t ∧
      s.becomes t c (goesOn { st with counters := st.counters.set n.toFin (st.counters[n.toFin] + v) })) ∧
    (∀ n ctr mode limit, d.2.2 = .cmpset n ctr mode limit → ∃ t, exec (.cmpset c k) s = .next t ∧
      s.becomes t c (goesOn { st with cmps := st.cmps.set n.toFin { limit := limit, counter := ctr, mode := mode } })) ∧
    (∀ y, d.2.2 = .lctx y → ∃ t, exec (.lctx c k) s = .next t ∧ s.becomes t c (goesOn { st with ctx := y }))) ∧
  (∀ (s : State) (c : CoreId) (k : StreamId) (d : Decoded) (target : BitVec 12) (tag : BitVec 16),
    s.canon → s.issues c k d → d.2.2 = .hswitch target tag →
    let x := s.coreAtIssue c k
    let st := x.stream k
    let h := st.halfOf !st.half
    ∃ t, exec (.hswitch c k) s = .next t ∧
      (h.state = .loaded ∧ h.tag = tag →
        s.becomes t c (x.setStream k { st with half := !st.half, pc := target, nextIssue := x.cycle + 1 + d.1.toNat })) ∧
      (h.state ≠ .loaded → s.becomes t c (x.setStream k { st with state := .halted, haltCause := 0x06 })) ∧
      (h.state = .loaded ∧ h.tag ≠ tag →
        s.becomes t c (x.setStream k { st with state := .halted, haltCause := 0x07 })))

/-- EVENT appends its code, with the LAUNCH it belongs to, to the stream's event queue of 16 and does not stop the stream; at a full queue the code is dropped and
counted in `LOST`, which saturates at 255 (05 R160, R162).

EVENT_COMPLETION_POST: the oldest entry of the event queue is posted, as a completion of type 1 with the stream and the code, to
the ring of the queue that issued the LAUNCH (05 R160, 12 R367, R368). -/
def Obligations.EventsAreQueuedAndPosted : Prop :=
  (∀ (s : State) (c : CoreId) (k : StreamId) (d : Decoded) (code : BitVec 16), s.canon → s.issues c k d → d.2.2 = .event code →
    let x := s.coreAtIssue c k
    let st := x.stream k
    ∃ t u, exec (.event c k) s = .next t ∧ s.becomes t c ((x.setStream k u).goOn k d.1 d.2.1) ∧ u.lastCode = code ∧
      u.state = st.state ∧ u.counters = st.counters ∧ u.cmps = st.cmps ∧ u.flags = st.flags ∧ u.pc = st.pc ∧
      (st.events.length < 16 → u.events = st.events ++ [(code, st.launch)] ∧ u.lost = st.lost) ∧
      (16 ≤ st.events.length → u.events = st.events ∧ u.lost.toNat = min 255 (st.lost.toNat + 1))) ∧
  (∀ (s : State) (c : CoreId) (k : StreamId) (code : BitVec 16) (from_ : Option Nat) (r : List (BitVec 16 × Option Nat)) (l : LaunchRec),
    let st := (s.core c.val).stream k
    s.canon → st.events = (code, from_) :: r → s.launchOf from_ = some l →
    ∃ t u, exec (.eventCompletionPost c k) s = .next t ∧ s.onlyCore u c.val ∧
      u.core c.val = (s.core c.val).setStream k { st with events := r } ∧
      t = u.postEntry l.queue (cplEntry stOk 0x0201 l.seq 1 0 0 (s.logOf c.val + 2 ^ 8 * streamNo k + 2 ^ 16 * code.toNat)) true)

/-- BR goes to its target; BRC where the comparator is true, BRN where it is false; a branch not taken goes on behind itself. The
next instruction issues `GAP` + 1 cycles later either way (05 R138, R146). -/
def Obligations.BranchesGoToTheirTarget : Prop :=
  ∀ (s : State) (c : CoreId) (k : StreamId) (d : Decoded), s.canon → s.issues c k d →
    let x := s.coreAtIssue c k
    let st := x.stream k
    let goesTo := fun (w : BitVec 12) => x.setStream k { st with pc := w, nextIssue := x.cycle + 1 + d.1.toNat }
    let holds := fun (n : BitVec 2) =>
      let m := st.cmps[n.toFin]
      let v := st.counters[m.counter.toFin]
      if m.mode = 0 then v = m.limit else if m.mode = 1 then v ≠ m.limit else if m.mode = 2 then v < m.limit else m.limit ≤ v
    (∀ w, d.2.2 = .br w → ∃ t, exec (.br c k) s = .next t ∧ s.becomes t c (goesTo w)) ∧
    (∀ w n, d.2.2 = .brc w n → ∃ t, exec (.brc c k) s = .next t ∧
      (holds n → s.becomes t c (goesTo w)) ∧ (¬holds n → s.becomes t c (x.goOn k d.1 d.2.1))) ∧
    (∀ w n, d.2.2 = .brn w n → ∃ t, exec (.brn c k) s = .next t ∧
      (¬holds n → s.becomes t c (goesTo w)) ∧ (holds n → s.becomes t c (x.goOn k d.1 d.2.1)))

/-- What the vector unit's lane functions give (04 R123, 06 R197, R198; values in units of 2^−149, so that nothing is rounded here). ADD, SUB,
MUL and FMA: a NaN operand, infinities of opposite sign added, or infinity times zero give 0x7FC0_0000; an infinity beside a finite
addend, or times a nonzero factor, is kept or takes the product's sign; a nonzero exact result that an FP32 word has is that word,
subnormals included; an exact sum of zero is +0, or −0 of two −0; and where the exact result has no word, a tie goes to the even word and
a sum beyond the largest word is the infinity (worked values). MIN and MAX return the other operand for one NaN, the canonical NaN for two,
and −0 is below +0; ABS and NEG touch the sign bit alone; compares go by value, all but CMPNE false for a NaN. RCP, RSQRT
and LOG2 of a zero, RSQRT and LOG2 of a nonzero negative number, and all four functions of an infinity or a NaN give what IEEE 754
gives, every NaN the canonical one (DEDUCED, log 122). VINT adds, subtracts, shifts and combines
elements of 32 or 64 bits, MIN and MAX signed, SAR with the sign; SEL takes each lane from `VA` or `VB` by its mask bit, IOTA counts, and
XADD128 and XSHL128 work modulo 2^128. -/
def Obligations.VuLanesGiveTheirValues : Prop :=
  (∀ (x y z : BitVec 32),
    let plus := fun (op : BitVec 32 → BitVec 32 → BitVec 32) (y' : BitVec 32) =>
      (fpNan x ∨ fpNan y → op x y = 0x7FC00000) ∧
      (x.extractLsb' 0 31 = 0x7F800000 → y'.extractLsb' 0 31 = 0x7F800000 → x.msb ≠ y'.msb → op x y = 0x7FC00000) ∧
      (x.extractLsb' 0 31 = 0x7F800000 → fpFinite y ∨ y' = x → op x y = x) ∧
      (fpFinite x → y'.extractLsb' 0 31 = 0x7F800000 → op x y = y') ∧
      (fpFinite x → fpFinite y →
        (∀ w, fpFinite w → fpUnits w ≠ 0 → fpUnits x + fpUnits y' = fpUnits w → op x y = w) ∧
        (fpUnits x + fpUnits y' = 0 → op x y = if x.msb ∧ y'.msb then 0x80000000 else 0))
    plus (vfpLane 0 · · z) y ∧ plus (vfpLane 1 · · z) (y ^^^ 0x80000000) ∧
    (fpNan x ∨ fpNan y → vfpLane 2 x y z = 0x7FC00000) ∧
    (x.extractLsb' 0 31 = 0x7F800000 → y.extractLsb' 0 31 = 0 → vfpLane 2 x y z = 0x7FC00000 ∧ vfpLane 2 y x z = 0x7FC00000) ∧
    (x.extractLsb' 0 31 = 0x7F800000 → ¬fpNan y → y.extractLsb' 0 31 ≠ 0 →
      vfpLane 2 x y z = 0x7F800000 ||| ((x ^^^ y) &&& 0x80000000) ∧ vfpLane 2 y x z = 0x7F800000 ||| ((x ^^^ y) &&& 0x80000000)) ∧
    (fpFinite x → fpFinite y →
      (∀ w, fpFinite w → fpUnits w ≠ 0 → fpUnits x * fpUnits y = fpUnits w * 2 ^ 149 → vfpLane 2 x y z = w) ∧
      (fpUnits x * fpUnits y = 0 → vfpLane 2 x y z = (x ^^^ y) &&& 0x80000000)) ∧
    (fpNan x ∨ fpNan y ∨ fpNan z → vfpLane 3 x y z = 0x7FC00000) ∧
    (fpFinite x → fpFinite y → fpFinite z →
      ∀ w, fpFinite w → fpUnits w ≠ 0 → fpUnits x * fpUnits y + fpUnits z * 2 ^ 149 = fpUnits w * 2 ^ 149 → vfpLane 3 x y z = w) ∧
    (x.extractLsb' 0 31 = 0x7F800000 → y.extractLsb' 0 31 = 0 → vfpLane 3 x y z = 0x7FC00000 ∧ vfpLane 3 y x z = 0x7FC00000) ∧
    (x.extractLsb' 0 31 = 0x7F800000 → ¬fpNan y → y.extractLsb' 0 31 ≠ 0 →
      let p := 0x7F800000 ||| ((x ^^^ y) &&& 0x80000000)
      (fpFinite z ∨ z = p → vfpLane 3 x y z = p ∧ vfpLane 3 y x z = p) ∧
      (z = p ^^^ 0x80000000 → vfpLane 3 x y z = 0x7FC00000 ∧ vfpLane 3 y x z = 0x7FC00000)) ∧
    (fpFinite x → fpFinite y → z.extractLsb' 0 31 = 0x7F800000 → vfpLane 3 x y z = z) ∧
    (fpFinite x → fpFinite y → fpFinite z → fpUnits x * fpUnits y + fpUnits z * 2 ^ 149 = 0 →
      vfpLane 3 x y z = if x.msb ≠ y.msb ∧ z.msb then 0x80000000 else 0) ∧
    (let below := fpOrder x < fpOrder y ∨ (fpOrder x = fpOrder y ∧ x.msb = true)
     (¬fpNan x → ¬fpNan y → vfpLane 4 x y z = (if below then x else y) ∧ vfpLane 5 x y z = (if below then y else x)) ∧
     (fpNan x → ¬fpNan y → ∀ fn ∈ [4, 5], vfpLane fn x y z = y ∧ vfpLane fn y x z = y) ∧
     (fpNan x → fpNan y → ∀ fn ∈ [4, 5], vfpLane fn x y z = 0x7FC00000)) ∧
    vfpLane 6 x y z = BitVec.ofNat 32 (x.extractLsb' 0 31).toNat ∧
    (vfpLane 7 x y z).msb = (!x.msb) ∧ (vfpLane 7 x y z).extractLsb' 0 31 = x.extractLsb' 0 31 ∧
    (fpNan x ∨ fpNan y → ∀ fn ∈ [8, 9, 10, 11], cmp32 fn x y = (fn == 9)) ∧
    (¬fpNan x → ¬fpNan y → cmp32 8 x y = decide (fpOrder x = fpOrder y) ∧ cmp32 9 x y = decide (fpOrder x ≠ fpOrder y) ∧
      cmp32 10 x y = decide (fpOrder x < fpOrder y) ∧ cmp32 11 x y = decide (fpOrder x ≤ fpOrder y)) ∧
    (∀ fn ∈ [16, 17, 18, 19], fpNan x → vfpLane fn x y z = 0x7FC00000) ∧
    (x.extractLsb' 0 31 = 0 → (∀ fn ∈ [16, 17], vfpLane fn x y z = x ||| 0x7F800000) ∧ vfpLane 19 x y z = 0xFF800000) ∧
    (x = 0x7F800000 → vfpLane 16 x y z = 0 ∧ vfpLane 17 x y z = 0 ∧ vfpLane 18 x y z = x ∧ vfpLane 19 x y z = x) ∧
    (x = 0xFF800000 → vfpLane 16 x y z = 0x80000000 ∧ vfpLane 18 x y z = 0) ∧
    (¬fpNan x → fpOrder x < 0 → ∀ fn ∈ [17, 19], vfpLane fn x y z = 0x7FC00000)) ∧
  (∀ z : BitVec 32, vfpLane 0 0x3F800000 0x33800000 z = 0x3F800000 ∧ vfpLane 0 0x3F800001 0x33800000 z = 0x3F800002 ∧
    vfpLane 0 0x3F800000 0x33800001 z = 0x3F800001 ∧ vfpLane 0 0x7F7FFFFF 0x7F7FFFFF z = 0x7F800000 ∧
    vfpLane 2 0x00000001 0x3F000000 z = 0 ∧ vfpLane 2 0x00000003 0x3F000000 z = 2) ∧
  (∀ (imm : BitVec 13) (sel : BitVec 64) (a b : VReg),
    let r := fun fn => (vintResult fn imm sel a b).1
    (∀ w, w = (if imm.getLsbD 12 then 64 else 32) → ∀ i, i < 2048 / w →
      let u := a.data.extractLsb' (w * i) w
      let v := b.data.extractLsb' (w * i) w
      let n := if imm.getLsbD 7 then imm.toNat % 128 else v.toNat % 64
      (r 0).extractLsb' (w * i) w = u + v ∧ (r 1).extractLsb' (w * i) w = u - v ∧ (r 2).extractLsb' (w * i) w = u &&& v ∧
      (r 3).extractLsb' (w * i) w = u ||| v ∧ (r 4).extractLsb' (w * i) w = u ^^^ v ∧ (r 5).extractLsb' (w * i) w = u <<< n ∧
      (r 6).extractLsb' (w * i) w = u >>> n ∧ (r 7).extractLsb' (w * i) w = u.sshiftRight n ∧
      (r 8).extractLsb' (w * i) w = (if u.sle v then u else v) ∧ (r 9).extractLsb' (w * i) w = (if u.sle v then v else u)) ∧
    (∀ i, i < 64 → lane (r 10) i = (if sel.getLsbD i then lane a.data i else lane b.data i) ∧
      lane (r 11) i = lane a.data 0 + BitVec.ofInt 32 (i * (imm.extractLsb' 0 12).toInt)) ∧
    (∀ i, i < 16 → (r 12).extractLsb' (128 * i) 128 = a.data.extractLsb' (128 * i) 128 + b.data.extractLsb' (128 * i) 128 ∧
      (r 13).extractLsb' (128 * i) 128 = a.data.extractLsb' (128 * i) 128 <<< (imm.toNat % 128)))

/-- The token unit in a cycle in which no waiting stream finds its tokens: every post visible in the cycle adds its count to its counter; a
counter above 255 is set to 255, sets `TOVF`, and halts every running or waiting stream with cause 0x04 (05 R147, R149).

That count and overflow are judged in the cycle in which a post is visible is log 96, that the lowest of several counters above 255 is the
one recorded log 94, and that a waiting stream's program counter stays at its TWAIT log 95. -/
def Obligations.VisiblePostsAddToTheirCounter : Prop :=
  ∀ (x : Core) (now : Nat) (vis : List TokenPost),
    let n := fun (i : Fin 32) => (x.tokens[i]).toNat + ((vis.filter fun p => p.token.toFin == i).map fun p => p.count.toNat).sum
    let y := x.tokenCycle now vis
    (∀ k, (x.stream k).state = .waiting → n (x.stream k).waitToken.toFin < (x.stream k).waitCount.toNat) →
    (∀ i : Fin 32, y.tokens[i].toNat = min 255 (n i)) ∧
    ((∀ i : Fin 32, n i ≤ 255) → y = { x with tokens := y.tokens }) ∧
    ∀ i : Fin 32, 255 < n i → (∀ j : Fin 32, j < i → n j ≤ 255) →
      y.tovf = true ∧ y.ovfIndex = (if x.tovf then x.ovfIndex else BitVec.ofNat 5 i.val) ∧
      ∀ k, ((x.stream k).state = .running ∨ (x.stream k).state = .waiting →
          (y.stream k).state = .halted ∧ (y.stream k).haltCause = 0x04 ∧ (y.stream k).pc = (x.stream k).pc) ∧
        ((x.stream k).state = .idle ∨ (x.stream k).state = .halted → y.stream k = x.stream k)

/-- TWAIT tests in its issue cycle, the posts visible in it included: with enough visible tokens it takes them and the stream goes on in
the first even cycle at least `GAP` + 1 later; otherwise the stream waits at the TWAIT and no token is taken (05 R148, R150); with a
counter above 255 even then nothing is settled before the cycle's end, which judges the overflow (R149). TWAIT_GRANT is a later test of
a waiting stream. Both as far as no other stream waits.

PROGRESS_WATCHDOG_EXPIRY: the stream that still waits when its limit is reached halts with cause 0x05 at the TWAIT, its token
counter unchanged, and a grant in that cycle comes first; a limit of 0 disables the watchdog, and so does a Paged channel of the core
(05 R151, R159, 08 R253). -/
def Obligations.WaitsTakeTokensOrExpire : Prop :=
  (∀ (s : State) (c : CoreId) (k : StreamId), s.canon →
    (∀ (d : Decoded) (tok : BitVec 5) (n : BitVec 8), s.issues c k d → d.2.2 = .twait tok n →
      let x := s.coreAtIssue c k
      let st := x.stream k
      let cnt := x.countsWith (x.visiblePosts x.cycle)
      let left := if n.toNat ≤ cnt[tok.toFin] then cnt.set tok.toFin (cnt[tok.toFin] - n.toNat) else cnt
      (∀ j, j ≠ k → (x.stream j).state ≠ .waiting) → st.pc.toNat + 1 ≤ 4095 →
      ∃ t, exec (.twait c k) s = .next t ∧ s.onlyCore t c.val ∧
        ((∀ i : Fin 32, left[i] ≤ 255) → (∀ i : Fin 32, (t.core c.val).tokens[i].toNat = left[i]) ∧
          (n.toNat ≤ cnt[tok.toFin] → ((t.core c.val).stream k).state = .running ∧
            ((t.core c.val).stream k).pc = st.pc + 1 ∧ ((t.core c.val).stream k).nextIssue = evenUp (x.cycle + 1 + d.1.toNat)) ∧
          (cnt[tok.toFin] < n.toNat → ((t.core c.val).stream k).state = .waiting ∧
            ((t.core c.val).stream k).waitToken = tok ∧ ((t.core c.val).stream k).waitCount = n ∧
            ((t.core c.val).stream k).pc = st.pc)) ∧
        ((∃ i : Fin 32, 255 < left[i]) → s.becomes t c (x.setStream k
          { st with state := .waiting, waitToken := tok, waitCount := n, waitGap := d.1, waitFrom := x.cycle, wdogCount := 0 }))) ∧
    (let x := s.core c.val
     let st := x.stream k
     let cnt := x.countsWith (x.visiblePosts x.cycle)
     let left := cnt.set st.waitToken.toFin (cnt[st.waitToken.toFin] - st.waitCount.toNat)
     s.coresRun = true → s.coreOn c.val = true → st.state = .waiting → (∀ j, j ≠ k → (x.stream j).state ≠ .waiting) →
     st.pc.toNat + 1 ≤ 4095 →
     ∃ t, exec (.twaitGrant c k) s = .next t ∧ s.onlyCore t c.val ∧
      (st.waitCount.toNat ≤ cnt[st.waitToken.toFin] → (∀ i : Fin 32, left[i] ≤ 255) →
        (∀ i : Fin 32, (t.core c.val).tokens[i].toNat = left[i]) ∧ ((t.core c.val).stream k).state = .running ∧ ((t.core c.val).stream k).pc = st.pc + 1 ∧
        ((t.core c.val).stream k).nextIssue = evenUp (x.cycle + 1 + st.waitGap.toNat)) ∧
      (x.tokens[st.waitToken.toFin].toNat < st.waitCount.toNat → x.posts = [] → (t.core c.val).rest = x.rest))) ∧
  (∀ (s : State) (c : CoreId) (k : StreamId),
    let x := s.core c.val
    let st := x.stream k
    let y := x.advanceTo (s.coreEnv c.val) (st.waitFrom + 1024 * st.wdogLimit.toNat)
    let cnt := y.countsWith (y.visiblePosts y.cycle)
    s.canon → s.coresRun = true → s.coreOn c.val = true → st.state = .waiting →
    ∃ t, exec (.progressWatchdogExpiry c k) s = .next t ∧
      (st.wdogLimit = 0 ∨ x.anyPaged = true → (t.core c.val).rest = x.rest) ∧
      (st.wdogLimit ≠ 0 → x.anyPaged = false → (y.stream k).state = .waiting →
        (∀ j, (y.stream j).state = .waiting → cnt[(y.stream j).waitToken.toFin] < (y.stream j).waitCount.toNat) →
        (∀ i : Fin 32, cnt[i] ≤ 255) →
        s.becomes t c (({ y with
            tokens := cnt.map fun n => BitVec.ofNat 8 n, posts := y.posts.dropWhile fun q => q.due ≤ y.cycle } : Core).halt k 0x05
          (y.stream k).pc)) ∧
      (st.wdogLimit ≠ 0 → x.anyPaged = false → (y.stream k).state = .waiting → (∀ j, j ≠ k → (y.stream j).state ≠ .waiting) →
        (y.stream k).waitCount.toNat ≤ cnt[(y.stream k).waitToken.toFin] → (y.stream k).pc.toNat + 1 ≤ 4095 →
        (∀ i : Fin 32, cnt[i] ≤ 255) → ((t.core c.val).stream k).state = .running))

/-- TPOST to its own core is visible two cycles later; to another logical core of the module it stands among the posts on their way to
that core's token unit; a `CORE` at or above the enabled-core count is illegal (05 R148, 06 R176).

TOKEN_POST: a post that reaches the token unit is visible two cycles later, and is no longer on its way (05 R148).

A TOKEN_SET write sets its counter while all three streams are Idle or Halted; otherwise it is ignored and sets `HOSTWR_REFUSED`
(05 R163). -/
def Obligations.PostsAndTokenWritesReachTheirCounter : Prop :=
  (∀ (s : State) (c : CoreId) (k : StreamId) (d : Decoded) (tok : BitVec 5) (n : BitVec 8) (remote : Bool) (to_ : BitVec 8),
    s.canon → s.issues c k d → d.2.2 = .tpost tok n remote to_ →
    let x := s.coreAtIssue c k
    ∃ t, exec (.tpost c k) s = .next t ∧
      (remote = false → s.becomes t c
        (({ x with posts := insertDue (·.due) { due := x.cycle + 2, token := tok, count := n } x.posts } : Core).goOn k d.1 d.2.1)) ∧
      (remote = true → s.coreCount ≤ to_.toNat → s.becomes t c (x.halt k 0x02 (x.stream k).pc)) ∧
      (remote = true → to_.toNat < s.coreCount → s.becomes t c (x.goOn k d.1 d.2.1) ∧
        ∃ p l, s.physOf to_.toNat = some p ∧ (t.core p).inbound = l ++ [(tok, n)])) ∧
  (∀ (s : State) (c : CoreId) (i : Nat) (tok : BitVec 5) (n : BitVec 8),
    let x := s.core c.val
    s.canon → s.coresRun = true → s.coreOn c.val = true → x.inbound[i]? = some (tok, n) →
    ∃ t, exec (.tokenPost c i) s = .next t ∧
      s.becomes t c { x with posts := insertDue (·.due) { due := x.cycle + 2, token := tok, count := n } x.posts } ∧
      (t.core c.val).inbound = x.inbound.eraseIdx i) ∧
  (∀ (s : State) (c : CoreId) (v : Reg),
    let x := s.core c.val
    let rests := ∀ k, (x.stream k).state = .idle ∨ (x.stream k).state = .halted
    s.canon → s.linked = true → s.coreOn c.val = true →
    ∃ t, exec (.tokenSet c v) s = .next t ∧ s.onlyCore t c.val ∧
      (rests → t.core c.val = { x with tokens := x.tokens.set (v.extractLsb' 0 5).toFin (v.extractLsb' 8 8) }) ∧
      (¬rests → t.core c.val = { x with hostWrRefused := true }))

/-- QPUSH: an address that is not word-aligned is illegal; with 16 descriptors in the channel or on their way to it the stream halts
with cause 0x0B; otherwise the descriptor's two words are read in the issue cycle and the stream goes on (05 R156, 06 R167, R178). -/
def Obligations.QpushReadsItsDescriptorOrHalts : Prop :=
  ∀ (s : State) (c : CoreId) (k : StreamId) (d : Decoded) (ch : BitVec 2) (cadj : BitVec 3) (en : Bool) (step : BitVec 16) (a : AddrTerm),
    s.canon → s.issues c k d → d.2.2 = .qpush ch cadj en step a →
    let x := s.coreAtIssue c k
    let st := x.stream k
    let at_ := st.addrOf a
    let full := 16 ≤ x.ch[ch.toFin].queue.length + x.onTheWay ch
    ∃ t, exec (.qpush c k) s = .next t ∧
      (at_ % 32 ≠ 0 → s.becomes t c (x.halt k 0x02 st.pc)) ∧
      (at_ % 32 = 0 → full → s.becomes t c (x.halt k 0x0B st.pc)) ∧
      (at_ % 32 = 0 → ¬full → ∃ acc : Access, s.becomes t c (({ x with accesses := x.accesses ++ [acc] } : Core).goOn k d.1 d.2.1) ∧
        acc.cycle = x.cycle ∧ acc.reads = [wordAt at_, wordAt (at_ + 32)] ∧ acc.writes = [] ∧
        acc.act = .qpush ch (if en then some ((st.ctr cadj : Int) * step.toInt * 32) else none) st.evalCtx st.step st.launch)

/-- MATMUL, from its descriptor or from the oldest filled slab: an unreadable descriptor line halts the stream with cause 0x0A; where a
reserved bit of the descriptor is set, or a condition of 06 R182, R167 or R171 fails, the stream is Halted with cause 0x02 and no beat issues; otherwise the feed of M rows from row `ROW0` begins in the issue
cycle, into the filling bank, which opens if it was Cleared; `SWAP` has exchanged active and shadow (04 R94, R95, R97 to R100, 06 R179 to R182).

Reserved bits of a descriptor are illegal as log 13 reads R171. -/
def Obligations.MatmulStartsItsFeedOrIsIllegal : Prop :=
  ∀ (s : State) (c : CoreId) (k : StreamId) (d : Decoded) (m : MatmulF), s.canon → s.issues c k d → d.2.2 = .matmul m →
    ∃ t, exec (.matmul c k) s = .next t ∧
      (m.trans = false →
        let x := s.coreAtDesc c k m.desc
        let st := x.stream k
        let w := st.descAt m.desc
        (w.poison = true → s.becomes t c (x.halt k 0x0A (BitVec.ofNat 12 (4 * m.desc.toNat)))) ∧
        (w.poison = false → opDesc w.data = none → s.becomes t c (x.halt k 0x02 st.pc)) ∧
        (w.poison = false → ∀ a, opDesc w.data = some a →
          let legal := x.mayFeed k m a.fmt ∧ a.fmt.toNat ≤ 5 ∧ rowWords a.fmt.toNat 512 ≤ a.pitch ∧ st.addrOf a.pri % 32 = 0 ∧
            a.secOk = true
          (¬legal → s.becomes t c (x.halt k 0x02 st.pc)) ∧
          (legal → ∃ y f, s.becomes t c y ∧ x.feeds y k d.1 m a.fmt a.coarse f ∧ f.slab = none ∧
            f.pri = st.addrOf a.pri ∧ f.pitch = a.pitch))) ∧
      (m.trans = true →
        let x := s.coreAtIssue c k
        (x.slabs = [] → s.becomes t c (x.halt k 0x02 (x.stream k).pc)) ∧
        (∀ sl rest, x.slabs = sl :: rest →
          let legal := x.mayFeed k m sl.fmt ∧ (sl.shape = 0 ∨ sl.shape = 1 ∧ m.mm1.toNat + 1 ≤ 64)
          (¬legal → s.becomes t c (x.halt k 0x02 (x.stream k).pc)) ∧
          (legal → ∃ y f, s.becomes t c y ∧ ({ x with slabs := rest } : Core).feeds y k d.1 m sl.fmt sl.coarse f ∧ f.slab = some sl)))

/-- WSWAP swaps active and shadow unless R98, R99 or R184 forbids it; WLOAD begins its load into the shadow, from its descriptor or from the
oldest filled slab, which it takes; BFILL begins its copy where the shape, the format and the free halves allow it. A forbidden one, or
one whose descriptor has a reserved bit set, is illegal and nothing changes; an unreadable descriptor line halts the stream with cause
0x0A (04 R96 to R99, R113, R114, 06 R168, R171, R183 to R188).

Reserved bits of a descriptor are illegal as log 13 reads R171. -/
def Obligations.SwapLoadAndFillStartOrAreIllegal : Prop :=
  ∀ (s : State) (c : CoreId) (k : StreamId) (d : Decoded), s.canon → s.issues c k d →
    let unread := fun (desc : BitVec 10) (t : State) =>
      let x := s.coreAtDesc c k desc
      let w := (x.stream k).descAt desc
      (w.poison = true → s.becomes t c (x.halt k 0x0A (BitVec.ofNat 12 (4 * desc.toNat)))) ∧
      (w.poison = false → opDesc w.data = none → s.becomes t c (x.halt k 0x02 (x.stream k).pc))
    (d.2.2 = .wswap →
      let x := s.coreAtIssue c k
      ∃ t, exec (.wswap c k) s = .next t ∧
        ((x.r99 k = true ∨ x.canSwap = false) → s.becomes t c (x.halt k 0x02 (x.stream k).pc)) ∧
        (x.r99 k = false → x.canSwap = true → s.becomes t c
          (({ x with active := x.shadow, shadow := { x.active with planes := 0 }, lastArray := some (k, x.cycle) } : Core).goOn k d.1 1))) ∧
    (∀ plane desc, d.2.2 = .wload plane false desc → ∃ t, exec (.wload c k) s = .next t ∧ unread desc t) ∧
    (∀ desc, d.2.2 = .bfill desc → ∃ t, exec (.bfill c k) s = .next t ∧ unread desc t) ∧
    (∀ plane desc a, d.2.2 = .wload plane false desc →
      let x := s.coreAtDesc c k desc
      let st := x.stream k
      let f := a.fmt.toNat
      (st.descAt desc).poison = false → opDesc (st.descAt desc).data = some a →
      let legal := x.r99 k = false ∧ x.wload = none ∧ f ≤ 5 ∧ (plane = 0 ↔ f < 4) ∧ (if f < 2 then 2 else 4) ≤ a.pitch ∧
        st.addrOf a.pri % 32 = 0 ∧ (plane ≠ 2 → a.secOk = true)
      ∃ t, exec (.wload c k) s = .next t ∧
        (¬legal → s.becomes t c (x.halt k 0x02 st.pc)) ∧
        (legal → ∃ l sh, s.becomes t c
          (({ x with wload := some l, lastArray := some (k, x.cycle), shadow := sh } : Core).goOn k d.1 1) ∧
          l.start = x.cycle ∧ l.row = 0 ∧ l.plane = plane ∧ l.fmt = a.fmt ∧ l.pri = st.addrOf a.pri ∧ l.pitch = a.pitch ∧
          l.slab = none ∧ sh.fmt = a.fmt ∧ sh.coarse = a.coarse)) ∧
    (∀ plane desc, d.2.2 = .wload plane true desc →
      let x := s.coreAtIssue c k
      ∃ t, exec (.wload c k) s = .next t ∧
        (x.slabs = [] → s.becomes t c (x.halt k 0x02 (x.stream k).pc)) ∧
        (∀ sl rest, x.slabs = sl :: rest →
          ((x.r99 k = true ∨ x.wload.isSome = true ∨ plane ≠ 0 ∨ sl.shape.toNat < 2) → s.becomes t c (x.halt k 0x02 (x.stream k).pc)) ∧
          (x.r99 k = false → x.wload = none → plane = 0 → 2 ≤ sl.shape.toNat → ∃ l, s.becomes t c
            (({ x with
                slabs := rest, wload := some l, lastArray := some (k, x.cycle),
                shadow := { fmt := sl.fmt, coarse := sl.coarse, hi := [], lo := [], scales := [], planes := 0 } } : Core).goOn k d.1 1) ∧
            l.start = x.cycle ∧ l.row = 0 ∧ l.slab = some sl))) ∧
    (∀ desc a, d.2.2 = .bfill desc →
      let x := s.coreAtDesc c k desc
      let st := x.stream k
      let sh := a.shape.toNat
      (st.descAt desc).poison = false → opDesc (st.descAt desc).data = some a →
      let legal := x.r99 k = false ∧ x.bfill = none ∧ a.sq = true ∧
        (if sh % 2 = 0 then a.fmt = 0 ∨ a.fmt = 1 else a.fmt = 2 ∨ a.fmt = 3) ∧
        x.halvesUsed + (if sh = 3 then 2 else 1) ≤ 2 ∧ (if sh < 2 then 2 else if sh = 2 then 8 else 16) ≤ a.pitch ∧
        st.addrOf a.pri % 32 = 0 ∧ a.secOk = true
      ∃ t, exec (.bfill c k) s = .next t ∧
        (¬legal → s.becomes t c (x.halt k 0x02 st.pc)) ∧
        (legal → ∃ b, s.becomes t c (({ x with bfill := some b, lastArray := some (k, x.cycle) } : Core).goOn k d.1 1) ∧
          b.start = x.cycle ∧ b.cyc = 0 ∧ b.pri = st.addrOf a.pri ∧ b.slab.shape = a.shape ∧ b.slab.fmt = a.fmt ∧
          b.slab.coarse = a.coarse))

/-- DRAIN: illegal during a feed, with the other bank not Cleared, or of a bank that the other stream opened, and where its descriptor has
a reserved bit set or its target fails a check; halted with cause 0x0A on an unreadable descriptor line; otherwise the filling bank is in Tail, the other one fills, and with `TOKEN_EN` a post of one token stands for the
third cycle after the last output row's write (04 R101 to R104, 05 R148, 06 R168, R171, R189 to R194).

Reserved bits of a descriptor are illegal as log 13 reads R171. -/
def Obligations.DrainSwapsTheBanksOrIsIllegal : Prop :=
  ∀ (s : State) (c : CoreId) (k : StreamId) (d : Decoded) (f : DrainF), s.canon → s.issues c k d → d.2.2 = .drain f →
    let x := s.coreAtDesc c k f.desc
    let st := x.stream k
    let bank := x.bank x.filling
    let w := st.descAt f.desc
    (∃ t, exec (.drain c k) s = .next t ∧
      (w.poison = true → s.becomes t c (x.halt k 0x0A (BitVec.ofNat 12 (4 * f.desc.toNat)))) ∧
      (w.poison = false → opDesc w.data = none → s.becomes t c (x.halt k 0x02 st.pc))) ∧
    ∀ a : OpDesc, w.poison = false → opDesc w.data = some a →
    let legal := x.r99 k = false ∧ x.feed = none ∧ (x.bank (!x.filling)).state = .cleared ∧
      (bank.state ≠ .cleared → bank.owner = (k == .b)) ∧
      drainTargetOk f a bank.compact (st.addrOf a.pri) (st.addrOf a.sec) st.evalCtx.l = true
    let (per, lead) := drainRate bank.compact a.fmt.toNat a.sq (f.topk != 0)
    ∃ t, exec (.drain c k) s = .next t ∧
      (¬legal → s.becomes t c (x.halt k 0x02 st.pc)) ∧
      (legal → ∃ j, s.becomes t c
        (({ (x.setBank x.filling { bank with state := .tail }) with
            filling := !x.filling, drain := some j, lastArray := some (k, x.cycle),
            posts := if f.tokenEn then
                insertDue (·.due) { due := x.cycle + 144 + lead + (f.rows.toNat + 1) * per - 1 + 3, token := f.token, count := 1 } x.posts
              else x.posts } : Core).goOn k d.1 1) ∧
        j.start = x.cycle ∧ j.bank = x.filling ∧ j.f = f ∧ j.fmt = a.fmt ∧ j.pri = st.addrOf a.pri ∧ j.pitch = a.pitch ∧ j.q = a.q)

/-- The last beat of a feed, the last row of a weight load and the last words of a Barchan fill, each made in the current cycle of an
otherwise idle core: the feed is over and its last row lands 144 cycles after the beat; the weight path is free; the slab is filled
(04 R93, R95, R96, R113). -/
def Obligations.LastBeatEndsItsEngine : Prop :=
  ∀ (s : State) (c : CoreId), s.canon → s.coresRun = true → s.coreOn c.val = true →
    let x := s.core c.val
    x.accesses = [] → x.drain = none →
    (∀ f, x.feed = some f → x.wload = none → x.bfill = none → x.cycle = f.start + f.beat → f.beat + 1 = f.total → x.rows = [] →
      ∃ t r, exec (.matmulFeedEnd c) s = .next t ∧ s.onlyCore t c.val ∧ (t.core c.val).feed = none ∧ (t.core c.val).rows = [r] ∧
        r.due = x.cycle + 144 ∧ r.bank = f.bank ∧ r.row = f.row0 + f.rowAt ∧ (t.core c.val).cycle = x.cycle + 1 ∧
        (t.core c.val).bank0 = x.bank0 ∧ (t.core c.val).bank1 = x.bank1) ∧
    (∀ l, x.feed = none → x.wload = some l → x.bfill = none → x.cycle = l.start + l.row → l.row = 127 →
      ∃ t, exec (.wloadComplete c) s = .next t ∧ s.onlyCore t c.val ∧ (t.core c.val).wload = none ∧
        (t.core c.val).active = x.active ∧ (t.core c.val).shadow.fmt = x.shadow.fmt ∧
        (t.core c.val).shadow.planes = x.shadow.planes ∧ (t.core c.val).cycle = l.start + 128) ∧
    (∀ b, x.feed = none → x.wload = none → x.bfill = some b → x.cycle = b.start + b.cyc → b.cyc + 1 = b.cycles →
      ∃ t sl, exec (.bfillComplete c) s = .next t ∧ s.onlyCore t c.val ∧ (t.core c.val).bfill = none ∧
        (t.core c.val).slabs = x.slabs ++ [sl] ∧ sl.shape = b.slab.shape ∧ sl.fmt = b.slab.fmt ∧ sl.coarse = b.slab.coarse)

/-- P96_ACCUMULATE in an otherwise idle core with one row on its way to an exact tile: every column partial is added to its entry of
the row, shifted to the tile's base exponent, modulo 2¹²⁸, and no other entry of either bank changes; the flags it raises go into the tile's flag
byte and the stream's flag register (02 R55, 03 R70, R74, 04 R93).

BANK_TAIL_END and BANK_DRAIN_END, each in the cycle before it falls due: the bank in Tail is in Reading and its flags are in the
stream's flag register; at the end of the read the bank is Cleared, its entries and tile status 0, and no drain is in hand
(04 R102, R133, 06 R193). -/
def Obligations.RowsLandAndBanksDrain : Prop :=
  (∀ (s : State) (c : CoreId) (r : RowFlight), s.canon → s.coresRun = true → s.coreOn c.val = true →
    let x := s.core c.val
    x.quiet = true → x.rows = [r] → x.cycle < r.due → r.compact = false → r.cells.length = 128 →
    (x.bank r.bank).tbase.toInt ≤ r.e →
    ∃ t, exec (.p96Accumulate c) s = .next t ∧ s.onlyCore t c.val ∧
      (t.core c.val).bank (!r.bank) = x.bank (!r.bank) ∧ (t.core c.val).rows = [] ∧ (t.core c.val).cycle = r.due ∧
      (∀ n, n < 128 →
        let y := spGet 0 (x.bank r.bank).entries (256 * r.row + n)
          + BitVec.ofInt 128 (r.cells.getD n 0 * 2 ^ (r.e - (x.bank r.bank).tbase.toInt).toNat)
        y ≠ 0 ∨ spWf 0 (x.bank r.bank).entries = true →
          spGet 0 ((t.core c.val).bank r.bank).entries (256 * r.row + n) = y) ∧
      (∀ a, (∀ n, n < 128 → a ≠ 256 * r.row + n) → spGet 0 ((t.core c.val).bank r.bank).entries a = spGet 0 (x.bank r.bank).entries a) ∧
      (x.vuPending = [] → ∃ fl, ((t.core c.val).bank r.bank).flags = (x.bank r.bank).flags ||| fl ∧
        ((t.core c.val).stream r.stream).flags = (x.stream r.stream).flags ||| fl)) ∧
  (∀ (s : State) (c : CoreId) (d : DrainJob), s.canon → s.coresRun = true → s.coreOn c.val = true →
    let x := s.core c.val
    x.drain = some d → x.feed = none → x.wload = none → x.bfill = none → x.accesses = [] → x.rows = [] →
    (x.cycle = d.start + 143 → (x.bank d.bank).state = .tail →
      ∃ t, exec (.bankTailEnd c) s = .next t ∧ s.onlyCore t c.val ∧
        (t.core c.val).bank d.bank = { x.bank d.bank with state := .reading } ∧
        (t.core c.val).bank (!d.bank) = x.bank (!d.bank) ∧
        ((t.core c.val).stream d.who.stream).flags = (x.stream d.who.stream).flags ||| (x.bank d.bank).flags) ∧
    (x.cycle + 1 = d.start + 144 + d.readTime (x.bank d.bank).compact →
      ∃ t, exec (.bankDrainEnd c) s = .next t ∧ s.onlyCore t c.val ∧ (t.core c.val).bank d.bank = Bank.reset ∧
        (t.core c.val).bank (!d.bank) = x.bank (!d.bank) ∧ (t.core c.val).drain = none))

/-- A VFP, VINT, VXL, VCVT or NREAD issued in its VU cycle leaves its destination's write standing for the cycle that its latency
gives (6 or 12, 2, 12, 8, 14) and changes nothing else of the core but the stream's position and, for a conversion, its flags; the
lanes it names are those of `LM` (04 R123, R130, 06 R195 to R201).

Whose flags a conversion raises is log 102. -/
def Obligations.VuResultsStandForTheirLatency : Prop :=
  ∀ (s : State) (c : CoreId) (k : StreamId) (d : Decoded) (h : VuHead), s.canon → s.issuesVu c k d →
    let x := s.coreAtVu c k
    let m := x.lm h.lm
    let later := fun (x : Core) (lat : Nat) (w : VuWrite) =>
      (({ x with vuPending := insertDue (·.due) { due := x.cycle + lat, stream := k, what := w } x.vuPending } : Core).goOn k d.1 d.2.1)
    (d.2.2 = .vfp h → ∃ t, exec (.vfp c k) s = .next t ∧
      (8 ≤ h.fn.toNat → h.fn.toNat ≤ 11 → s.becomes t c (later x 6 (.lane (h.vd.extractLsb' 0 3) m
        (laneMask fun i => cmp32 h.fn.toNat (lane (x.vr h.va).data i) (lane (x.vr h.vb).data i))))) ∧
      (h.fn.toNat < 8 ∨ 11 < h.fn.toNat → s.becomes t c (later x (if 16 ≤ h.fn.toNat then 12 else 6) (.reg h.vd m
        (ofLanes fun i => vfpLane h.fn.toNat (lane (x.vr h.va).data i) (lane (x.vr h.vb).data i) (lane (x.vr h.vc).data i))
        (wordsTouched m) (vfpPoison h.fn.toNat (x.vr h.va).poison (x.vr h.vb).poison (x.vr h.vc).poison))))) ∧
    (d.2.2 = .vint h → ∃ t, exec (.vint c k) s = .next t ∧
      let r := vintResult h.fn.toNat h.imm (x.lm (h.vc.extractLsb' 0 3)) (x.vr h.va) (x.vr h.vb)
      s.becomes t c (later x 2 (.reg h.vd m r.1 (wordsTouched m) r.2))) ∧
    (d.2.2 = .vxl h → ∃ t, exec (.vxl c k) s = .next t ∧ s.becomes t c (later x 12 (.reg h.vd 1
      ((vxlResult h.fn.toNat m (x.vr h.va).data).setWidth 2048) (wordsTouched 1) (if poisonIn m (x.vr h.va).poison then 1 else 0)))) ∧
    (∀ w, d.2.2 = .vcvt h w →
      let sf := (h.vb.extractLsb' 0 4).toNat
      let df := (h.fn.extractLsb' 0 4).toNat
      let legal := pairOk sf df = true ∧ ¬(isB sf = true ∧ sf = df ∧ w.sc = w.dc) ∧ (paired sf = true → h.va ≠ 31) ∧
        (paired df = true → h.vd ≠ 31)
      ∃ t, exec (.vcvt c k) s = .next t ∧
        (¬legal → s.becomes t c (x.halt k 0x02 (x.stream k).pc)) ∧
        (legal →
          let r := cvtResult sf df w m (x.laneRand (s.coreEnv c.val) k h.vc) (x.vr h.vc).poison (x.vr h.va) (x.vr (nextReg h.va))
          let first := insertDue (·.due) { due := x.cycle + 8, stream := k, what := .reg h.vd r.mask r.data (wordsTouched r.mask) r.poison } x.vuPending
          s.becomes t c (({ x.flag k r.flags with
            vuPending := if paired df then
                insertDue (·.due) { due := x.cycle + 8, stream := k, what := .reg (nextReg h.vd) r.auxMask r.aux (wordsTouched r.auxMask) r.auxPoison } first
              else first } : Core).goOn k d.1 d.2.1))) ∧
    (d.2.2 = .vnacc h → h.fn = 4 → ∃ t, exec (.nread c k) s = .next t ∧
      let a := x.n[(h.va.extractLsb' 0 3).toFin]
      let round := h.imm.extractLsb' 0 2
      (round = 3 → s.becomes t c (x.halt k 0x02 (x.stream k).pc)) ∧
      (round ≠ 3 →
        let (v, fl) := toFp fp32 round (x.laneRand (s.coreEnv c.val) k h.vc 0) (nVal a)
        s.becomes t c (later (x.flag k (if m &&& 1 = 0 then 0 else fl)) 14
          (.reg h.vd (m &&& 1) (BitVec.ofNat 2048 v) (wordsTouched (m &&& 1))
            (if a.poison || (round == 2 && (x.vr h.vc).poison.getLsbD 0) then 1 else 0)))))

/-- NOPEN, NACC, NSQ and NDOT leave their accumulator's write standing for the tenth cycle: base exponent `IMM`[11:0] with value 0, or
the exact terms of the enabled lanes; DROP leaves the mask of the lanes whose random word is below `PKEEP` standing for the fourth,
for the lanes whose index word is clean (04 R126, R129, 06 R201, R202).

MWADD and MWADDN: with `VD` = V31 or `ROUND` = 3 illegal; else both registers' writes stand for the tenth cycle, every named element
with clean sources at its value by R62, of `VD` + 1 the halves of those elements alone; where a named element has a poisoned source the
stream halts with cause 0x0D (02 R62, 06 R201, 07 R218, 09 R277).

That no mask bit comes from a poisoned word is log 98. -/
def Obligations.AccumulatorsMasksAndMasterWeights : Prop :=
  (∀ (s : State) (c : CoreId) (k : StreamId) (d : Decoded) (h : VuHead), s.canon → s.issuesVu c k d →
    let x := s.coreAtVu c k
    let m := x.lm h.lm
    let later := fun (lat : Nat) (w : VuWrite) =>
      (({ x with vuPending := insertDue (·.due) { due := x.cycle + lat, stream := k, what := w } x.vuPending } : Core).goOn k d.1 d.2.1)
    let terms := fun (f : Nat → FVal) => termsOf ((lanesOf m).map f)
    let acc := h.vd.extractLsb' 0 3
    let a := fun i => f32 (lane (x.vr h.va).data i)
    let b := fun i => f32 (lane (x.vr h.vb).data i)
    (d.2.2 = .vnacc h →
      (h.fn = 0 → ∃ t, exec (.nopen c k) s = .next t ∧ s.becomes t c (later 10 (.nopen acc (h.imm.extractLsb' 0 12)))) ∧
      (h.fn = 1 → ∃ t, exec (.nacc c k) s = .next t ∧
        s.becomes t c (later 10 (.nadd acc (terms a).1 (terms a).2 (poisonIn m (x.vr h.va).poison)))) ∧
      (h.fn = 2 → ∃ t, exec (.nsq c k) s = .next t ∧
        s.becomes t c (later 10 (.nadd acc (terms fun i => fvalMul (a i) (a i)).1 (terms fun i => fvalMul (a i) (a i)).2
          (poisonIn m (x.vr h.va).poison)))) ∧
      (h.fn = 3 → ∃ t, exec (.ndot c k) s = .next t ∧
        s.becomes t c (later 10 (.nadd acc (terms fun i => fvalMul (a i) (b i)).1 (terms fun i => fvalMul (a i) (b i)).2
          (poisonIn m ((x.vr h.va).poison ||| (x.vr h.vb).poison)))))) ∧
    (∀ w, d.2.2 = .vmask h w → h.fn = 2 → ∃ t, exec (.drop c k) s = .next t ∧
      s.becomes t c (later 4 (.lane (h.vd.extractLsb' 0 3) (cleanLanes m (x.vr h.vc).poison)
        (laneMask fun i => decide ((x.laneRand (s.coreEnv c.val) k h.vc i).toNat < (w.extractLsb' 0 32).toNat)))))) ∧
  (∀ (s : State) (c : CoreId) (k : StreamId) (d : Decoded) (h : VuHead), s.canon → s.issuesVu c k d → d.2.2 = .vnacc h →
    let x := s.coreAtVu c k
    let env := s.coreEnv c.val
    let round := h.imm.extractLsb' 0 2
    let hi := x.vr h.vd
    let ext := x.vr (nextReg h.vd)
    let claim := fun (t : State) (es : List Nat) (delta : Nat → FVal) (dpsn : Nat → Bool) (rnd : Nat → BitVec 32) (rpsn : Nat → Bool) => (
      let good := es.filter fun i => !(dpsn i || hi.poison.getLsbD (i / 8) || ext.poison.getLsbD (i / 16))
      let sum := fun i => mwAdd round (rnd i) (lane hi.data i) (BitVec.ofNat 16 (elem 16 ext.data i)) (delta i)
      let hm := laneMask fun i => good.contains i
      (h.vd = 31 ∨ round = 3 → s.becomes t c (x.halt k 0x02 (x.stream k).pc)) ∧
      (h.vd ≠ 31 → round ≠ 3 → ∃ y hw ew hp ep,
          y = { x.flag k (orFlags (good.map fun i => (sum i).2.2)) with
            vuPending := if good = [] then x.vuPending else
                insertDue (·.due) { due := x.cycle + 10, stream := k, what := .halves (nextReg h.vd) (hm.setWidth 128) ew ep }
                (insertDue (·.due) { due := x.cycle + 10, stream := k, what := .reg h.vd hm hw (wordsTouched hm) hp } x.vuPending) } ∧
          (∀ i ∈ good, lane hw i = (sum i).1 ∧ elem 16 ew i = (sum i).2.1.toNat) ∧
          (round ≠ 2 ∨ (∀ i ∈ good, rpsn i = false) → hp = hi.poison ∧ ep = ext.poison) ∧
          (good = es → s.becomes t c (y.goOn k d.1 d.2.1)) ∧
          (good ≠ es → s.becomes t c (y.halt k 0x0D (x.stream k).pc))))
    (h.fn = 5 → ∃ t, exec (.mwadd c k) s = .next t ∧ claim t (lanesOf (x.lm h.lm)) (fun i => f32 (lane (x.vr h.va).data i))
      (fun i => (x.vr h.va).poison.getLsbD (i / 8)) (x.laneRand env k h.vc) (fun i => (x.vr h.vc).poison.getLsbD (i / 8))) ∧
    (h.fn = 6 → ∃ t, exec (.mwaddn c k) s = .next t ∧ claim t ((lanesOf (x.lm h.lm)).filter fun i => i == (h.imm.extractLsb' 2 6).toNat)
      (fun _ => nVal x.n[(h.vb.extractLsb' 0 3).toFin]) (fun _ => x.n[(h.vb.extractLsb' 0 3).toFin].poison)
      (fun _ => x.laneRand env k h.vc 0) (fun _ => (x.vr h.vc).poison.getLsbD 0)))

/-- VLD, VST, MREAD and MWRITE at a word-aligned address: the 8 words, the store's writes, the mask word or the full mask buffer stand
among the static accesses of the issue cycle (MWRITE's of the next), a store's token is posted three cycles after its last effect; at
a misaligned address each is illegal (04 R119, R120, R127, R128, 05 R148, 06 R167, R202, R203).

MWRITE's access in the next cycle is log 14. -/
def Obligations.VectorMemoryAccessesStand : Prop :=
  ∀ (s : State) (c : CoreId) (k : StreamId) (d : Decoded) (h : VuHead), s.canon → s.issuesVu c k d →
    let x := s.coreAtVu c k
    let st := x.stream k
    let who : Who := { stream := k, half := st.half, pc := st.pc }
    let acc := fun (n : Nat) (reads : List Nat) (writes : List WriteReq) (act : AccessAct) =>
      ({ cycle := x.cycle + n, who := who, reads := reads, scales := [], writes := writes, scaleW := [], act := act } : Access)
    (∀ addr, d.2.2 = .vld h addr → ∃ t, exec (.vld c k) s = .next t ∧
      let a := st.addrOf addr
      (a % 32 ≠ 0 → s.becomes t c (x.halt k 0x02 st.pc)) ∧
      (a % 32 = 0 → s.becomes t c (({ x with
        accesses := x.accesses ++ [acc 0 (eightWords a) [] (.vld (x.cycle + 4) h.vd (x.lm h.lm))] } : Core).goOn k d.1 d.2.1))) ∧
    (∀ addr, d.2.2 = .vst h addr → ∃ t, exec (.vst c k) s = .next t ∧
      let a := st.addrOf addr
      let ws := vstWrites a (x.lm h.lm) (x.vr h.va)
      (a % 32 ≠ 0 → s.becomes t c (x.halt k 0x02 st.pc)) ∧
      (a % 32 = 0 → s.becomes t c (({ x with
        accesses := x.accesses ++ (if ws = [] then [] else [acc 0 [] ws .none]),
        posts := if h.vc.getLsbD 0 then insertDue (·.due) { due := x.cycle + lastEffect ws + 3, token := h.vb, count := 1 } x.posts
          else x.posts } : Core).goOn k d.1 d.2.1))) ∧
    (∀ w, d.2.2 = .vmask h w → h.fn = 1 → ∃ t, exec (.mread c k) s = .next t ∧
      let a := st.addrOf (termOfWord w)
      (a % 32 ≠ 0 → s.becomes t c (x.halt k 0x02 st.pc)) ∧
      (a % 32 = 0 → s.becomes t c (({ x with
        accesses := x.accesses ++ [acc 0 [wordAt a] []
          (.mread (x.cycle + 4) h.vd (h.imm.extractLsb' 0 2) (h.imm.extractLsb' 2 8).toNat (x.lm h.lm))] } : Core).goOn k d.1 d.2.1))) ∧
    (∀ w, d.2.2 = .vmask h w → h.fn = 0 → ∃ t, exec (.mwrite c k) s = .next t ∧
      let a := st.addrOf (termOfWord w)
      (a % 32 ≠ 0 → s.becomes t c (x.halt k 0x02 st.pc)) ∧
      (a % 32 = 0 →
        let fmt := h.imm.extractLsb' 0 2
        let src := x.lm (h.va.extractLsb' 0 3)
        let new : MaskBuf := { word := wordAt a, fmt := fmt, data := 0, filled := 0, poison := false }
        let kept := (st.maskBuf.filter fun b => b.word == wordAt a).map fun b => { b with fmt := fmt }
        let b := enterMask (kept.getD new) (h.imm.extractLsb' 2 8).toNat (lanesOf (x.lm h.lm))
          (fun i => if fmt = 1 then (if src.getLsbD i then 1 else 0) else (lane (x.vr h.va).data i).toNat)
          (fmt != 1 && poisonIn (x.lm h.lm) (x.vr h.va).poison)
        let done : Bool := b.filled == BitVec.allOnes 256 || h.imm.getLsbD 10
        let out := (st.maskBuf.filter fun b => b.word != wordAt a).toList ++ (if done then [b] else [])
        let ws : List WriteReq := out.map fun b => { word := b.word, data := b.data, mask := 0xFFFFFFFF, poison := b.poison }
        s.becomes t c (((({ x with
          accesses := x.accesses ++ (if ws = [] then [] else [acc 1 [] ws .none]),
          posts := if ws ≠ [] ∧ h.vc.getLsbD 0 then insertDue (·.due) { due := x.cycle + 7, token := h.vb, count := 1 } x.posts
            else x.posts } : Core)).modStream k fun st => { st with maskBuf := if done then none else some b }).goOn k d.1 d.2.1)))

/-- In an idle core the oldest pending write takes effect in its cycle: its word holds the code word of the written data, the poison
code word, or the merge of its bytes, and no other word changes. The oldest pending VU result is put in place in its cycle: a
register's or a lane mask's enabled lanes, a register's named halves, an accumulator, whose flags go to the stream too (02 R55,
04 R119, R120, 06 R195, R196, 09 R268, R269).

The accesses made: in an otherwise idle core the words that a VLD reads come into the enabled lanes of its register, and the elements
that an MREAD reads into those of its lane mask (M1) or register (M2, M4), from clean words (04 R128, 06 R202, R203). -/
def Obligations.OldestEffectIsPutInPlace : Prop :=
  (∀ (s : State) (c : CoreId), s.canon → s.coresRun = true → s.coreOn c.val = true →
    let x := s.core c.val
    x.quiet = true →
    (∀ p, x.writes = [p] → x.cycle < p.due →
      ∃ t, exec (.scratchpadWriteEffect c) s = .next t ∧ s.onlyCore t c.val ∧ (t.core c.val).writes = [] ∧
        (p.req.poison = true → spGet 0 (t.core c.val).spad p.req.word = poisonWord) ∧
        (p.req.poison = false → p.req.mask = 0xFFFFFFFF → spGet 0 (t.core c.val).spad p.req.word = encodeWord p.req.data) ∧
        (p.req.poison = false → p.req.mask ≠ 0xFFFFFFFF → (decodeWord (spGet 0 x.spad p.req.word)).1 = .clean →
          spGet 0 (t.core c.val).spad p.req.word =
            encodeWord (mergeBytes p.req.mask (decodeWord (spGet 0 x.spad p.req.word)).2.2.data p.req.data)) ∧
        ∀ w, w ≠ p.req.word → spGet 0 (t.core c.val).spad w = spGet 0 x.spad w) ∧
    (∀ p, x.vuPending = [p] → x.cycle < p.due →
      ∃ t, exec (.vuResultWriteback c) s = .next t ∧ s.onlyCore t c.val ∧ (t.core c.val).vuPending = [] ∧
        (∀ r m data words q, p.what = .reg r m data words q → (t.core c.val).lanes = x.lanes ∧ (t.core c.val).n = x.n ∧
          (∀ j : Fin 32, j ≠ r.toFin → (t.core c.val).v[j] = x.v[j]) ∧
          ∀ i, i < 64 → lane (t.core c.val).v[r.toFin].data i = if m.getLsbD i then lane data i else lane x.v[r.toFin].data i) ∧
        (∀ r m bits, p.what = .lane r m bits → (t.core c.val).v = x.v ∧ (t.core c.val).n = x.n ∧
          (∀ j : Fin 8, j ≠ r.toFin → (t.core c.val).lanes[j] = x.lanes[j]) ∧
          ∀ i, i < 64 → (t.core c.val).lanes[r.toFin].getLsbD i = if m.getLsbD i then bits.getLsbD i else x.lanes[r.toFin].getLsbD i) ∧
        (∀ a e, p.what = .nopen a e → (t.core c.val).v = x.v ∧ (t.core c.val).lanes = x.lanes ∧
          (t.core c.val).n = x.n.set a.toFin { value := 0, exp := e, flags := 0, poison := false }) ∧
        (∀ a terms fl q, p.what = .nadd a terms fl q → (t.core c.val).v = x.v ∧ (t.core c.val).lanes = x.lanes ∧
          (t.core c.val).n = x.n.set a.toFin (nAdd x.n[a.toFin] terms fl q) ∧
          (x.rows = [] → ((t.core c.val).stream p.stream).flags =
            (x.stream p.stream).flags ||| (nAdd { x.n[a.toFin] with flags := 0 } terms fl q).flags)) ∧
        (∀ r m data q, p.what = .halves r m data q → (t.core c.val).lanes = x.lanes ∧ (t.core c.val).n = x.n ∧
          (∀ j : Fin 32, j ≠ r.toFin → (t.core c.val).v[j] = x.v[j]) ∧
          ∀ i, i < 128 → elem 16 (t.core c.val).v[r.toFin].data i =
            if m.getLsbD i then elem 16 data i else elem 16 x.v[r.toFin].data i))) ∧
  (∀ (s : State) (c : CoreId) (who : Who) (due : Nat) (lanes : BitVec 64), s.canon → s.coresRun = true → s.coreOn c.val = true →
    let x := s.core c.val
    let acc := fun (reads : List Nat) (act : AccessAct) =>
      ({ cycle := x.cycle, who := who, reads := reads, scales := [], writes := [], scaleW := [], act := act } : Access)
    x.feed = none → x.wload = none → x.bfill = none → x.drain = none → x.writes = [] → x.vuPending = [] → x.cycle + 1 < due →
    (∀ (a : Nat) (vd : BitVec 5) (d : Nat → Data), x.accesses = [acc (eightWords a) (.vld due vd lanes)] →
      (∀ w, w < 8 → spGet 0 x.spad (wordAt (a + 32 * w)) = encodeWord (d w) ∧ cleanData (d w)) →
      ∃ t, exec (.vuResultWriteback c) s = .next t ∧ s.onlyCore t c.val ∧ (t.core c.val).spad = x.spad ∧
        (t.core c.val).lanes = x.lanes ∧ (∀ j : Fin 32, j ≠ vd.toFin → (t.core c.val).v[j] = x.v[j]) ∧
        ∀ i, i < 64 → lane (t.core c.val).v[vd.toFin].data i =
          if lanes.getLsbD i then (d (i / 8)).extractLsb' (32 * (i % 8)) 32 else lane x.v[vd.toFin].data i) ∧
    (∀ (w : Nat) (vd : BitVec 5) (fmt : BitVec 2) (off : Nat) (d : Data), x.accesses = [acc [w] (.mread due vd fmt off lanes)] →
      spGet 0 x.spad w = encodeWord d → cleanData d →
      ∃ t, exec (.vuResultWriteback c) s = .next t ∧ s.onlyCore t c.val ∧ (t.core c.val).spad = x.spad ∧
        (fmt = 1 → (t.core c.val).v = x.v ∧ ∀ i, i < 64 → (t.core c.val).lanes[(vd.extractLsb' 0 3).toFin].getLsbD i =
          if lanes.getLsbD i then d.getLsbD (off + i) else x.lanes[(vd.extractLsb' 0 3).toFin].getLsbD i) ∧
        (fmt = 2 ∨ fmt = 3 → (t.core c.val).lanes = x.lanes ∧ ∀ i, i < 64 → lane (t.core c.val).v[vd.toFin].data i =
          let b := if fmt = 2 then 2 else 4
          if lanes.getLsbD i then BitVec.ofNat 32 (bitsOf d.toNat (b * (off + i)) b) else lane x.v[vd.toFin].data i)))

/-- An answered command's entry is written at its ring's tail with the ring's phase, the tail moves on and the phase turns as it wraps;
with the ring full or entries held before it, it is held and a running queue stalls. A mailbox's command has it in `DATA` 0 to 7 with
the status as `CODE`, and the mailbox is Acked. The command is no longer in hand (12 R364, R367, R381). That nothing is sent while the
host has Bus Master off is the model's (PRESUMED, log 120).

`PHASE` in a mailbox is 0 by log 30. -/
def Obligations.AnswerGoesToItsRingOrMailbox : Prop :=
  ∀ (s t : State) (c : Cmd) (st : BitVec 16) (fl : Byte) (det : Nat), s.answered t c st fl det →
    t.host.cmds = s.host.cmds.filter (fun d => d.id != c.id) ∧
    ∃ el, el ≤ c.limit ∧
    let e := cplEntry st (BitVec.ofNat 16 c.opc) c.seq 0 fl el det
    (∀ q, c.src = .queue q →
      let x := s.queue q
      let n := 2 ^ (x.cplSize.toNat + 4)
      (x.held = [] → (x.cplTail.toNat + 1) % n ≠ x.cplHead.toNat →
        (s.power.busMaster = true → ∃ rest, t.out = s.out ++ .hostWrite (x.cplBase.toNat + 32 * x.cplTail.toNat)
          (leBytes 32 (e.toNat + (if x.phase then 2 ^ 72 else 0))) false :: rest) ∧
        (s.power.busMaster = false → t.out = s.out) ∧
        (t.queue q).cplTail = BitVec.ofNat 16 ((x.cplTail.toNat + 1) % n) ∧
        (t.queue q).phase = (if (x.cplTail.toNat + 1) % n = 0 then !x.phase else x.phase) ∧ (t.queue q).held = []) ∧
      (x.held ≠ [] ∨ (x.cplTail.toNat + 1) % n = x.cplHead.toNat →
        t.out = s.out ∧ (t.queue q).held = x.held ++ [{ entry := e, irq := c.field 16 1 == 1 }] ∧
        (t.queue q).cplTail = x.cplTail ∧ (x.state = .running → x.enable = true → (t.queue q).state = .stalled))) ∧
    (∀ m, c.src = .mailbox m →
      (c.orphan = false → (s.mailbox m).state = .sent →
        (t.mailbox m).state = .acked ∧ (t.mailbox m).code = st ∧
        (∀ i : Fin 8, (t.mailbox m).data[i.val] = e.extractLsb' (32 * i.val) 32) ∧
        (∀ i : Fin 8, (t.mailbox m).data[8 + i.val] = (s.mailbox m).data[8 + i.val])) ∧
      (c.orphan = true ∨ (s.mailbox m).state ≠ .sent →
        t.mailbox m = { s.mailbox m with refused := true } ∧ t.out = s.out))

/-- Doorbells, `ENABLE` and QSTEP: a doorbell at or above its ring's entry count only sets `DB_ERR`; one below is taken, and a `CPL_HEAD`
that makes room has the oldest held entry written. Enabling a queue zeroes its heads, tails and mirrors and sets the phase; disabling
stops it, Disabled at once with no command in flight, one started and not yet answered. `QSTEP` takes only the two steps behind `LAST_COMMITTED`, with no command left to
fetch (12 R361, R362, R364, 13 R397).

Held entries go into the ring of a queue enabled again by log 84. -/
def Obligations.QueueRegistersFollowTheirWrites : Prop :=
  ∀ (s : State) (q : Fin 8) (v : Reg), s.linked = true →
    let x := s.queue q
    let n := v.toNat % 65536
    (exec (.cmdTailDoorbell q v) s = .next (s.modQueue q fun x =>
      if n < 2 ^ (x.cmdSize.toNat + 4) then { x with cmdTail := BitVec.ofNat 16 n } else { x with dbErr := true })) ∧
    (2 ^ (x.cplSize.toNat + 4) ≤ n → exec (.cplHeadDoorbell q v) s = .next (s.modQueue q fun x => { x with dbErr := true })) ∧
    (n < 2 ^ (x.cplSize.toNat + 4) →
      let full : Bool := (x.cplTail.toNat + 1) % 2 ^ (x.cplSize.toNat + 4) == n
      (x.held = [] → exec (.cplHeadDoorbell q v) s = .next (s.modQueue q fun x =>
        { x with cplHead := BitVec.ofNat 16 n, state := if x.state = .stalled ∧ full = false then .running else x.state })) ∧
      (∀ h r, x.held = h :: r → full = true →
        exec (.cplHeadDoorbell q v) s = .next (s.modQueue q fun x => { x with cplHead := BitVec.ofNat 16 n })) ∧
      (∀ h r, x.held = h :: r → full = false → ∃ t, exec (.cplHeadDoorbell q v) s = .next t ∧
        (s.power.busMaster = true → ∃ rest, t.out = s.out ++ .hostWrite (x.cplBase.toNat + 32 * x.cplTail.toNat)
          (leBytes 32 (h.entry.toNat + (if x.phase then 2 ^ 72 else 0))) false :: rest))) ∧
    (v.getLsbD 0 = true → x.enable = false → x.held = [] → exec (.queueEnable q v) s = .next (s.modQueue q fun x =>
      { x with
        enable := true, state := .running, cmdSize := v.extractLsb' 1 4, cplSize := v.extractLsb' 5 4, irqAll := v.getLsbD 9,
        cmdHead := 0, cplTail := 0, cmdTail := 0, cplHead := 0, phase := true })) ∧
    (v.getLsbD 0 = true → x.enable = true → exec (.queueEnable q v) s = .next (s.modQueue q fun x => { x with irqAll := v.getLsbD 9 })) ∧
    (v.getLsbD 0 = false → x.enable = true → (∀ c ∈ s.host.cmds, c.src = .queue q → c.started = true → c.replied = true) →
      exec (.queueDisable q v) s = .next (s.modQueue q fun x =>
        { x with enable := false, irqAll := v.getLsbD 9, err := 0, state := .disabled })) ∧
    (v.getLsbD 0 = false → x.enable = true → (∃ c ∈ s.host.cmds, c.src = .queue q ∧ c.started = true ∧ c.replied = false) →
      exec (.queueDisable q v) s = .next (s.modQueue q fun x =>
        { x with enable := false, irqAll := v.getLsbD 9, err := 0, state := if x.state = .error then .running else x.state })) ∧
    (v.getLsbD 0 = false → x.enable = false → exec (.queueDisable q v) s = .next (s.modQueue q fun x =>
      { x with cmdSize := v.extractLsb' 1 4, cplSize := v.extractLsb' 5 4, irqAll := v.getLsbD 9 })) ∧
    (let c := s.job.committed.toNat
     (x.cmdHead = x.cmdTail → c < v.toNat → v.toNat ≤ c + 2 →
       exec (.qstepWrite q v) s = .next (s.modQueue q fun x => { x with qstep := v })) ∧
     (x.cmdHead ≠ x.cmdTail ∨ v.toNat ≤ c ∨ c + 2 < v.toNat →
       exec (.qstepWrite q v) s = .next { s with job := { s.job with qstepRefused := true } }))

/-- COMMAND_FETCH: a ring page that is not HOST puts the queue in Error with `ERR` OWNERSHIP; otherwise the packet at `CMD_HEAD` is in
hand with the queue's step, `CMD_HEAD` moves on modulo the ring, and a stepped command raises `BEGUN` to its step. MAILBOX_DELIVERY
takes a Sent mailbox's packet in hand for its receiver (12 R360, R362, R382, 13 R396, R397).

What the fields of a command in hand hold besides its packet is the model's own (log 41). -/
def Obligations.CommandsComeFromRingsAndMailboxes : Prop :=
  (∀ (s : State) (q : Fin 8), s.fetches q = true →
    let x := s.queue q
    let off := x.cmdBase.toNat + 64 * x.cmdHead.toNat
    let page := off / 2 ^ 21
    let e := spGet WinEntry.reset s.host.window page
    (s.host.winPages ≤ page ∨ e.owner ≠ 1 →
      exec (.commandFetch q) s = .next (s.modQueue q fun x => { x with state := .error, err := stOwnership })) ∧
    (page < s.host.winPages → e.owner = 1 → e.region.toNat < 5 →
      let o := 2 ^ 21 * e.ppn.toNat + off % 2 ^ 21
      ∀ d0 d1 : Data, s.mem.raw e.region.toNat o = encodeWord d0 → s.mem.raw e.region.toNat (o + 32) = encodeWord d1 →
        decodeWord (encodeWord d0) = (.clean, encodeWord d0, { data := d0, poison := false }) →
        decodeWord (encodeWord d1) = (.clean, encodeWord d1, { data := d1, poison := false }) →
        (∀ d ∈ s.host.cmds, d.bad = false) → opcListed (d0.toNat % 65536) = true →
        ∃ t c, exec (.commandFetch q) s = .next t ∧ t.host.cmds = s.host.cmds ++ [c] ∧ c.src = .queue q ∧ c.raw.extractLsb' 0 256 = d0 ∧
          c.raw.extractLsb' 256 256 = d1 ∧
          c.step = some x.qstep ∧ c.started = false ∧ c.id = s.host.nextId ∧
          (t.queue q).cmdHead = BitVec.ofNat 16 ((x.cmdHead.toNat + 1) % 2 ^ (x.cmdSize.toNat + 4)) ∧
          (isStepped (d0.toNat % 65536) = true → t.job.begun.toNat = max s.job.begun.toNat x.qstep.toNat) ∧
          (isStepped (d0.toNat % 65536) = false → t.job.begun = s.job.begun))) ∧
  (∀ (s : State) (m : Fin 16),
    let x := s.mailbox m
    x.state = .sent → x.taken = false → s.agentUp m (x.agent m) = true →
    (8 ≤ m.val → exec (.mailboxDelivery m) s = .next (s.modMail m fun x => { x with taken := true })) ∧
    (m.val < 8 → (∀ d ∈ s.host.cmds, d.bad = false) → opcListed (x.data[0].toNat % 65536) = true →
      (6 ≤ m.val → 0x0600 ≤ x.data[0].toNat % 65536) →
      ∃ t c, exec (.mailboxDelivery m) s = .next t ∧ t.host.cmds = s.host.cmds ++ [c] ∧ c.src = .mailbox m ∧ c.sender = x.sender ∧
        c.raw = x.packet ∧ c.step = none ∧ t.mailbox m = { x with taken := true }))

/-- Mailboxes: a permitted sender's `CLAIM` of a Free one stamps `SENDER`; the sender's `GO` of a Claimed one makes it Sent, or Acked
with NO_SUCH_ENGINE where `TARGET` names no core, or with BAD_STATE where main power is off for its receiver; its `RELEASE` makes it
Free, but one that meets the receiver's `CODE` in its cycle is ignored; the receiver's `CODE` makes a Sent one Acked. Anything else only
sets `REFUSED` (12 R380 to R384). -/
def Obligations.MailboxMovesByItsTable : Prop :=
  ∀ (s : State) (m : Fin 16) (a : Agent), s.agentUp m a = true →
    let x := s.mailbox m
    (x.state = .free ∧ mailPermits m a = true → exec (.claim m a) s = .next (s.modMail m fun x =>
      { x with state := .claimed, sender := agentCode a, taken := false })) ∧
    (¬(x.state = .free ∧ mailPermits m a = true) → exec (.claim m a) s = .next (s.modMail m fun x => { x with refused := true })) ∧
    (x.state = .claimed ∧ x.sender = agentCode a →
      let s1 := s.modMail m fun x => { x with state := .sent, taken := false }
      (m.val < 14 → (x.receiver m = 0x001 → s.mainOff = false) → exec (.go m a) s = .next (s1.notice (x.receiver m))) ∧
      (14 ≤ m.val → s.coreCount ≤ x.target.toNat → exec (.go m a) s = .next ((s1.modMail m fun x =>
        { x with state := .acked, code := 0x0020 }).notice x.sender)) ∧
      (14 ≤ m.val → x.target.toNat < s.coreCount → s.mainOff = false → exec (.go m a) s = .next (s1.notice (x.receiver m))) ∧
      (14 ≤ m.val ∧ x.target.toNat < s.coreCount ∨ m.val < 14 ∧ x.receiver m = 0x001 → s.mainOff = true →
        exec (.go m a) s = .next ((s1.modMail m fun x => { x with state := .acked, code := 0x0012 }).notice x.sender))) ∧
    (¬(x.state = .claimed ∧ x.sender = agentCode a) → exec (.go m a) s = .next (s.modMail m fun x => { x with refused := true })) ∧
    (x.state ≠ .free ∧ x.sender = agentCode a → ∃ t, exec (.release m { agent := a, met := false }) s = .next t ∧
      t = { s.modMail m fun x => { x with state := .free, sender := 0, taken := false } with host := t.host } ∧
      t.host = { s.host with cmds := t.host.cmds, mail := t.host.mail } ∧
      t.mailbox m = { x with state := .free, sender := 0, taken := false } ∧ (∀ k, k ≠ m → t.mailbox k = s.mailbox k)) ∧
    (¬(x.state ≠ .free ∧ x.sender = agentCode a) → exec (.release m { agent := a, met := false }) s = .next (s.modMail m fun x => { x with refused := true })) ∧
    (exec (.release m { agent := a, met := true }) s = .next s) ∧
    (∀ v, x.state = .sent ∧ x.receiver m = agentCode a → ∃ t, exec (.code m a v) s = .next t ∧
      t.mailbox m = { x with state := .acked, code := v } ∧ (∀ k, k ≠ m → t.mailbox k = s.mailbox k)) ∧
    (∀ v, ¬(x.state = .sent ∧ x.receiver m = agentCode a) → exec (.code m a v) s = .next (s.modMail m fun x => { x with refused := true }))

/-- The shared window, within one word of a page: a HOST or SHARED_RO page reads the word's bytes, a HOST page takes a write; every other
access is refused: a read returns zeros with EP, a write is dropped, and the refusal is counted, latched where none is, and raises
vector 12, which is sent or, while masked or Bus Master is off, pending (12 R371, R385, R386, R389, 09 R279). -/
def Obligations.HostWindowObeysItsOwner : Prop :=
  ∀ (s : State) (off len : Nat) (bytes : List Byte), s.canon → s.ident.state ≠ 0x1 →
    let page := off / 2 ^ 21
    let e := spGet WinEntry.reset s.host.window page
    let o := 2 ^ 21 * e.ppn.toNat + off % 2 ^ 21
    let raw := s.mem.raw e.region.toNat o
    (s.windowHit off len = true → off % 32 + len ≤ 32 →
      (e.owner = 1 ∨ e.owner = 3 → e.region.toNat < 5 → ∀ d, raw = encodeWord d →
        decodeWord raw = (.clean, raw, { data := d, poison := false }) →
        ∃ t, exec (.hostWindowRead off len) s = .next t ∧ t.mem = s.mem ∧
          t.out = s.out ++ [.hostReply (((leBytes 32 d.toNat).drop (o % 32)).take len) false]) ∧
      (¬(e.owner = 1 ∨ e.owner = 3) → ∃ t, exec (.hostWindowRead off len) s = .next t ∧ t.mem = s.mem ∧
        s.raised t 12 [.hostReply (List.replicate len 0) true] ∧ t.host.hostRefused = satInc s.host.hostRefused ∧
        t.host.ownValid = true ∧ (s.host.ownValid = false → t.host.ownPage = BitVec.ofNat 15 page ∧ t.host.ownWrite = false))) ∧
    (s.windowHit off bytes.length = true → off % 32 + bytes.length ≤ 32 →
      (e.owner = 1 → e.region.toNat < 5 → bytes.length = 32 → ∃ t, exec (.hostWindowWrite off bytes false) s = .next t ∧ t.out = s.out ∧
        t.mem.raw e.region.toNat o = encodeWord (BitVec.ofNat 256 (packBits 8 (bytes.map (·.toNat)))) ∧
        (∀ r a, r < 5 → dramKey r a ≠ dramKey e.region.toNat o ∨ ¬(r < 4 ↔ e.region.toNat < 4) → t.mem.raw r a = s.mem.raw r a)) ∧
      (e.owner = 1 → e.region.toNat < 5 → bytes.length < 32 → ∀ d, raw = encodeWord d →
        decodeWord raw = (.clean, raw, { data := d, poison := false }) →
        ∃ t, exec (.hostWindowWrite off bytes false) s = .next t ∧ t.out = s.out ∧
          t.mem.raw e.region.toNat o = encodeWord (mergeBytes (BitVec.ofNat 32 ((2 ^ bytes.length - 1) * 2 ^ (o % 32))) d
            (BitVec.ofNat 256 (packBits 8 (bytes.map (·.toNat)) * 256 ^ (o % 32))))) ∧
      (e.owner = 1 → e.region.toNat < 5 → ∃ t, exec (.hostWindowWrite off bytes true) s = .next t ∧
        t.mem.raw e.region.toNat o = poisonWord) ∧
      (e.owner ≠ 1 → ∃ t, exec (.hostWindowWrite off bytes false) s = .next t ∧ t.mem = s.mem ∧ s.raised t 12 [] ∧
        t.host.hostRefused = satInc s.host.hostRefused ∧ t.host.ownValid = true ∧
        (s.host.ownValid = false → t.host.ownPage = BitVec.ofNat 15 page ∧ t.host.ownWrite = true)))

/-- NOP_ECHO returns its `DATA`; MODULE_INFO writes the module's identity words and core map to the host or into `DATA` 8 to 15;
PAGE_MAP, PAGE_UNMAP and PAGE_RESIDENT change exactly the job pages they name; WINDOW_OWN the window entries it names (12 R368, R374 to
R376, R388, 10 R298).

The range check of `REGION` stands where log 85 has it. -/
def Obligations.InformationAndPageCommands : Prop :=
  ∀ (s : State) (src : CmdSrc) (c : Cmd), s.turn src c →
    let first := c.par 0 19
    let count := c.par 19 20
    let pages := fun (i : Instr) (new : Nat → BitVec 32 → BitVec 32) (checks : State → Cmd → List (Bool × BitVec 16)) =>
      s.runs i c checks fun u t => ({ u with erg := { u.erg with
        pages := (List.range count).foldl (fun p k => spSet 0 p (first + k) (new k (spGet 0 p (first + k)))) s.erg.pages } } :
          State).answered t c stOk 0 0
    (c.opc = 0x0001 → s.runs (.nopEcho src) c (fun s c => [(c.rsvBad [(0, 128)], stBadParam), s.stateCheck c])
      fun u t => u.answered t c stOk 0 (c.par 0 128)) ∧
    (c.opc = 0x0010 → s.runs (.moduleInfo src) c (fun s c => [(c.rsvBad [(0, 64)], stBadParam), s.stateCheck c]) fun u t =>
      (∀ q, c.src = .queue q → (u.dma (c.par 0 64)
        (leBytes 64 (packBits 32 ((List.range 5).map s.identReg) + 2 ^ 256 * s.ident.enabled.toNat))).answered t c stOk 0 0) ∧
      (∀ m, c.src = .mailbox m → c.orphan = false → ∃ v, (u.modMail m fun x => { x with data := v }).answered t c stOk 0 0 ∧
        (∀ i : Fin 8, v[i.val] = (s.mailbox m).data[i.val]) ∧
        ∀ i : Fin 8, v[8 + i.val] = (s.ident.enabled.setWidth 256).extractLsb' (32 * i.val) 32)) ∧
    (c.opc = 0x0102 → c.par 39 1 = 1 → pages (.pageMap src)
      (fun i e => BitVec.ofNat 32 (1 + 2 * bitsOf e.toNat 1 1 + 4 * c.par 40 4 + 64 * (c.par 44 18 + i))) checksPageMap) ∧
    (c.opc = 0x0102 → c.par 39 1 = 0 → pages (.pageUnmap src) (fun _ _ => 0) checksPageMap) ∧
    (c.opc = 0x0103 → pages (.pageResident src)
      (fun _ e => BitVec.ofNat 32 (e.toNat - 2 * bitsOf e.toNat 1 1 + 2 * c.par 39 1)) checksPageResident) ∧
    (c.opc = 0x0104 → s.runs (.windowOwn src) c checksWindow fun u t =>
      ({ u with host := { u.host with
        window := ((List.range (c.par 15 16)).map (c.par 0 15 + ·)).foldl (fun w k =>
          spSet WinEntry.reset w k
            { owner := BitVec.ofNat 2 (c.par 31 2),
              region := if c.par 33 1 = 1 then BitVec.ofNat 4 (c.par 34 4) else (spGet WinEntry.reset s.host.window k).region,
              ppn := if c.par 33 1 = 1 then BitVec.ofNat 18 (c.par 38 18 + (k - c.par 0 15))
                else (spGet WinEntry.reset s.host.window k).ppn }) s.host.window } } : State).answered t c stOk 0 0)

/-- LAUNCH starts each stream it names, Running at its half and word with halt cause, counters, comparators and flags 0 and its first issue
in the first even cycle after the acceptance; CORE_HALT halts each named Running or Waiting stream with cause 0x09; IMEM_LOAD makes the
named halves Loading, HALF_LOADED leaves a half Loaded with its tag and lines, and LAUNCH_COMPLETE answers a LAUNCH whose streams have
halted with nothing under way: with OK where no cause is above 0x01, else with the status of the lowest such cause, HUNG for 0x05,
INTERNAL for 0x0A, POISON_CONSUMED for 0x0D and BAD_STATE for every other; `FLAGS` is the OR of the streams' flags, and `DETAIL` shows the
lowest core of that cause (the lowest named one at OK) with its streams' causes, halves and program counters (05 R135, R141, R157, R158,
12 R368, R369, R373, R375, 13 R396). Where another LAUNCH has started a stream since, its end is the one kept.

CORE_HALT completes in one step by log 72. -/
def Obligations.StreamsStartHaltAndComplete : Prop :=
  ∀ (s : State) (src : CmdSrc) (c : Cmd), s.canon →
    (s.turn src c → c.opc = 0x0201 → s.runs (.launch src) c checksLaunch fun u t =>
      (∀ p ∈ s.physCores (c.par 0 224), ∀ k ∈ maskStreams (c.par 224 3),
        let i := 29 * streamNo k
        (t.core p).stream k = { (s.core p).stream k with
          state := .running, half := c.par (227 + i) 1 == 1, pc := BitVec.ofNat 12 (c.par (228 + i) 12), haltCause := 0,
          nextIssue := evenUp ((s.core p).cycle + 1), flags := 0, wdogCount := 0, lost := 0, counters := Vector.replicate 8 0,
          cmps := Vector.replicate 4 { limit := 0, counter := 0, mode := 0 }, nwatch := 0, step := c.step.getD 0,
          launch := some c.id }) ∧
      (∀ p k, ¬(p ∈ s.physCores (c.par 0 224) ∧ k ∈ maskStreams (c.par 224 3)) → (t.core p).stream k = (s.core p).stream k) ∧
      t.mem = u.mem ∧ t.erg = u.erg ∧ t.host.cmds = u.host.cmds) ∧
    (s.turn src c → c.opc = 0x0203 → ∃ (t v : State), exec (.coreHalt src) s = .next t ∧
      (firstFail [(c.rsvBad [(0, 224), (224, 3)], stBadParam), s.maskBad (c.par 0 224), s.stateCheck c] = none →
        v.answered t c stOk 0 0 ∧
        (∀ p ∈ s.physCores (c.par 0 224), ∀ k ∈ maskStreams (c.par 224 3),
          (v.core p).stream k = ((s.core p).stream k).haltAt ((s.core p).watchAt (s.core p).cycle) 0x09 ((s.core p).stream k).pc) ∧
        (∀ p k, ¬(p ∈ s.physCores (c.par 0 224) ∧ k ∈ maskStreams (c.par 224 3)) → (v.core p).stream k = (s.core p).stream k))) ∧
    (∀ d, s.turn src c → c.opc = 0x0200 → c.unused → c.par 243 13 ≤ 4 →
      let a := BitVec.ofNat 64 (c.par 262 64)
      let k := streamOf (c.par 224 2)
      let half := c.par 226 1 == 1
      s.jobStands → s.holds a d → s.runs (.imemLoad src) c checksImem fun u t =>
        (∀ p ∈ s.physCores (c.par 0 224), (t.core p).stream k = ((s.core p).stream k).setHalf half
          { ((s.core p).stream k).halfOf half with state := .loading, lines := [] }) ∧
        (∀ p j, ¬(p ∈ s.physCores (c.par 0 224) ∧ j = k) → (t.core p).stream j = (s.core p).stream j) ∧ t.mem = s.mem ∧
        t.host.cmds = (u.modCmd c.id fun _ => { c with phase := 1, got := [(0, { data := d, poison := false })] }).host.cmds) ∧
    (∀ (x : Cmd) (p : CoreId),
      let k := streamOf (x.par 224 2)
      let half := x.par 226 1 == 1
      let st := (s.core p.val).stream k
      s.host.cmds = [x] → x.opc = 0x0200 → x.started = true → x.phase = 1 → x.replied = false → x.bad = false →
      x.par 0 224 = 2 ^ s.logOf p.val → x.accA = 0 → x.par 256 1 = 0 → s.coreOn p.val = true → (st.halfOf half).state ≠ .empty →
      ∃ (t v : State), exec (.halfLoaded p k half) s = .next t ∧ v.answered t { x with accA := 2 ^ s.logOf p.val } stOk 0 0 ∧
        s.onlyCore { v with host := s.host } p.val ∧
        ((v.core p.val).stream k).halfOf half = { state := .loaded, tag := BitVec.ofNat 16 (x.par 227 16), lines := x.lines }) ∧
    (∀ (x : Cmd), s.host.cmds = [x] → x.src = src → x.opc = 0x0201 → x.started = true → x.replied = false → x.bad = false →
      (∀ y ∈ s.namedStreams x, ((s.core y.1).stream y.2).state = .halted ∧ (s.core y.1).streamBusy y.2 = false) →
      ∃ (t v : State), exec (.launchComplete src) s = .next t ∧
        v.answered t x (s.launchResult x).1 (s.launchResult x).2.1 (s.launchResult x).2.2 ∧
        (∀ p, (v.core p).rest = (s.core p).rest) ∧ v.mem = s.mem) ∧
    (∀ (x : Cmd),
      let ys := s.namedStreams x
      let st := fun (y : Nat × StreamId) => (s.core y.1).stream y.2
      let cause := fun (y : Nat × StreamId) => (st y).haltCause.toNat
      let r := s.launchResult x
      let shows := fun (p : Nat) => s.logOf p + (([StreamId.f, .b, .u].map fun k =>
        2 ^ (24 * streamNo k) * (2 ^ 8 * cause (p, k) + (if (st (p, k)).half then 2 ^ 16 else 0) + 2 ^ 17 * (st (p, k)).pc.toNat)).sum)
      (∀ y ∈ ys, (st y).launch = some x.id) →
      (∀ i : Fin 8, r.2.1.getLsbD i.val = ys.any fun y => (st y).flags.getLsbD i.val) ∧
      ((∀ y ∈ ys, cause y ≤ 1) → r.1 = 0x0000 ∧ ∀ p, (s.physCores (x.par 0 224)).head? = some p → r.2.2 = shows p) ∧
      (∀ y ∈ ys, 1 < cause y →
        (∀ z ∈ ys, 1 < cause z → cause y < cause z ∨ (cause y = cause z ∧ y.1 ≤ z.1)) →
        r.1 = (if cause y = 0x05 then 0x0031 else if cause y = 0x0A then stInternal else if cause y = 0x0D then stPoison else 0x0012) ∧
        r.2.2 = shows y.1))

/-- Qanat, by the head of an Active channel: a start that its checks allow begins the reads, one that they refuse or whose descriptor is
poisoned is a Fault at row 0; with its reads in, the rows are written, here a row of one word into the scratchpad, no earlier than the
fifth cycle after the QPUSH, and the read-done token is posted once every write is answered; its retirement posts the completion token,
takes it off its queue and gives its flags to its stream and its step (08 R231, R238, R239, R243 to R245, R257).

STREAM_RESUME: a Paged channel's head is started again (mode 0), discarded (mode 1), or all of its queue is (mode 2); a channel in
Fault only in modes 1 and 2; a discarded head's flags go to its stream and its step's report; any other channel answers BAD_STATE, and
mode 3 BAD_PARAM; no other channel changes (02 R55, 08 R254, R255, R257, 13 R399).

When the read-done token is posted is log 117. -/
def Obligations.QanatMovesAndResumes : Prop :=
  (∀ (s : State) (p : CoreId) (ch : Fin 4) (d : QDesc) (r : List QDesc), s.canon → s.coresRun = true → s.coreOn p.val = true →
    let x := s.chan p.val ch
    let f := d.fields
    x.state = .active → x.queue = d :: r → f.dst.kind ≠ 2 → (s.core p.val).remote = [] →
    (x.phase = .waiting →
      (d.poisoned = false → (s.descOk f d.ctx).1 = true → f.src.kind = 0 →
        exec (.qanatDescriptorStart p ch) s = .next (s.modChan p.val ch fun x => { x with phase := .reading, sums := [] })) ∧
      (d.poisoned = true ∨ (s.descOk f d.ctx).1 = false → ∃ t, exec (.qanatDescriptorStart p ch) s = .next t ∧ t.mem = s.mem ∧
        (t.chan p.val ch).state = .fault ∧ (t.chan p.val ch).lastStatus = (if d.poisoned then 0x0050 else 0x0011) ∧
        (t.chan p.val ch).queue = d :: r ∧ (t.chan p.val ch).moved = 0 ∧ (t.core p.val).spad = (s.core p.val).spad)) ∧
    (x.phase = .reading → x.waitingOn = [] → x.refused = [] → x.moved = 0 → f.rows = 1 → f.converts = false → f.plane = 0 →
      f.src.kind = 1 → f.dst.kind = 0 → f.n0 * qBits f.src.fmt = 256 → compBytes f.src.fmt f.n0 = 0 →
      ∀ w : Data, gotAt x.fetched (f.src.step (f.rowAddr f.src 0) 0).toNat = { data := w, poison := false } →
        ∃ t, exec (.qanatReadDone p ch) s = .next t ∧ t.mem = s.mem ∧ d.earliest ≤ (t.core p.val).cycle ∧
          (d.earliest ≤ (s.core p.val).cycle →
          (t.chan p.val ch).phase = .writing ∧ (t.chan p.val ch).state = .active ∧ (t.chan p.val ch).queue = d :: r ∧
          (f.rtokEn = true → (t.core p.val).inbound = (s.core p.val).inbound ++ [(f.rtok, 1)]) ∧
          (f.rtokEn = false → (t.core p.val).inbound = (s.core p.val).inbound) ∧
          (let n := (f.dst.step (f.rowAddr f.dst 0) 0).toNat / 32
           spGet 0 (t.core p.val).spad n = encodeWord w ∧ ∀ m, m ≠ n → spGet 0 (t.core p.val).spad m = spGet 0 (s.core p.val).spad m) ∧
          ∀ q, q ≠ p.val → t.core q = s.core q)) ∧
    (x.phase = .writing → x.waitingOn = [] → x.refused = [] →
      ∃ t, exec (.qanatDescriptorRetire p ch) s = .next t ∧ t.mem = s.mem ∧
        (t.chan p.val ch).queue = r ∧ (t.chan p.val ch).state = (if r = [] then .idle else .active) ∧
        (t.chan p.val ch).phase = .waiting ∧ (t.chan p.val ch).retired = x.retired + 1 ∧
        (∀ q, s.physOf (if f.cremote then f.ccore else s.logOf p.val) = some q → f.ctokEn = true →
          (t.core q).inbound = (s.core q).inbound ++ [(f.ctok, 1)]) ∧
        (f.ctokEn = false → ∀ q, (t.core q).inbound = (s.core q).inbound) ∧
        (spGet StepInfo.reset t.job.steps d.step.toNat).flags = (spGet StepInfo.reset s.job.steps d.step.toNat).flags ||| x.headFlags ∧
        ((t.core p.val).stream d.stream).flags = ((s.core p.val).stream d.stream).flags ||| x.headFlags)) ∧
  (∀ (s : State) (src : CmdSrc) (c : Cmd) (p : Nat), s.canon → s.turn src c → c.opc = 0x0202 → s.physOf (c.par 0 8) = some p →
    let ch : Fin 4 := ⟨c.par 8 2 % 4, Nat.mod_lt _ (by decide)⟩
    let x := s.chan p ch
    let others := fun (v : State) => v.mem = s.mem ∧ (∀ k, k ≠ ch → v.chan p k = s.chan p k) ∧ ∀ q, q ≠ p → v.core q = s.core q
    let flagged := fun (v : State) => ∀ d r, x.queue = d :: r →
      ((v.core p).stream d.stream).flags = ((s.core p).stream d.stream).flags ||| x.headFlags ∧
      (spGet StepInfo.reset v.job.steps d.step.toNat).flags = (spGet StepInfo.reset s.job.steps d.step.toNat).flags ||| x.headFlags
    (c.par 10 2 = 0 → s.runs (.streamResume src) c checksResume fun u t =>
      (x.state = .paged → ∃ v : State, v.answered t c stOk 0 0 ∧ others v ∧ v.chan p ch = { x with state := .active, phase := .waiting }) ∧
      (x.state ≠ .paged → u.answered t c stBadState 0 0)) ∧
    (c.par 10 2 = 1 → s.runs (.streamResumeDiscardHead src) c checksResume fun u t =>
      (x.state = .paged ∨ x.state = .fault → ∃ v : State, v.answered t c stOk 0 0 ∧ others v ∧ flagged v ∧ (v.chan p ch).queue = x.queue.drop 1 ∧
        (v.chan p ch).state = (if x.queue.length ≤ 1 then .idle else .active) ∧ (v.chan p ch).phase = .waiting) ∧
      (x.state ≠ .paged ∧ x.state ≠ .fault → u.answered t c stBadState 0 0)) ∧
    (c.par 10 2 = 2 → s.runs (.streamResumeDiscardAll src) c checksResume fun u t =>
      (x.state = .paged ∨ x.state = .fault → ∃ v : State, v.answered t c stOk 0 0 ∧ others v ∧ flagged v ∧ (v.chan p ch).queue = [] ∧
        (v.chan p ch).state = .idle) ∧
      (x.state ≠ .paged ∧ x.state ≠ .fault → u.answered t c stBadState 0 0)) ∧
    (c.par 10 2 = 3 → ∃ t, exec (.streamResume src) s = .next t ∧ (s.keepCmd c).answered t c stBadParam 0 0))

/-- MEM_FILL and MEM_COPY of one word of this module's DRAM, in a job that does not close (10 R300, R314): the destination takes the pattern eight times over, or the source's word;
every other DRAM word stays (12 R375).

CHECKPOINT and RESTORE of one word of this module: the image is a header word with the job, step, generation, length and checksum,
then the data; a restore whose checksum differs is CHECK_FAIL with the data in place, and one with `SET` commits its step (13 R410,
R411, 11 R340). -/
def Obligations.MemoryCommandsMoveTheirWord : Prop :=
  (∀ (s : State) (src : CmdSrc) (c : Cmd), s.canon → s.turn src c → c.unused → s.jobStands →
    (let a := BitVec.ofNat 64 (c.par 0 64)
     let d := BitVec.ofNat 256 (packBits 32 (List.replicate 8 (c.par 104 32)))
     c.opc = 0x0101 → c.par 64 40 = 32 → s.dramWord a true → cleanData d → s.runs (.memFill src) c checksFill fun _ t =>
       ∃ v : State, v.answered t c stOk 0 0 ∧ s.stores v a (encodeWord d) ∧ v.cores = s.cores ∧ v.out = s.out) ∧
    (let a := BitVec.ofNat 64 (c.par 0 64)
     let b := BitVec.ofNat 64 (c.par 64 64)
     ∀ d, c.opc = 0x0100 → c.par 128 40 = 32 → s.holds a d → s.dramWord b true → s.runs (.memCopy src) c checksCopy fun _ t =>
       ∃ v : State, v.answered t c stOk 0 0 ∧ s.stores v b (encodeWord d) ∧ v.cores = s.cores ∧ v.out = s.out)) ∧
  (∀ (s : State) (src : CmdSrc) (c : Cmd) (d : Data), s.canon → s.turn src c → c.unused → c.par 128 40 = 32 →
    let a := BitVec.ofNat 64 (c.par 0 64)
    let b := BitVec.ofNat 64 (c.par 64 64)
    let sum := ((List.range 8).foldl (fun (t : Int) k => t + ((k + 1 : Nat) : Int) * codeOf 32 true (bitsOf d.toNat (32 * k) 32)) 0
      % (2 ^ 61 - 1)).toNat
    (c.opc = 0x0405 → s.holds a d → s.dramWord b true → s.dramWord (adrAdd b 32) true →
      let h := BitVec.ofNat 256 (s.job.jobId.toNat + 2 ^ 32 * c.par 168 32 + 2 ^ 64 * s.ident.generation.toNat + 2 ^ 80 * 32 + 2 ^ 128 * sum)
      cleanData h → s.runs (.checkpoint src) c
        (fun s c => [(c.rsvBad [(0, 64), (64, 64), (128, 40), (168, 32)], stBadParam)] ++ s.genCheck c ++
          [(moveBad s c a b, stBadParam), s.stateCheck c])
        fun _ t => ∃ v : State, v.answered t c stOk 0 0 ∧ v.rawAt b = encodeWord h ∧ v.rawAt (adrAdd b 32) = encodeWord d ∧
          v.cores = s.cores ∧ v.job = s.job ∧
          ∀ r o, r < 5 → (dramKey r o ≠ dramKey (adr b 44 4) (adr b 0 44) ∧ dramKey r o ≠ dramKey (adr b 44 4) (adr b 0 44 + 32)) ∨
            ¬(r < 4 ↔ adr b 44 4 < 4) → v.mem.raw r o = s.mem.raw r o) ∧
    (∀ h, c.opc = 0x0406 → s.holds a h → s.holds (adrAdd a 32) d → s.dramWord b true → s.coll.waiting = [] →
      bitsOf h.toNat 0 32 = s.job.jobId.toNat → bitsOf h.toNat 32 32 = c.par 168 32 → bitsOf h.toNat 80 40 = 32 →
      s.touchesJournal b 32 = false ∨ s.job.begun = s.job.committed →
      (c.par 200 1 = 1 → s.job.begun = s.job.committed) →
      s.runs (.restore src) c
        (fun s c => [(c.rsvBad [(0, 64), (64, 64), (128, 40), (168, 32), (200, 1)], stBadParam)] ++ s.genCheck c ++
          [(moveBad s c b a, stBadParam), s.stateCheck c])
        fun _ t => ∃ v : State, s.stores v b (encodeWord d) ∧ v.cores = s.cores ∧
          (bitsOf h.toNat 128 61 ≠ sum → v.answered t c stCheckFail 0 0 ∧ v.job = s.job) ∧
          (bitsOf h.toNat 128 61 = sum → v.answered t c stOk 0 (bitsOf h.toNat 193 31) ∧
            (c.par 200 1 = 0 → v.job = s.job) ∧
            (c.par 200 1 = 1 → v.job.committed.toNat = c.par 168 32 ∧ v.job.begun = v.job.committed ∧
              ∀ q, (v.queue q).qstep = v.job.committed + 1))))

/-- JOB_OPEN, of a job of at most eight ranks whose context block and rank table are read clean: `STATE` 0x3 with the packet's `GEN`, the
job registers as the context gives them, both rank tables loaded, the streams at 0, every `QSTEP` at the first step, every token
counter 0, the key words zeroed; what it sends falls in one control cycle (13 R393, R394, 15 R451).

The local rank of `RANKTAB` is read by log 74. -/
def Obligations.JobOpenLoadsItsContext : Prop :=
  ∀ (s : State) (src : CmdSrc) (c : Cmd) (d0 d1 d2 d3 dr : Data), s.canon → s.turn src c → c.opc = 0x0400 →
    let a := BitVec.ofNat 64 (c.par 0 64)
    let x := packBits 256 [d0.toNat, d1.toNat, d2.toNat, d3.toNat]
    let rk := BitVec.ofNat 64 (bitsOf x 128 64)
    let nr := bitsOf x 48 13
    let entry := fun (r : Nat) => bitsOf dr.toNat (32 * r) 32
    let own := entry (bitsOf x 32 12)
    let first := bitsOf x 96 32
    s.holds a d0 → s.holds (adrAdd a 32) d1 → s.holds (adrAdd (adrAdd a 32) 32) d2 → s.holds (adrAdd (adrAdd (adrAdd a 32) 32) 32) d3 →
    s.dramWord (adrAdd a 96) true → ctxBad s x = false → nr ≤ 8 → s.holds rk dr →
    s.runs (.jobOpen src) c checksOpen fun u t =>
      (bitsOf own 31 1 ≠ 1 ∨ bitsOf own 0 12 ≠ s.ident.id.toNat → u.answered t c stBadParam 0 0) ∧
      (bitsOf own 31 1 = 1 → bitsOf own 0 12 = s.ident.id.toNat → ∃ v w : State, v.answered w c stOk 0 0 ∧ t = w.oneCycle s ∧
        v.ident = { s.ident with state := 0x3, generation := BitVec.ofNat 8 c.gen, jobOpen := true } ∧
        v.job.jobId.toNat = bitsOf x 0 32 ∧ v.job.rank.toNat = bitsOf x 32 12 ∧ v.job.nranks.toNat = nr ∧
        v.job.epoch.toNat = bitsOf x 64 8 ∧ v.job.inplace = (bitsOf x 72 1 == 1) ∧ v.job.committed.toNat = first - 1 ∧
        v.job.begun.toNat = first - 1 ∧ v.job.jbase.toNat = bitsOf x 288 19 ∧ v.job.jcount.toNat = bitsOf x 320 20 ∧
        v.job.scaleTab.toNat = bitsOf x 192 64 ∧ v.job.nscale.toNat = bitsOf x 256 14 ∧ v.job.xscale.toNat = bitsOf x 384 64 ∧
        v.job.nxscale.toNat = bitsOf x 448 22 ∧ v.job.trail.toNat = bitsOf x 512 64 ∧ v.job.key = d3 ∧ v.job.pendValid = false ∧
        v.job.fence = false ∧ v.erg.trunkRate.toNat = bitsOf x 80 16 ∧ v.erg.tx = [] ∧ v.erg.rx = [] ∧
        (∀ r, let e := if r < nr then BitVec.ofNat 32 (bitsOf (entry r) 0 12 + 2 ^ 31 * bitsOf (entry r) 31 1) else 0
          spGet 0 v.erg.rank0 r = e ∧ spGet 0 v.erg.rank1 r = e) ∧
        (∀ q, (v.queue q).qstep.toNat = first) ∧ (∀ p, s.coreOn p = true → (v.core p).tokens = Vector.replicate 32 0) ∧
        s.stores v (adrAdd a 96) (encodeWord 0))

/-- JOB_CLOSE, with no other command in hand and the cores' work done: `STATE` 0x4, no stream left Running or Waiting, every channel
empty, the engine's instances discarded; with no port Up and nothing unacknowledged its scrub follows at once, and by
TEARDOWN_TO_EXPIRY in any case. The scrub's end leaves `STATE` 0x2, no job, no page table, the pages and the cores' memories zero
(13 R415).

The scrub is over, with its effect, at JOB_CLOSE_SCRUB_DONE by log 81, and the streams it clears show cause 0 by log 51. Posts in
flight at its end are dropped by log 104 (DESIGN CHOICE). -/
def Obligations.JobCloseTearsDownAndScrubs : Prop :=
  (∀ (s : State) (src : CmdSrc) (c : Cmd), s.canon → s.turn src c → c.opc = 0x0401 → (s.keepCmd c).host.cmds = [c] → s.silent.replay = none →
    (∀ p k, (s.core p).streamBusy k = false) → s.upPlanes = 0 → (∀ x ∈ s.erg.tx, x.unacked = []) →
    ∃ t, exec (.jobClose src) s = .next t ∧
      (∀ st, firstFail (checksClose (s.keepCmd c) c) = some st → (s.keepCmd c).answered t c st 0 0) ∧
      (firstFail (checksClose (s.keepCmd c) c) = none →
        t.ident = { s.ident with state := 0x4 } ∧ t.job = { s.job with closingDown := true, steps := t.job.steps } ∧ t.mem = s.mem ∧
        (∀ p k, s.coreOn p = true → ((t.core p).stream k).state ≠ .running ∧ ((t.core p).stream k).state ≠ .waiting) ∧
        (∀ p ch, s.coreOn p = true → (t.chan p ch).queue = []) ∧
        t.coll.insts = [] ∧ t.coll.known = [] ∧ t.coll.contribs = [] ∧ t.coll.waiting = [] ∧ t.erg.parked = [] ∧ t.erg.reqs = [] ∧
        t.host.cmds = [{ c with phase := 5, progress := 4, accA := 0 }])) ∧
  (∀ (s : State) (c : Cmd), s.quietWaiter = some c → c.opc = 0x0401 →
    exec .teardownToExpiry s = .next (({ s with erg := { s.erg with quietBusy := false, probes := 0 } } : State).keepCmd
      { c with phase := 5, progress := 4, accA := 1 })) ∧
  (∀ (s : State) (c : Cmd), s.canon → (∀ d ∈ s.host.cmds, d.bad = false) →
    s.host.cmds.find? (fun c => c.started && c.opc == 0x0401 && c.phase == 5) = some c → c.replied = false →
    ∃ v w : State, exec .jobCloseScrubDone s = .next (w.oneCycle s) ∧ v.answered w c stOk 0 c.accA ∧
      v.ident = { s.ident with state := 0x2, jobOpen := false } ∧ v.job = { JobRegs.reset with teardownTo := s.job.teardownTo } ∧
      v.erg.pages = [] ∧ v.erg.rank0 = [] ∧ v.erg.rank1 = [] ∧ v.erg.tx = [] ∧ v.erg.rx = [] ∧ v.erg.trunkRate = 0 ∧
      v.coll = { Coll.reset with bktTo := s.coll.bktTo } ∧ v.silent.table = [] ∧ (∀ q, (v.queue q).qstep = 0) ∧
      (∀ n off, let e := (s.pageEntry n).toNat
        bitsOf e 0 1 = 1 → bitsOf e 2 4 ≤ 4 → off < 2 ^ 21 → v.mem.raw (bitsOf e 2 4) (2 ^ 21 * bitsOf e 6 18 + off) = 0) ∧
      (∀ p, s.coreOn p = true → (v.core p).spad = [] ∧ (v.core p).slabs = [] ∧ (v.core p).tokens = Vector.replicate 32 0 ∧ (v.core p).inbound = [] ∧ (v.core p).posts = [] ∧
        (v.core p).bank0.entries = [] ∧ (v.core p).bank1.entries = [] ∧
        ∀ k, ((v.core p).stream k).state = .idle ∧ ((v.core p).stream k).h0.state = .empty ∧ ((v.core p).stream k).h1.state = .empty))

/-- MODE_SET writes the pending change; STEP_COMMIT with `OP` 0 asks for the step's close and is ACCEPTED; the close writes the report
with the first status of R399 that applies and, at `LAYERS` 0 with no REPLAY armed, nothing else (13 R398 to R402).

STEP_COMMIT with `OP` 1, of a job without scale records: `LAST_COMMITTED` is the step, the journal pages are exchanged unless the
step commits in place, a pending change that starts with the step is current. STEP_ABORT, with no other command and nothing on its
way: the fence stands at the step, its work is discarded, `BEGUN` is `LAST_COMMITTED`, and `DETAIL` says whether a restore is needed;
with `PHASE` 1 the fence is gone (13 R402, R404, R407, R408).

The order of statuses where a rule gives none is that of log 22. A second close request of a step is BAD_STATE by log 35 (DEDUCED). -/
def Obligations.StepsCloseCommitAndAbort : Prop :=
  ((∀ (s : State) (src : CmdSrc) (c : Cmd), s.turn src c →
    (c.opc = 0x0402 → s.runs (.modeSet src) c checksMode fun u t =>
      ({ u with job := { u.job with
          pendValid := true, pendEpoch := BitVec.ofNat 8 (c.par 32 8),
          pendInplace := if c.par 40 1 = 1 then c.par 41 1 == 1 else u.job.inplace, pendStep := BitVec.ofNat 32 (c.par 0 32),
          pendTrunk := if c.par 42 1 = 1 then some (BitVec.ofNat 16 (c.par 43 16)) else none } } : State).answered t c stOk 0 0) ∧
    (c.opc = 0x0403 → c.par 32 1 = 0 → ∃ t, exec (.stepCloseRequest src) s = .next t ∧
      (firstFail (checksStep (s.keepCmd c) c) = none → s.job.committed.toNat < c.par 0 32 → c.par 0 32 ≤ s.job.committed.toNat + 2 →
        (spGet StepInfo.reset s.job.steps (c.par 0 32)).asked = false →
        ∃ v : State, v.answered t c stAccepted 0 0 ∧
          v.job.closing = s.job.closing ++
            [{ step := BitVec.ofNat 32 (c.par 0 32), src := c.src, seq := c.seq, sent := false, tags := [] }] ∧
          spGet StepInfo.reset v.job.steps (c.par 0 32) = { spGet StepInfo.reset s.job.steps (c.par 0 32) with asked := true } ∧
          v.mem = s.mem ∧ v.cores = s.cores ∧ v.out = s.out) ∧
      (firstFail (checksStep (s.keepCmd c) c) = none →
        s.job.committed.toNat ≥ c.par 0 32 ∨ c.par 0 32 > s.job.committed.toNat + 2 ∨
          (spGet StepInfo.reset s.job.steps (c.par 0 32)).asked = true →
        (s.keepCmd c).answered t c stBadState 0 0))) ∧
  (∀ (s : State) (k : Closing) (q : Fin 8), s.job.closing.find? (fun x => x.step == k.step) = some k → s.stepDone k.step = true →
    s.silent.fpLayers = 0 → s.silent.replay = none → k.src = .queue q → k.sent = false →
    let x := spGet StepInfo.reset s.job.steps k.step.toNat
    let st : BitVec 16 :=
      if x.poisonHalt || x.bstat1 then 0x0050 else if x.bstat2 then 0x0051 else if x.bstat3 then 0x0052
      else if x.timeout || x.bstat4 then 0x0030 else if x.hung then 0x0031 else if x.other then 0x0012
      else if x.flags &&& (flagSat ||| flagRange ||| flagAccOvf ||| flagXInexact) ≠ 0 then 0x0060 else 0
    let good := decide (st = 0 ∨ st = 0x0060)
    let det := k.step.toNat + 2 ^ 32 * (s.job.epochFor k.step).toNat + (if x.hallExact then 2 ^ 40 else 0)
      + (if x.hallArrival then 2 ^ 41 else 0) + (if good then 2 ^ 42 else 0) + (if s.job.inplaceFor k.step then 2 ^ 43 else 0)
      + 2 ^ 64 * x.nbad.toNat + 2 ^ 80 * x.nwatch.toNat + 2 ^ 96 * x.nhalt.toNat
    ∃ t, exec (.stepClose k.step) s = .next t ∧
      t = ((({ s with
          job := { s.job with closing := s.job.closing.filter fun c => c.step != k.step }, silent := t.silent,
          cycle := s.cycle.map fun m => { m with closed := k.step :: m.closed } } : State).postEntry q
          (cplEntry st 0x0403 k.seq 4 x.flags 0 det) true).modStep k.step fun x =>
            { x with reported := true, committable := good, status := st }) ∧
      t.silent = { s.silent with table := t.silent.table })) ∧
  (∀ (s : State) (src : CmdSrc) (c : Cmd), s.canon → s.turn src c →
    let step := BitVec.ofNat 32 (c.par 0 32)
    let n := step.toNat
    (c.opc = 0x0403 → c.par 32 1 = 1 → s.job.nscale = 0 → s.coll.waiting = [] →
      ∃ t, exec (.stepCommit src) s = .next t ∧
        (firstFail (checksStep (s.keepCmd c) c) = none → step = s.job.committed + 1 →
          (spGet StepInfo.reset s.job.steps n).reported = true → (spGet StepInfo.reset s.job.steps n).committable = true →
          s.silent.replay = none → ∃ v : State, v.answered t c stOk 0 0 ∧ v.mem = s.mem ∧ v.cores = s.cores ∧
            v.job.committed = step ∧ v.job.begun = (if s.job.worked then s.job.begun else step) ∧
            v.erg.pages = (if s.job.inplaceFor step then s.erg else s.erg.journal s.job.jbase.toNat s.job.jcount.toNat).pages ∧
            (s.job.pendValid = true → s.job.pendStep = step → v.job.epoch = s.job.pendEpoch ∧ v.job.inplace = s.job.pendInplace ∧
              v.job.pendValid = false ∧ v.erg.trunkRate = s.job.pendTrunk.getD s.erg.trunkRate) ∧
            (¬(s.job.pendValid = true ∧ s.job.pendStep = step) → v.job.epoch = s.job.epoch ∧ v.job.inplace = s.job.inplace ∧
              v.job.pendValid = s.job.pendValid ∧ v.erg.trunkRate = s.erg.trunkRate)) ∧
        (firstFail (checksStep (s.keepCmd c) c) = none → step ≠ s.job.committed + 1 ∨
          (spGet StepInfo.reset s.job.steps n).reported = false ∨ (spGet StepInfo.reset s.job.steps n).committable = false →
          (s.keepCmd c).answered t c stBadState 0 0)) ∧
    (c.opc = 0x0404 → c.par 32 1 = 0 → (s.keepCmd c).host.cmds = [c] → s.silent.replay = none →
      (∀ p k, (s.core p).streamBusy k = false) → s.upPlanes = 0 → (∀ x ∈ s.erg.tx, x.unacked = [] ∧ x.waiting = []) →
      ∃ t, exec (.stepAbort src) s = .next t ∧
        (firstFail (checksStep (s.keepCmd c) c) = none → step = s.job.committed + 1 →
          ∃ v : State, v.answered t c stOk 0 (if s.restoreNeeded step then 1 else 0) ∧ v.mem = s.mem ∧
            v.job.fence = true ∧ v.job.fenceStep = step ∧ v.job.begun = s.job.committed ∧ v.job.committed = s.job.committed ∧
            v.job.worked = false ∧ (∀ i ∈ v.coll.insts, i.id.step.toNat < n) ∧ (∀ i ∈ v.coll.contribs, i.id.step.toNat < n) ∧
            (∀ p ch, s.coreOn p = true → ∀ d ∈ (v.chan p ch).queue, d.step.toNat < n) ∧
            (∀ p k, s.coreOn p = true → n ≤ ((s.core p).stream k).step.toNat →
              ((v.core p).stream k).state ≠ .running ∧ ((v.core p).stream k).state ≠ .waiting)) ∧
        (firstFail (checksStep (s.keepCmd c) c) = none → step ≠ s.job.committed + 1 → (s.keepCmd c).answered t c stBadState 0 0)) ∧
    (c.opc = 0x0404 → c.par 32 1 = 1 → s.runs (.stepAbortFenceClear src) c checksStep fun u t =>
      ({ u with job := { u.job with fence := false, fenceStep := 0 } } : State).answered t c stOk 0 0))

/-- COLL_SETUP writes its table entry; EXCHANGE of one bucket reads its words and hands them to the exchange port as the contribution of
its step, and waits for the engine; SCALE_SET of one bucket writes Q with `SET` 1 into the bucket's scale entry and nothing else
(11 R319, R320, R322, R329).

A SCALE_SET that meets a record keeps its other bits by log 33. -/
def Obligations.CollectiveCommandsSetUpAndHandIn : Prop :=
  ∀ (s : State) (src : CmdSrc) (c : Cmd), s.canon → s.turn src c →
    (c.opc = 0x0300 → s.runs (.collSetup src) c checksColl fun u t =>
      ({ u with coll := { u.coll with table := spSet none u.coll.table (c.par 0 16) (some
        { cid := BitVec.ofNat 16 (c.par 0 16), kind := BitVec.ofNat 2 (c.par 16 2), fmt := BitVec.ofNat 4 (c.par 18 4),
          staged := c.par 22 1 == 1, nbkt := BitVec.ofNat 16 (c.par 23 16), ownerOnly := c.par 39 1 == 1,
          arrival := c.par 40 1 == 1, headroom := BitVec.ofNat 3 (c.par 41 3), rfirst := BitVec.ofNat 12 (c.par 44 12),
          rstep := BitVec.ofNat 12 (c.par 56 12), rcount := BitVec.ofNat 13 (c.par 68 13), sbase := BitVec.ofNat 21 (c.par 81 21),
          result := BitVec.ofNat 64 (c.par 102 64), rhdr := BitVec.ofNat 64 (c.par 166 64), tokCore0 := BitVec.ofNat 8 (c.par 230 8),
          tokBpc := BitVec.ofNat 16 (c.par 238 16), tokCtr := BitVec.ofNat 5 (c.par 254 5), frows := BitVec.ofNat 24 (c.par 259 24),
          frank := BitVec.ofNat 7 (c.par 283 7), gen := BitVec.ofNat 8 c.gen }) } } : State).answered t c stOk 0 0) ∧
    (∀ (e : CollEntry) (f : Nat → Data), c.opc = 0x0301 → c.unused → s.jobStands → c.par 32 16 = 1 → s.collEntry (BitVec.ofNat 16 (c.par 0 16)) = some e →
      e.kind ≠ 1 → e.fmt ≠ 11 → 0 < e.exchangeWords →
      let a := BitVec.ofNat 64 (c.par 48 64)
      (∀ i, i < e.exchangeWords → s.holds (adrAdd a (32 * i : Nat)) (f i)) →
      s.runs (.exchange src) c checksExchange fun u t => ∃ tag x,
        t.coll.contribs = u.coll.contribs ++ [x] ∧
        x = { id := { cid := e.cid, bucket := BitVec.ofNat 16 (c.par 16 16), step := c.step.getD 0 },
              words := (List.range e.exchangeWords).map fun i => encodeWord (f i), summary := none,
              epoch := s.job.epochFor (c.step.getD 0), issuer := .command c.id, tag := tag } ∧
        t.host.cmds = (u.modCmd c.id fun _ => { c with phase := 2, accA := 1, waits := [{ tag := tag, index := 0 }] }).host.cmds ∧
        t.mem = s.mem ∧ t.cores = s.cores ∧ t.out = s.out) ∧
    (∀ (e : CollEntry) (d : Data), c.opc = 0x0302 → c.par 32 16 = 1 → s.collEntry (BitVec.ofNat 16 (c.par 0 16)) = some e →
      let z := adr s.job.xscale 0 48 + 4 * (e.sbase.toNat + c.par 16 16)
      let w := BitVec.ofNat 64 (2 ^ 48 * adr s.job.xscale 48 16 + z / 32 * 32)
      z % 4 = 0 → z < 2 ^ 48 → s.holds w d → s.dramWord w true → s.runs (.scaleSet src) c checksScale fun _ t =>
        ∃ (v : State) (d' : Data), v.answered t c stOk 0 0 ∧ s.stores v w (encodeWord d') ∧ v.cores = s.cores ∧
          d'.extractLsb' (8 * (z % 32)) 32 = BitVec.ofNat 32 (c.par 48 16 + 65536) ∧
          ∀ i, (i < 8 * (z % 32) ∨ 8 * (z % 32) + 32 ≤ i) → d'.getLsbD i = d.getLsbD i)

/-- RANK_REMAP writes the shadow bank's rank entry; ROUTE_SWAP, with nothing Up, on its way or parked, exchanges the banks of both tables,
clears the `BOUNCED` masks and copies back where asked, in a control cycle that it shares with other commands only at that cycle's end
(log 82); a probe set that times out ends it with TIMEOUT and without a swap (10 R300 to
R304, 13 R412). -/
def Obligations.RoutesAreRemappedAndSwapped : Prop :=
  (∀ (s : State) (src : CmdSrc) (c : Cmd), s.canon → s.turn src c →
    (c.opc = 0x0407 → s.runs (.rankRemap src) c
      (fun s c => [(c.rsvBad [(0, 12), (12, 12), (24, 1)], stBadParam)] ++ s.genCheck c ++
        [(decide (s.job.nranks.toNat ≤ c.par 0 12) || c.par 0 12 == s.job.rank.toNat, stBadParam), s.stateCheck c,
         (s.erg.swapPending, stBusy)])
      fun u t =>
        let e := BitVec.ofNat 32 (c.par 12 12 + 2 ^ 31 * c.par 24 1)
        ({ u with erg := { u.erg with
            rank0 := if s.erg.active then spSet 0 u.erg.rank0 (c.par 0 12) e else u.erg.rank0,
            rank1 := if s.erg.active then u.erg.rank1 else spSet 0 u.erg.rank1 (c.par 0 12) e } } : State).answered t c stOk 0 0) ∧
    (c.opc = 0x0408 → (s.keepCmd c).host.cmds = [c] → s.upPlanes = 0 → (∀ x ∈ s.erg.tx, x.unacked = [] ∧ x.waiting = []) →
      s.erg.parked = [] → s.runs (.routeSwap src) c
      (fun s c => [(c.rsvBad [(0, 1)], stBadParam), s.stateCheck c, (s.erg.swapPending, stBusy)])
      fun _ t => (s.cycle ≠ none → t.erg = { s.erg with
          swapPending := true, copyback := c.par 0 1 == 1, quietBusy := true, probes := 0 } ∧
          t.host.cmds = [{ c with phase := 1, progress := 1 }]) ∧
        (s.cycle = none → ∃ v : State, v.answered t c stOk 0 0 ∧ v.erg.active = !s.erg.active ∧ v.erg.bounced = [] ∧
        v.erg.swapPending = false ∧ v.erg.quietBusy = false ∧
        (let now := fun {α : Type} (x y : α) => if s.erg.active then x else y
         c.par 0 1 = 1 → v.erg.rank0 = now s.erg.rank0 s.erg.rank1 ∧ v.erg.rank1 = now s.erg.rank0 s.erg.rank1 ∧
           v.erg.route0 = now s.erg.route0 s.erg.route1 ∧ v.erg.route1 = now s.erg.route0 s.erg.route1) ∧
        (c.par 0 1 = 0 → v.erg.rank0 = s.erg.rank0 ∧ v.erg.rank1 = s.erg.rank1 ∧ v.erg.route0 = s.erg.route0 ∧
          v.erg.route1 = s.erg.route1) ∧ v.mem = s.mem ∧ v.cores = s.cores))) ∧
  (∀ (s : State), s.erg.quietBusy = true → s.isQuiet = false →
    (s.quietWaiter = none → exec .quietToExpiry s = .next { s with erg := { s.erg with quietBusy := false, probes := 0 } }) ∧
    (∀ c, s.quietWaiter = some c → (∀ d ∈ s.host.cmds, d.bad = false) → c.replied = false → c.opc ≠ 0x0401 →
      ∃ t, exec .quietToExpiry s = .next t ∧
        ({ s with erg := { s.erg with
            quietBusy := false, probes := 0, swapPending := if c.opc = 0x0408 then false else s.erg.swapPending } } :
          State).answered t c stTimeout 0 (if c.mgmt || c.byNotar then 2 ^ 120 * c.progress.toNat else 0)))

/-- COMMAND_TIMEOUT writes the command's reply with TIMEOUT and keeps it as answered, after which a queue whose `ENABLE` is cleared may
be Disabled: a LAUNCH with its streams halted and counted for its step, a command that is not in the middle of accesses as it stands. COMPUTE_RESET, with no other command and the cores' work done, leaves every enabled core
at reset but for its memory log, its channels' heads having given their flags to their steps' reports, and the mailboxes of core
controllers Free (02 R55, 12 R377 to R379, 13 R399, R417, R418).

COMPUTE_RESET completes in one step by log 72. -/
def Obligations.TimeoutsAndComputeReset : Prop :=
  (∀ (s : State) (src : CmdSrc) (i : Nat) (c : Cmd),
    (s.host.cmds.filter fun c => c.src == src && c.started && !c.replied)[i]? = some c → s.quietWaiter = none →
    (c.opc = 0x0201 →
      let u := (s.haltStreams ((s.namedStreams c).filter fun x => ((s.core x.1).stream x.2).launch == some c.id)).launchStep c
      exec (.commandTimeout src i) s = .next ((((u.cmdOutcome c stTimeout).replyTo c
        (cplEntry stTimeout 0x0201 c.seq 0 (u.launchResult c).2.1 c.limit (u.launchResult c).2.2) stTimeout).keepCmd
          { c with replied := true, accA := 1 }).settleQueues)) ∧
    ((∀ o ∈ [0x0100, 0x0101, 0x0200, 0x0201, 0x0301, 0x0400, 0x0405, 0x0406, 0x0501, 0x0601], c.opc ≠ o) →
      exec (.commandTimeout src i) s = .next ((((s.cmdOutcome c stTimeout).replyTo c
        (cplEntry stTimeout (BitVec.ofNat 16 c.opc) c.seq 0 0 c.limit (if c.mgmt || c.byNotar then 2 ^ 120 * c.progress.toNat else 0))
        stTimeout).keepCmd { c with replied := true }).settleQueues))) ∧
  (∀ (s : State) (src : CmdSrc) (c : Cmd), s.canon → s.turn src c → c.opc = 0x0504 → (s.keepCmd c).host.cmds = [c] →
    (∀ p k, (s.core p).streamBusy k = false) → s.runs (.computeReset src) c
    (fun s c => [(c.rsvBad [], stBadParam), s.stateCheck c, (!(s.ident.state == 0x2 || s.ident.state == 0x3), stBadState)])
    fun _ t => ∃ v w z : State, v.answered w c stOk 0 0 ∧ t = w.oneCycle z ∧ (∃ o, z.out = s.out ++ o) ∧ v.ident = s.ident ∧
      v.mem = s.mem ∧ v.job = { s.job with steps := v.job.steps } ∧ v.erg = s.erg ∧
      (∀ p, s.coreOn p = true → v.core p =
        { Core.reset with log := { (s.core p).log with at_ := none }, draws := (s.core p).draws }) ∧
      (∀ n, (∀ p ch d r, s.coreOn p = true → (s.chan p ch).queue = d :: r → d.step.toNat ≠ n ∨ (s.chan p ch).headFlags = 0) →
        spGet StepInfo.reset v.job.steps n = spGet StepInfo.reset s.job.steps n) ∧
      (∀ p ch d r, s.coreOn p = true → (s.chan p ch).queue = d :: r →
        (spGet StepInfo.reset v.job.steps d.step.toNat).flags &&& (s.chan p ch).headFlags = (s.chan p ch).headFlags) ∧
      (∀ m : Fin 16, (s.mailbox m).state ≠ .free → 14 ≤ m.val ∨ 0x100 ≤ (s.mailbox m).sender.toNat →
        (v.mailbox m).state = .free ∧ (v.mailbox m).sender = 0) ∧
      (∀ m : Fin 16, m.val < 14 → (s.mailbox m).sender.toNat < 0x100 → v.mailbox m = s.mailbox m))

/-- REPLAY arms with a reference whose header names its step and `LAYERS`, and is ACCEPTED; REPLAY_DISARM ends an armed one with
BAD_STATE, but for one whose step closes in the same control cycle, where the close wins; DUMP_SAMPLE records its run, and DUMP_ACCESS_TIMEOUT marks a word unreadable and writes poison for it (13 R420, R421,
14 R431, R433).

The reference is read when REPLAY arms by log 34. REPLAY_DISARM with none armed answers OK by log 76 (DEDUCED). -/
def Obligations.ReplayAndDumpRun : Prop :=
  (∀ (s : State) (src : CmdSrc) (c : Cmd), s.canon → s.turn src c →
    (∀ f : Nat → Data, c.opc = 0x0501 → c.par 32 1 = 0 → c.unused → 0 < s.silent.fpLayers →
      let a := BitVec.ofNat 64 (c.par 64 64)
      let l := s.silent.fpLayers
      (∀ i, i ≤ l → s.holds (adrAdd a (32 * i : Nat)) (f i)) →
      s.runs (.replay src) c checksReplay fun _ t =>
        (bitsOf (f 0).toNat 0 32 = c.par 0 32 → bitsOf (f 0).toNat 96 13 = l → ∃ (v x : State) (r : Replay),
          v.answered x c stAccepted 0 0 ∧ t = { x with silent := { x.silent with replay := some r, replayStep := BitVec.ofNat 32 (c.par 0 32) } } ∧
          r.step = BitVec.ofNat 32 (c.par 0 32) ∧ r.ref = a ∧ r.kmask = BitVec.ofNat 4 (c.par 128 4) ∧ r.cmd.src = c.src ∧ r.cmd.raw = c.raw ∧
          (∀ i, i ≤ l → r.cmd.word i = { data := f i, poison := false }) ∧ v.mem = s.mem ∧ v.silent = s.silent) ∧
        (bitsOf (f 0).toNat 0 32 ≠ c.par 0 32 ∨ bitsOf (f 0).toNat 96 13 ≠ l →
          ∃ v : State, v.answered t c stBadParam 0 0 ∧ v.mem = s.mem ∧ v.silent = s.silent)) ∧
    (c.opc = 0x0501 → c.par 32 1 = 1 → s.runs (.replayDisarm src) c
      (fun s c => [(c.rsvBad [(0, 32), (32, 1), (64, 64), (128, 4)], stBadParam)] ++ s.genCheck c ++ [s.stateCheck c])
      fun u t =>
        (s.silent.replay = none → u.answered t c stOk 0 0) ∧
        (∀ r q, s.silent.replay = some r → r.cmd.src = .queue q → (s.queue q).held = [] → (s.queue q).cplFull = false →
          (s.closesNow r.step = true → u.answered t c stOk 0 0) ∧
          (s.closesNow r.step = false → ∃ (v : State) (el : Nat) (rest : List Out), v.answered t c stOk 0 0 ∧ v.silent.replay = none ∧
            (s.power.busMaster = true → v.out = s.out ++ .hostWrite ((s.queue q).cplBase.toNat + 32 * (s.queue q).cplTail.toNat)
              (leBytes 32 ((cplEntry stBadState 0x0501 r.cmd.seq 0 0 el 0).toNat + if (s.queue q).phase then 2 ^ 72 else 0)) false :: rest)))) ∧
    (c.opc = 0x0505 → s.runs (.dumpSample src) c checksDump fun _ t => ∃ r, t.silent.dump = some r ∧ r.cmd = c.id ∧
      r.dst = BitVec.ofNat 64 (c.par 0 64) ∧ r.slice = BitVec.ofNat 5 (c.par 64 5) ∧
      (∀ p, p ∈ r.cores ↔ p < 224 ∧ (c.par 69 224).testBit p = true) ∧ r.unread = [])) ∧
  (∀ (s : State) (r : DumpRun) (c : Cmd) (p : CoreId) (b : Fin 16) (j : Fin 128), s.canon → s.silent.dump = some r → p.val ∈ r.cores →
    s.cmdOf r.cmd = some c → c.opc = 0x0505 → c.replied = false →
    let k := 2048 * p.val + 128 * b.val + j.val
    k ∉ r.unread → ∃ t, exec (.dumpAccessTimeout p b j) s = .next t ∧
      t.silent = { s.silent with dump := some { r with unread := r.unread ++ [k], poisoned := r.poisoned.filter fun x => x != k } } ∧
      (let a := adrAdd r.dst (65536 * p.val + 4096 * b.val + 32 * j.val : Nat)
       s.dramWord a true → s.stores t a poisonWord))

/-- MARGIN_SET: the core's request stands; a rail that is at its offset and settled ends it at once, any other starts to move; once it
has settled the command ends, after a fall with the clock set. DIAG_PATROL records its run; its end leaves the tested cores at reset,
and OK or CHECK_FAIL with the counts (14 R436 to R440).

LINK_PATTERN locks its link and runs; its end gives OK without errors or lost lanes, else CHECK_FAIL, with the counts in
`LP_STATUS`, `LP_ERRORS` and `DETAIL`; the host interface's own link is down meanwhile (14 R441, R442).

What a patrol finds is a free value, its order that of log 78; the lock of a link under test is that of log 79. `PCORE` 224 and
above is BAD_PARAM by log 77 (DEDUCED). -/
def Obligations.MarginsPatrolsAndLinkPatterns : Prop :=
  ((∀ (s : State) (src : CmdSrc) (c : Cmd), s.turn src c →
    (c.opc = 0x0502 → s.runs (.marginSet src) c
      (fun s c => [(c.rsvBad [(0, 8), (8, 3), (11, 2)] || 4 < c.par 8 3, stBadParam),
        (decide (c.par 0 8 < 224) && !s.coreOn (c.par 0 8), stEngineFused), (decide (224 ≤ c.par 0 8), stBadParam), s.stateCheck c])
      fun u t =>
        let p := c.par 0 8
        let d : Fin 4 := ⟨p / 56 % 4, Nat.mod_lt _ (by decide)⟩
        let asked := spMod 0 s.silent.margins p fun e => BitVec.ofNat 5 (c.par 8 3 + bitsOf e.toNat 3 2 * 8)
        let clocked := spMod 0 asked p fun e => BitVec.ofNat 5 (bitsOf e.toNat 0 3 + c.par 11 2 * 8)
        let new := BitVec.ofNat 3 (({ s.silent with margins := asked } : Silent).wantedOffset d.val)
        (new = s.silent.voff[d] → s.silent.settled[d] = true →
          (({ u with silent := { u.silent with margins := clocked }, host := { u.host with
              cmds := (u.modCmd c.id fun _ => { c with phase := 1, progress := 1 }).host.cmds } } : State).record 0x0032 1
            [BitVec.ofNat 8 p, BitVec.ofNat 8 (c.par 8 3), BitVec.ofNat 8 (c.par 11 2), new.setWidth 8]).answered t c stOk 0 0) ∧
        (new ≠ s.silent.voff[d] ∨ s.silent.settled[d] = false →
          t.silent = { s.silent with
            margins := if new.toNat < s.silent.voff[d].toNat then asked else clocked, voff := s.silent.voff.set d new,
            settled := s.silent.settled.set d false } ∧
          t.host.cmds = (u.modCmd c.id fun _ => { c with
            phase := if new.toNat < s.silent.voff[d].toNat then 2 else 1,
            progress := if new.toNat < s.silent.voff[d].toNat then 0 else 1 }).host.cmds)) ∧
    (c.opc = 0x0500 → s.runs (.diagPatrol src) c checksPatrol fun u t => t = { u with silent := { u.silent with
      patrol := some { cmd := c.id, cores := maskPhys (c.par 0 224), test := BitVec.ofNat 16 (c.par 224 16),
                       reps := BitVec.ofNat 8 (c.par 240 8) } } })) ∧
  (∀ (s : State) (die : Fin 4) (c : Cmd), s.silent.settled[die] = false → (∀ d ∈ s.host.cmds, d.bad = false) → c.replied = false →
    s.host.cmds.find? (fun c => c.opc == 0x0502 && c.started && c.par 0 8 / 56 == die.val) = some c → c.par 0 8 < 224 →
    let p := c.par 0 8
    let clocked := spMod 0 s.silent.margins p fun e => BitVec.ofNat 5 (bitsOf e.toNat 0 3 + c.par 11 2 * 8)
    ∃ t, exec (.marginRailSettled die) s = .next t ∧
      (({ s with silent := { s.silent with
          settled := s.silent.settled.set die true, margins := if c.phase = 2 then clocked else s.silent.margins } } : State).record
        0x0032 1 [BitVec.ofNat 8 p, BitVec.ofNat 8 (c.par 8 3), BitVec.ofNat 8 (c.par 11 2), s.silent.voff[die].setWidth 8]).answered
          t c stOk 0 0) ∧
  (∀ (s : State) (r : PatrolRun) (c : Cmd), s.canon → s.silent.patrol = some r → s.cmdOf r.cmd = some c → c.replied = false →
    (∀ d ∈ s.host.cmds, d.bad = false) →
    let image := s.notar.patrolImage
    let items := if r.test = 0xFFFF then Config.patrolItems image else [r.test.toNat]
    let bad := s.patrolFailures image items r
    let first := bad.headD (0xFF, 0)
    ∃ (t v : State), exec .diagPatrolEnd s = .next t ∧
      v.answered t c (if bad = [] then stOk else stCheckFail) 0
        (r.cores.length * r.reps.toNat * items.length % 65536 + 2 ^ 16 * (bad.length % 65536) + 2 ^ 32 * first.1
          + 2 ^ 40 * (first.2 % 65536) + 2 ^ 64 * imageVersion image) ∧
      v.silent = { s.silent with patrol := none } ∧ v.mem = s.mem ∧
      (∀ p ∈ r.cores, v.core p = { Core.reset with log := { (s.core p).log with at_ := none }, draws := (s.core p).draws }) ∧
      (∀ p, p ∉ r.cores → v.core p = s.core p))) ∧
  ((∀ (s : State) (src : CmdSrc) (c : Cmd), s.turn src c → c.opc = 0x0503 → s.runs (.linkPattern src) c checksPattern fun u t =>
    t = { u with
      power := { u.power with endpoint := if c.par 0 4 = 3 ∧ s.power.endpoint = .ready then .starting else s.power.endpoint },
      silent := { u.silent with
        lpState := 1, lpClass := BitVec.ofNat 4 (c.par 0 4), lpIndex := BitVec.ofNat 8 (c.par 4 8), lpLock := true, lpErrors := 0,
        lpCmd := some c.id } }) ∧
  (∀ (s : State) (bits : BitVec 64) (errors : BitVec 32) (lanes : BitVec 8) (id : Nat) (c : Cmd), s.silent.lpCmd = some id →
    s.cmdOf id = some c → c.replied = false → (∀ d ∈ s.host.cmds, d.bad = false) →
    ∃ t, exec (.linkPatternEnd bits errors lanes) s = .next t ∧
      ({ s with
        power := { s.power with
          endpoint := if s.silent.lpClass = 3 ∧ s.power.endpoint = .starting then .ready else s.power.endpoint },
        silent := { s.silent with lpState := 2, lpLock := lanes == 0, lpErrors := errors, lpCmd := none } } : State).answered t c
        (if errors = 0 ∧ lanes = 0 then stOk else stCheckFail) 0 (bits.toNat + 2 ^ 64 * errors.toNat + 2 ^ 96 * lanes.toNat)))

/-- Firmware: a chunk is stored in the inactive bank, which becomes Written; a verification makes it Verified exactly where every check of
R476 passes, and answers the first that fails; an activation makes it the active bank, for management firmware with a restart; a burn
raises the fused security version to the active image's; every activation and burn, also one that a check ends, submits its IMAGE record;
a staging of an image that is read clean leaves the slot with its words, as a verification leaves it (16 R474 to R480, R492).

Digests, signatures and key hashes are free values by log 54; `OP` 3 of kind 3 verifies by log 58. The bound of a chunk is that of
log 57, the bank a failed verification leaves that of log 60, the status of management commands running at a restart that of log 62,
and the record of an OP 3 or 4 with a reserved kind that of log 133 (all DEDUCED). -/
def Obligations.FirmwareIsStagedVerifiedAndActivated : Prop :=
  ∀ (s : State) (src : CmdSrc) (c : Cmd), s.turn src c → c.opc = 0x0601 →
    let kind := c.fwKind
    let bank := !s.notar.active kind
    let x := s.notar.slot bank kind
    let kept := fun (op : Nat) (b : Bool) (st : BitVec 16) => (
      let w := (s.notar.slot b kind).words
      (s.keepCmd c).record 0x0010 2 ([BitVec.ofNat 8 kind, if b then 1 else 0, BitVec.ofNat 8 op] ++ leBytes 2 st.toNat ++
        leBytes 4 (imageField w 8 4) ++ leBytes 1 (imageField w 12 1) ++ imageBytes w 32 48))
    (∀ (f : Nat → Data) (m : Nat), c.fwOp = 0 → s.canon → c.unused →
      let a := BitVec.ofNat 64 (c.par 64 64)
      let head := putWords [] 0 ((List.range 10).map f)
      let words := putWords head 10 ((List.range m).map fun i => f (10 + i))
      m = (if imageLenOk head then imageLen head / 32 else 0) → (∀ i, i < 10 + m → s.holds (adrAdd a (32 * i : Nat)) (f i)) →
      s.runs (.fwUpdateStage src) c (fun s c => checksFw s c ++ [(!s.power.mainGood, stBadState)]) fun _ t =>
        let r := firstFail (imageChecks words kind (s.notar.svn kind) s.ident.stepping)
        ∃ v : State, v.answered t c (r.getD stOk) 0 0 ∧ v.mem = s.mem ∧ v.notar = { s.notar with slots := v.notar.slots } ∧
          v.notar.slot bank kind = { state := if r.getD stOk = stOk then .verified else .written, words := words } ∧
          ∀ k, k ≠ slotKey bank kind → spGet FwSlot.reset v.notar.slots k = spGet FwSlot.reset s.notar.slots k) ∧
    (c.fwOp = 1 → s.runs (.fwUpdateChunk src) c
      (fun s c => (c.par 64 24 % 32 != 0 || decide (2 ^ 23 + 320 < c.par 64 24), stBadParam) :: checksFw s c)
      fun u t =>
        let y : FwSlot := { state := .written, words := spSet 0 x.words (c.par 64 24 / 32) (BitVec.ofNat 256 (c.par 128 256)) }
        ({ u with notar := u.notar.setSlot bank kind y } : State).answered t c stOk 0 0) ∧
    (c.fwOp = 2 → s.runs (.fwUpdateVerify src) c checksFw fun _ t =>
      let r := firstFail (imageChecks x.words kind (s.notar.svn kind) s.ident.stepping)
      ∃ v : State, v.answered t c (r.getD stOk) 0 0 ∧ v.notar = s.notar.setSlot bank kind
        { x with state := if r.getD stOk = stOk then .verified else .written }) ∧
    (c.fwOp = 3 → ∃ t, exec (.fwUpdateActivate src) s = .next t ∧
      (∀ st, firstFail (checksFw (s.keepCmd c) c) = some st → (kept 3 (kind != 0 && bank) st).answered t c st 0 0) ∧
      (firstFail (checksFw (s.keepCmd c) c) = none →
        (x.state ≠ .verified ∨ (kind = 1 ∧ s.ident.state ≠ 0x0 ∧ s.ident.state ≠ 0x2) ∨ (kind = 3 ∧ s.silent.patrol ≠ none) →
          (kept 3 bank stBadState).answered t c stBadState 0 0) ∧
        (x.state = .verified → kind = 2 → ∃ v : State, v.answered t c stOk 0 0 ∧ v.notar = { s.notar with active2 := bank } ∧
          v.cairn = (kept 3 bank stOk).cairn) ∧
        (x.state = .verified → kind = 1 → s.ident.state = 0x0 ∨ s.ident.state = 0x2 → ∃ v w : State, v.answered w c stOk 0 0 ∧
          v.cairn = (kept 3 bank stOk).cairn ∧ v.notar = { s.notar with active1 := bank } ∧ t = w.restartFirmware ∧ t.notar.active1 = bank ∧ t.notar.m1 = some (imageDigest x.words) ∧ t.notar.fwRuns = true ∧ t.power.i3cOn = false ∧
          t.notar.doe.session = .none ∧ t.notar.mctp.session = .none ∧ t.mem = s.mem ∧ (∀ d ∈ t.host.cmds, d.mgmt = false)) ∧
        (x.state = .verified → kind = 3 → s.silent.patrol = none →
          let r := firstFail (imageChecks x.words 3 s.notar.svn3 s.ident.stepping)
          ∃ v : State, v.answered t c (r.getD stOk) 0 0 ∧ v.mem = s.mem ∧ v.cairn = (kept 3 bank (r.getD stOk)).cairn ∧
            (r.getD stOk = stOk → v.notar.active3 = bank ∧ v.notar.patrolOk = true)))) ∧
    (c.fwOp = 4 → ∃ t, exec (.fwUpdateBurn src) s = .next t ∧
      let b := s.notar.active kind
      let v4 := imageField (s.notar.slot b kind).words 12 1
      (∀ st, firstFail (checksFw (s.keepCmd c) c) = some st → (kept 4 (kind != 0 && b) st).answered t c st 0 0) ∧
      (firstFail (checksFw (s.keepCmd c) c) = none →
        (v4 ≤ (s.notar.svn kind).toNat → (kept 4 b stBadState).answered t c stBadState 0 0) ∧
        ((s.notar.svn kind).toNat < v4 → ∃ v : State, v.answered t c stOk 0 0 ∧ v.notar.slots = s.notar.slots ∧
          v.cairn = (kept 4 b stOk).cairn ∧ (v.notar.svn kind).toNat = min 63 v4)))

/-- Cairn: the oldest submission is written with the next serial, of its type, origin and payload, chained to the record before it, or
counted as suppressed after 64 of its type in a second; a seal is started by its timer and written once signed; the second's end
submits what it suppressed, before records of a higher origin of the same control cycle (16 R486 to R492).

ATTEST posts its body and a signature over it by the alias key asked for; CAIRN_READ posts the named records, or answers the serials; where
the host lets the module write (16 R485, R494).

`TIME` advances by free amounts by log 55; records wait for a seal under way by log 56; the power records that no limit holds are
those of log 37. That nothing is sent while Bus Master is off is log 120 (PRESUMED). -/
def Obligations.CairnWritesAndAnswers : Prop :=
  (∀ (s : State), s.power.stage ≠ .auxOff →
    (∀ e r, s.cairn.sealing = none → s.cairn.queue = e :: r →
      (unlimited e.type = false → 64 ≤ spGet 0 s.cairn.second e.type.toNat → exec .cairnRecordWrite s = .next { s with
        cairn := { s.cairn with queue := r, suppressed := spMod 0 s.cairn.suppressed e.type.toNat (· + 1) } }) ∧
      (unlimited e.type = true ∨ spGet 0 s.cairn.second e.type.toNat < 64 → ∃ (t : State) (x : BitVec 2048),
        exec .cairnRecordWrite s = .next t ∧ t.cairn.queue = r ∧ t.cairn.next = s.cairn.next + 1 ∧
        t.cairn.slots = spSet none s.cairn.slots (slotOf s.cairn.next.toNat) (some x) ∧
        x.extractLsb' 0 64 = s.cairn.next ∧ x.extractLsb' 64 16 = e.type ∧ x.extractLsb' 80 8 = BitVec.ofNat 8 e.payload.length ∧
        x.extractLsb' 88 8 = e.origin ∧ x.extractLsb' 96 32 = s.cairn.boot ∧
        x.extractLsb' 128 64 = BitVec.ofNat 64 (s.cairn.time.toNat + Config.freeValue 7 s.free) ∧
        x.extractLsb' 256 384 = BitVec.ofNat 384 (packBits 8 ((digestBytes
          (if s.cairn.next = 0 then none else s.cairn.digest (s.cairn.next.toNat - 1))).map (·.toNat))) ∧
        x.toNat / 2 ^ 640 = packBits 8 (e.payload.map (·.toNat)) % 2 ^ 1408 ∧
        (t.cairn.sealing.isSome = true ↔ (64 ≤ s.cairn.unsealed + 1 ∨ e.type = 0x0001)))) ∧
    (s.cairn.sealing = none → s.cairn.unsealed ≠ 0 → ∃ t, exec .sealTimerExpiry s = .next t ∧ t.cairn.sealing.isSome = true ∧
      t = { s with cairn := { s.cairn with sealing := t.cairn.sealing } }) ∧
    (∀ x, s.cairn.sealing = some x → ∃ (t : State) (r : BitVec 2048), exec .sealSigned s = .next t ∧
      t.cairn.slots = spSet none s.cairn.slots (slotOf s.cairn.next.toNat) (some r) ∧ t.cairn.next = s.cairn.next + 1 ∧
      t.cairn.sealed_ = s.cairn.next ∧ t.cairn.unsealed = 0 ∧ t.cairn.sealing = none ∧ r.extractLsb' 0 1280 = x.body) ∧
    (s.cairn.suppressed = [] → exec .suppressionSecondEnd s = .next { s with
      free := s.free + 1,
      cairn := { s.cairn with
        time := BitVec.ofNat 64 (s.cairn.time.toNat + Config.freeValue 7 s.free), second := [], suppressed := [] } }) ∧
    (s.cairn.suppressed ≠ [] → s.cairn.queue.length < 32 → ∃ t e a b, exec .suppressionSecondEnd s = .next t ∧
      s.cairn.queue = a ++ b ∧ t.cairn.queue = a ++ e :: b ∧ (s.cycle = none → b = []) ∧
      (∀ x r, b = x :: r → e.origin.toNat < x.origin.toNat) ∧ e.type = 0x00F0 ∧ e.origin = 0 ∧ t.cairn.suppressed = [] ∧ t.cairn.second = [])) ∧
  (∀ (s : State) (src : CmdSrc) (c : Cmd), s.turn src c →
    (c.opc = 0x0600 → s.runs (.attest src) c
      (fun s c => [(c.rsvBad [(0, 256), (256, 64), (320, 1)] || c.fromRmc, stBadParam), s.stateCheck c,
        (c.par 320 1 == 1 && s.notar.m2.isNone, stBadState)])
      fun u t =>
        let blocks := (u.measureBlocks 0xFF).flatten
        let body := attestContext ++ leBytes 32 (c.par 0 256) ++ leBytes 4 blocks.length ++ leBytes 8 s.cairn.next.toNat ++ leBytes 4 0 ++ blocks
        let sig := beBytes 96 (Config.ecdsaSign (s.notar.leaf (c.par 320 1)) (Config.sha384 body) s.notar.nonces).toNat
        ({ u with notar := { u.notar with nonces := s.notar.nonces + 1 },
                  out := s.out ++ if s.power.busMaster then [.hostWrite (c.par 256 64) (body ++ sig) false] else [] } : State).answered t c stOk 0 0) ∧
    (c.opc = 0x0602 → c.par 0 1 = 0 → s.runs (.cairnRead src) c
      (fun s c => [(c.rsvBad readFields || c.fromRmc || c.par 128 13 == 0 || 4096 < c.par 128 13
        || decide (s.cairn.next.toNat ≤ c.par 64 64), stBadParam), s.stateCheck c])
      fun u t =>
        let l := s.cairn.readList (c.par 64 64) (c.par 128 13)
        let posted := (List.range l.length).map fun i =>
          Out.hostWrite (c.par 192 64 + 256 * i) (leBytes 256 ((s.cairn.recordAt (l.getD i 0)).getD 0).toNat) false
        ({ u with out := s.out ++ if s.power.busMaster then posted else [] } : State).answered t c stOk 0 (l.headD 0 + 2 ^ 64 * l.length)) ∧
    (c.opc = 0x0602 → c.par 0 1 = 1 → s.runs (.cairnReadStatus src) c
      (fun s c => [(c.rsvBad readFields, stBadParam), s.stateCheck c])
      fun u t => u.answered t c stOk 0 (s.cairn.next.toNat + 2 ^ 64 * max 4096 (s.cairn.next.toNat - 258048))))

/-- The steps of start-up and power-off, each in its place: AUX on, the straps sampled, the firmware ready, `MAIN_ON` taken or refused,
rails, training, the fill's end with the memories zero, every mailbox Free and `STATE` 0x1 turned into 0x2 where the microcode passes,
the endpoint; a failed step and an
orderly power-off begin the power-off, whose end is `STATE` 0x0 with its cause (15 R449, R455 to R463, 09 R272, 16 R477).

The stages are the model's own by log 7; digests and signatures are free values by log 54. Limits and throttle levels are taken at
the release of the cores by log 44, `PD_ON` is 0x3 from AUX_POWER_ON on by log 119, and the mailboxes are Free at the release by log
132 (all DEDUCED). -/
def Obligations.StartUpAndPowerOffSteps : Prop :=
  ∀ (s : State),
    (∀ x, s.power.stage = .auxOff → exec (.auxPowerOn x) s = .next { s with
      cairn := { s.cairn with boot := s.cairn.boot + 1, time := 0 }, notar := { s.notar with udsLocked := false },
      power := { s.power with stage := .auxRising, auxGood := true, pdOn := 0x3 } }) ∧
    (∀ x, s.power.stage = .auxRising → ∃ t, exec (.oscStable x) s = .next t ∧ t.power.stage = .island ∧ t.power.slotStrap = x ∧
      t.power.pdOn = 0x3 ∧ t.notar.udsLocked = true ∧ t.mem = s.mem ∧ t.ident = s.ident ∧
      (firstFail (imageChecks (s.notar.slot s.notar.active1 1).words 1 s.notar.svn1 s.ident.stepping) = none → t.notar.fwRuns = true ∧
        t.notar.active1 = s.notar.active1 ∧ t.notar.m1 = some (imageDigest (s.notar.slot s.notar.active1 1).words))) ∧
    (s.power.i3cOn = false → s.power.stage ≠ .auxOff → s.power.stage ≠ .auxRising → exec .firmwareReady s = .next { s with
      power := { s.power with i3cOn := true, stage := if s.power.stage = .island then .standby else s.power.stage },
      out := if s.power.dynAddr = 0 ∧ s.power.hotJoinOn = true then s.out ++ [.hotJoin] else s.out }) ∧
    (∀ mV ppm, s.i3cUp = true → s.power.mainUp = false → ∃ t, exec (.mainOn mV ppm) s = .next t ∧
      t.power.thermTripN = true ∧
      (s.ident.state = 0x0 → s.power.stage = .standby → 53000 ≤ mV → mV ≤ 63000 → (∃ x, ppm = some x ∧ x ≤ 300) → s.notar.fwRuns = true →
        t.power.stage = .rails ∧ t.power.comingUp = true ∧ t.power.mainOn = true ∧ t.power.mainErr = s.power.mainErr ∧
        t.power.refSrc = true ∧ t.power.clocksStopped = true ∧ t.power.level = Vector.replicate 4 0 ∧ t.power.byTemp = false ∧
        t.power.byPower = false) ∧
      (s.ident.state ≠ 0x0 ∨ mV < 53000 ∨ 63000 < mV ∨ (∀ x, ppm = some x → 300 < x) ∨ s.notar.fwRuns = false →
        t.power.mainErr = true ∧ t.power.mainOn = false ∧ t.power.stage = s.power.stage)) ∧
    (s.power.stage = .rails → ∃ t, exec .mainRailsGood s = .next t ∧ t.power.stage = .training ∧ t.ident.state = 0x1 ∧
      t.power.pwrGood = true ∧ t.power.mainGood = true ∧ t.power.pllLock = 0x7F ∧ t.power.pdOn = 0xFFFFF ∧
      t.power.endpoint = (if s.power.perstLow then .held else .starting) ∧ t.mem = s.mem) ∧
    (s.power.stage = .training → exec .memoryTrainingDone s = .next { s with
      power := { s.power with stage := .filling },
      mem := { s.mem with fillActive := true, fillDone := false, fillProgress := 0 } }) ∧
    (s.power.stage = .filling → ∃ t, exec .fillComplete s = .next t ∧
      (firstFail (imageChecks (s.notar.slot s.notar.active2 2).words 2 s.notar.svn2 s.ident.stepping) = none →
        t.power.stage = .on ∧ t.ident = { s.ident with state := if s.ident.state = 0x1 then 0x2 else s.ident.state } ∧
        (∀ m, (t.mailbox m).state = .free) ∧ t.mem.fillDone = true ∧ t.mem.fillActive = false ∧
        (∀ r o, t.mem.raw r o = 0) ∧ t.notar.m2 = some (imageDigest (s.notar.slot s.notar.active2 2).words) ∧
        (s.power.comingUp = true → t.power.hostLimit = 2200 ∧ t.power.rmcLimit = 2200 ∧ t.power.level = Vector.replicate 4 0 ∧
          t.power.byTemp = false ∧ t.power.byPower = false)) ∧
      (firstFail (imageChecks (s.notar.slot s.notar.active2 2).words 2 s.notar.svn2 s.ident.stepping) ≠ none →
        t.power.stage = .goingOff ∧ t.power.offReason = 7 ∧ t.power.mainErr = true)) ∧
    (s.power.endpoint = .starting → ¬(s.silent.lpState = 1 ∧ s.silent.lpClass = 3) → exec .endpointReady s = .next { s with
      power := { s.power with endpoint := .ready } }) ∧
    (∀ u, s.power.stage = .rails ∨ s.power.stage = .training ∨ s.power.stage = .filling → ∃ t, exec (.startupStepFailed u) s = .next t ∧
      t.power.stage = .goingOff ∧ t.power.offReason = 7 ∧ t.power.mainErr = true ∧ t.power.mainOn = false ∧ t.cores = []) ∧
    (s.rmcUp = true → s.power.mainUp = true → ∃ t, exec .orderlyPowerOff s = .next t ∧ t.power.stage = .goingOff ∧
      t.power.offReason = 1 ∧ t.power.mainOn = false ∧ t.power.endpoint = .held ∧ t.ident.jobOpen = false ∧ t.cores = [] ∧
      t.erg = Fabric.reset ∧ t.coll = Coll.reset) ∧
    (s.power.stage = .goingOff → ∃ t, exec .mainPowerOffComplete s = .next t ∧ t.power.stage = .standby ∧
      t.power.offCause = s.power.offReason ∧ t.ident = { s.ident with state := 0x0 } ∧ t.power.pwrGood = false ∧
      t.power.mainGood = false ∧ t.power.refSrc = false ∧ t.power.pdOn = 0x3 ∧ t.notar.m2 = none) ∧
    (s.power.stage ≠ .auxOff → ∃ t, exec .auxLost s = .next t ∧ t.power.stage = .auxOff ∧ t.cores = [] ∧ t.mem = Mem.reset ∧
      t.ident = { s.ident with
        slot := 0, rack := 0, hall := 0, coordLock := false, id := 0, state := 0x0, jobOpen := false, generation := 0 } ∧
      t.host.cmds = [] ∧ t.cairn.queue = [] ∧ t.cairn.sealing = none ∧ t.notar.slots = s.notar.slots ∧ t.notar.m1 = none)

/-- Protections, sensors, throttling and PERST_N: each protection limit that is passed begins the power-off with its cause; readings go
into their registers, of each source the highest, and a second one at a trip temperature trips; an evaluation steps the levels; the fast path, the power brake and
its release, and its pulses; PERST_N's pulse, its hold and its release; a second cause of a power-off in the control cycle of the first
stands where it is the lower and none is 1 (15 R444, R448, R457, R460, R463 to R470, 17 R505, R506).

Which cause is kept is log 65, and when the switch of the reference is over log 118. That PERST_N clears Memory Space and Bus Master
is log 120, and the MSI-X table after it log 6 (both PRESUMED); the length of a pulse that PERST_N_ASSERT and the brake give is an
operand by log 112. -/
def Obligations.ProtectionsThrottlesAndPerst : Prop :=
  ∀ (s : State),
    (s.power.mainUp = true →
      (∀ mV, mV < 51000 → ∃ t, exec (.inputUndervoltage mV) s = .next t ∧ t.power.stage = .goingOff ∧ t.power.offReason = 2) ∧
      (∀ mV, 64000 < mV → mV ≤ 75000 → ∃ t, exec (.inputOvervoltage mV) s = .next t ∧ t.power.stage = .goingOff ∧ t.power.offReason = 3) ∧
      (∀ mA, 45000 < mA → ∃ t, exec (.overCurrent mA) s = .next t ∧ t.power.stage = .goingOff ∧ t.power.offReason = 4) ∧
      (∃ t, exec .refclkLost s = .next t ∧ t.power.stage = .goingOff ∧ t.power.offReason = 6 ∧ t.power.refclkOk = false)) ∧
    (s.power.mainUp = false → ∀ mV, mV < 51000 →
      (s.cycle.any (·.off) = true → exec (.inputUndervoltage mV) s = .next { s with power := { s.power with
        offReason := if s.power.offReason = 1 ∨ 2 < s.power.offReason.toNat then 2 else s.power.offReason } }) ∧
      (s.cycle.any (·.off) = false → exec (.inputUndervoltage mV) s = .next s)) ∧
    (∀ mV, 75000 < mV → exec (.inputOvervoltage mV) s = .fault .beyondAbsoluteMaximum) ∧
    (s.power.mainGood = true → ∃ t, exec .railLeavesRegulation s = .next t ∧ t.power = { s.power with mainGood := false, pwrGood := false } ∧
      t.out = (if s.power.pwrGood then s.out ++ [.pin .pwrGood false] else s.out) ∧ t.mem = s.mem ∧ t.cores = s.cores) ∧
    (∀ (i : Fin 12) (l : List (BitVec 12)), (∃ k, k < sensorsOf i.val ∧ highest i.val l = l.getD k 0) ∧
      ∀ k, k < sensorsOf i.val → degOf (l.getD k 0) ≤ degOf (highest i.val l)) ∧
    (∀ (r : Readings), s.notarUp = true → ∃ t, exec (.sensorRead r) s = .next t ∧
      let x := fun (i : Fin 12) => if s.power.mainBusy = true ∨ i.val = 10 then highest i.val (r.temps.getD i.val []) else 0
      t.power.vin = r.vin ∧ t.power.pin = r.pin ∧ t.power.vaux = r.vaux ∧ t.power.paux = r.paux ∧
      (∀ i : Fin 12, t.power.temp[i] = x i) ∧ t.power.overLimit = decide (s.power.effLimit.toNat < r.pin.toNat) ∧
      t.power.energy = BitVec.ofNat 64 (s.power.energy.toNat + r.energy) ∧
      (∀ i : Fin 12, t.power.tripped[i] = (s.power.nearTrip[i] && decide (tripAt i.val ≤ degOf (x i)))) ∧
      ((∃ i : Fin 12, s.power.nearTrip[i] = true ∧ tripAt i.val ≤ degOf (x i)) → t.power.thermTripN = false ∧
        (s.power.mainUp = true → t.power.stage = .goingOff ∧ t.power.offReason = 5)) ∧
      ((∀ i : Fin 12, degOf (x i) < tripAt i.val) → t.power.thermTripN = s.power.thermTripN ∧
        t.power.stage = s.power.stage)) ∧
    (s.notarUp = true → s.power.tripping = false → ∃ t, exec .throttleEvaluation s = .next t ∧
      t.power.effLimit.toNat = s.power.lowerLimit ∧
      ∀ d : Fin 4,
        let k := s.power.level[d].toNat
        let hot := (sourcesOf d.val).any fun i => decide (throttleAt i.val ≤ degOf s.power.temp[i])
        let aboveLimit := decide (s.power.lowerLimit < s.power.pin.toNat)
        let cool := (sourcesOf d.val).all (fun i => decide (degOf s.power.temp[i] < releaseBelow i.val))
          && decide (100 * s.power.pin.toNat < 98 * s.power.lowerLimit)
        (s.power.brake = true → t.power.level[d] = 6) ∧
        (s.power.brake = false → hot = true ∨ aboveLimit = true → t.power.level[d].toNat = min 6 (k + 1)) ∧
        (s.power.brake = false → hot = false → aboveLimit = false → cool = true → 9 ≤ s.power.calm[d] → t.power.level[d].toNat = k - 1) ∧
        (s.power.brake = false → hot = false → aboveLimit = false → cool = false ∨ s.power.calm[d] < 9 → t.power.level[d] = s.power.level[d])) ∧
    (s.notarUp = true → s.power.tripping = false → ∃ t, exec .powerFastPath s = .next t ∧ t.power.byPower = true ∧ t.power.pmEvent.getLsbD 5 = true ∧
      ∀ d : Fin 4, t.power.level[d].toNat = max 4 s.power.level[d].toNat) ∧
    (s.power.brake = false → s.notarUp = true → s.power.tripping = false → ∃ t, exec .pwrBrakeAssert s = .next t ∧ t.power.brake = true ∧ t.power.byBrake = true ∧
      t.power.pmEvent.getLsbD 4 = true ∧ ∀ d : Fin 4, t.power.level[d] = 6) ∧
    (s.power.brake = false → s.notarUp = true → s.power.tripping = true → ∃ t, exec .pwrBrakeAssert s = .next t ∧ t.power.brake = true ∧
      t.power.byBrake = s.power.byBrake ∧ t.power.pmEvent.getLsbD 4 = true ∧ t.power.level = s.power.level) ∧
    (∀ ns, s.power.brake = false → s.notarUp = true → 2000 ≤ ns → ∃ t, exec (.perstNAssert { brake := true, ns := ns }) s = .next t ∧
      t.power.brake = false ∧ t.power.byBrake = false ∧ t.power.pmEvent.getLsbD 4 = true ∧
      t.power.level = (if s.power.tripping = true then s.power.level else Vector.replicate 4 6)) ∧
    (∀ ns, s.power.brake = true → 2000 ≤ ns → exec (.perstNAssert { brake := true, ns := ns }) s = .next s) ∧
    (exec .pwrBrakeRelease s = .next { s with power := { s.power with brake := false, byBrake := false } }) ∧
    (∀ b ns, ns < 1000 → exec (.perstNAssert { brake := b, ns := ns }) s = .next s) ∧
    (∀ ns, (2000 ≤ ns → exec (.perstNAssert { brake := false, ns := ns }) s = .next { s with
        power := { s.power with perstLow := true, perstTaken := true, endpoint := .held, memSpace := false, busMaster := false },
        host := { s.host with msix := [], pba := 0, winPages := 32768 } }) ∧
      (1000 ≤ ns → ns < 2000 → ∃ t, exec (.perstNAssert { brake := false, ns := ns }) s = .next t ∧ t.free = s.free + 1 ∧ t.mem = s.mem ∧ t.cores = s.cores ∧
        (t.power = s.power ∧ t.host = s.host ∨
          t.power = { s.power with perstLow := true, perstTaken := true, endpoint := .held, memSpace := false, busMaster := false } ∧
          t.host = { s.host with msix := [], pba := 0, winPages := 32768 }))) ∧
    (s.power.perstLow = true → s.power.perstTaken = true → s.power.stage = .on ∨ s.power.stage = .training ∨ s.power.stage = .filling →
      ∃ t, exec .perstNHoldExpiry s = .next t ∧ t.power.stage = .training ∧ t.ident.state = 0x1 ∧ t.ident.jobOpen = false ∧
        t.ident.generation = 0 ∧ t.cores = [] ∧ t.mem = Mem.reset ∧ t.erg = Fabric.reset ∧ t.host.cmds = []) ∧
    (s.power.perstLow = true → exec .perstNRelease s = .next { s with power := { s.power with
      perstLow := false, perstTaken := false,
      endpoint := if s.power.mainGood = true ∧ s.power.stage ≠ .goingOff then .starting else s.power.endpoint } })

/-- The patrol scrubber and the stop on an internal fault: a read of the pass corrects its word in place and moves the pass on; an expired
period starts the next pass or marks the running one overdue; a changed period starts a fresh pass; an internal fault leaves `STATE` 0xF
and its record (09 R272 to R275, 13 R390).

A period written again with its value goes on by log 42. -/
def Obligations.ScrubsAndInternalFault : Prop :=
  ∀ (s : State), s.canon →
    (s.mem.fillDone = true → s.power.stage = .on →
      (s.mem.bdPeriod ≠ 0 → s.mem.bdPos < 4 * 2 ^ 29 → ∃ t, exec (.patrolScrubRead .bonded) s = .next t ∧
        let r := s.mem.bdPos / 2 ^ 29
        let o := s.mem.bdPos % 2 ^ 29 * 32
        t.mem.raw r o = (decodeWord (s.mem.raw r o)).2.1 ∧
        (∀ a b, dramKey a b ≠ dramKey r o ∨ 4 ≤ a → t.mem.raw a b = s.mem.raw a b) ∧
        (s.mem.bdPos + 1 < 4 * 2 ^ 29 → t.mem.bdPos = s.mem.bdPos + 1 ∧ t.mem.bdPasses = s.mem.bdPasses) ∧
        (s.mem.bdPos + 1 = 4 * 2 ^ 29 → t.mem.bdPasses = s.mem.bdPasses + 1 ∧ t.mem.bdLate = (s.mem.bdLate || s.mem.bdOver))) ∧
      (s.mem.lpPeriod ≠ 0 → s.mem.lpPos < 2 ^ 25 * s.ident.lpddrGib.toNat → ∃ t, exec (.patrolScrubRead .lpddr6) s = .next t ∧
        t.mem.raw 4 (s.mem.lpPos * 32) = (decodeWord (s.mem.raw 4 (s.mem.lpPos * 32))).2.1 ∧
        (s.mem.lpPos + 1 < 2 ^ 25 * s.ident.lpddrGib.toNat → t.mem.lpPos = s.mem.lpPos + 1))) ∧
    (s.mem.bdPeriod ≠ 0 → exec (.scrubPeriodExpiry .bonded) s = .next { s with mem := { s.mem with
      bdPos := if 4 * 2 ^ 29 ≤ s.mem.bdPos then 0 else s.mem.bdPos, bdOver := decide (s.mem.bdPos < 4 * 2 ^ 29) } }) ∧
    (let n := 2 ^ 25 * s.ident.lpddrGib.toNat
     s.mem.lpPeriod ≠ 0 → exec (.scrubPeriodExpiry .lpddr6) s = .next { s with mem := { s.mem with
      lpPos := if n ≤ s.mem.lpPos then 0 else s.mem.lpPos, lpOver := decide (s.mem.lpPos < n) } }) ∧
    (∀ v : Reg, s.linked = true → ∃ t, exec (.scrubCtrlWrite v) s = .next t ∧
      t.mem.bdPeriod = v.extractLsb' 0 16 ∧ t.mem.lpPeriod = v.extractLsb' 16 16 ∧
      (v.extractLsb' 0 16 ≠ 0 → v.extractLsb' 0 16 ≠ s.mem.bdPeriod → t.mem.bdPos = 0 ∧ t.mem.bdOver = false) ∧
      (v.extractLsb' 16 16 ≠ 0 → v.extractLsb' 16 16 ≠ s.mem.lpPeriod → t.mem.lpPos = 0 ∧ t.mem.lpOver = false) ∧
      t.mem.bonded = s.mem.bonded ∧ t.mem.lpddr = s.mem.lpddr) ∧
    (∀ st u info, s.ident.state = 0x1 ∨ s.ident.state = 0x2 ∨ s.ident.state = 0x3 → s.cairn.queue.length < 32 →
      ∃ t e a b, exec (.internalFault st u info) s = .next t ∧ t.ident = { s.ident with state := 0xF } ∧ t.mem = s.mem ∧ t.cores = s.cores ∧
        s.cairn.queue = a ++ b ∧ t.cairn.queue = a ++ e :: b ∧ (s.cycle = none → b = []) ∧
        (∀ x r, b = x :: r → e.origin.toNat < x.origin.toNat) ∧ e.type = 0x0030 ∧ e.origin = 1)

/-- Links: the expected frame is taken, a failing one is answered with its number each time that it fails; a negative acknowledgement
replays the buffer from its frame, and after four replays sends the link into Recovery; training brings it Up with its buffer sent again,
and then what waits in its lanes, management first, then responses, then requests and collectives by turns; the retrain budget's end,
PORT_EN, RETRAIN and FORCE_DOWN move it as the rules say (10 R286 to R289, R315, R316).

The replay buffer's end is that of log 18; credits come back when the block idles (log 111). -/
def Obligations.LinksFollowTheirFramesAndControls : Prop :=
  ∀ (s : State) (p : Fin 16),
    let q := s.port p
    let frames := fun (l : List (BitVec 12 × ErgPacket)) => l.map fun e => Out.frame p.val e.1 e.2
    (q.lstate = .up →
      (∀ (n : BitVec 12) (f : FrameCheck),
        let counted := { q with fecCorr := satAdd q.fecCorr f.corr, fecUncorr := satAdd q.fecUncorr f.uncorr }
        let failed := { counted with crcFail := satInc q.crcFail, discarding := true }
        (f.crcOk = true → n = q.rxSeq → exec (.linkFrame p n f) s = .next (s.modPort p fun _ =>
          { counted with rxSeq := q.rxSeq + 1, discarding := false })) ∧
        (f.crcOk = true → n ≠ q.rxSeq → exec (.linkFrame p n f) s = .next (s.modPort p fun _ => counted)) ∧
        (f.crcOk = false → q.discarding = false ∨ n = q.rxSeq →
          exec (.linkFrame p n f) s = .next ((s.modPort p fun _ => failed).send (.nak p.val q.rxSeq))) ∧
        (f.crcOk = false → q.discarding = true → n ≠ q.rxSeq → exec (.linkFrame p n f) s = .next (s.modPort p fun _ => failed))) ∧
      (∀ n, let l := q.replayBuf.dropWhile fun e => e.1 != n
        let tries := if q.failSeq = n then q.fails else 0
        l ≠ [] → ∃ t, exec (.linkNak p n) s = .next t ∧
          (tries < 4 → t.port p = { q with fails := tries + 1, failSeq := n, replays := satInc q.replays } ∧ t.out = s.out ++ frames l) ∧
          (4 ≤ tries → (t.port p).lstate = .recovery ∧ (t.port p).replayBuf = q.replayBuf ∧
            (t.port p).recoveries = satInc q.recoveries))) ∧
    (q.lstate = .training ∨ q.lstate = .recovery → ∃ t, exec (.linkTrainingComplete p) s = .next t ∧ (t.port p).lstate = .up ∧
      (∃ more, t.out = s.out ++ frames q.replayBuf ++ more) ∧
      (q.queued = 0 → t.port p = { q with lstate := .up, laneLock := 0xFF, fails := 0, discarding := false } ∧
        t.out = s.out ++ frames q.replayBuf) ∧
      (let first := fun (v : Fin 4) => ∀ pkt rest, q.lanes[v] = pkt :: rest →
         ∃ more, t.out = s.out ++ frames q.replayBuf ++ .frame p.val q.txSeq pkt :: more
       (q.ready 3 = true → first 3) ∧ (q.ready 3 = false → q.ready 1 = true → first 1) ∧
       (q.ready 3 = false → q.ready 1 = false → q.ready 0 = true → q.collTurn = false ∨ q.ready 2 = false → first 0) ∧
       (q.ready 3 = false → q.ready 1 = false → q.ready 2 = true → q.collTurn = true ∨ q.ready 0 = false → first 2))) ∧
    (q.lstate = .recovery → ∃ t, exec (.retrainBudgetExpiry p) s = .next t ∧ (t.port p).lstate = .down ∧ (t.port p).replayBuf = [] ∧
      (t.port p).queued = 0 ∧
      ∀ j, j ≠ p → t.port j = s.port j) ∧
    (s.linked = true →
      (∀ v : BitVec 16, ∃ t, exec (.portEn v) s = .next t ∧ t.erg.portEn = v ∧
        (v.getLsbD p.val = true → s.erg.portEn.getLsbD p.val = false → s.ident.coordLock = true →
          (t.port p).lstate = if q.forceDown then .down else .training) ∧
        (v.getLsbD p.val = false → s.erg.portEn.getLsbD p.val = true → (t.port p).lstate = .off) ∧
        (v.getLsbD p.val = s.erg.portEn.getLsbD p.val → t.port p = q)) ∧
      (q.lstate = .down ∨ q.lstate = .up → ∃ t, exec (.retrain p) s = .next t ∧
        (t.port p).lstate = (if q.forceDown then .down else .training) ∧ ∀ j, j ≠ p → t.port j = s.port j) ∧
      (q.lstate ≠ .down → q.lstate ≠ .up → exec (.retrain p) s = .next s) ∧
      (q.lstate ≠ .off → ∃ t, exec (.forceDown p true) s = .next t ∧ (t.port p).lstate = .down ∧ (t.port p).forceDown = true) ∧
      (exec (.forceDown p false) s = .next (s.modPort p fun q => { q with forceDown := false })))

/-- Erg packets: each gives its credits back as it is consumed, whatever the other lanes hold; one that 01 R27, 10 R292 or R314 drops is
only counted; a WRITE in order stores its words, the bytes it names, and is acknowledged; a READ in
order is answered with its words; READ_DATA and STATUS reach the unit that waits, and NO_ROUTE parks its access; an ACK takes what it
covers off its stream and completes its WRITEs; QUIET clears its plane's probe; BOUNCE marks its plane and sends the packet again, or
answers for it; an ACK of the control cycle in which its link enters Down still counts; the header word holds every field at its bits
(10 R288, R290 to R312).

Packets before the lock are counted while main power is good by log 52. -/
def Obligations.ErgPacketsAreServed : Prop :=
  ∀ (s : State) (p : Fin 16) (pkt : ErgPacket), s.canon →
    let h := pkt.hdr
    let rx := s.erg.rxOf h.src 0xFFFF
    let tag := h.csum.toNat % 65536
    let freed : Out := .credits p.val h.vl pkt.size
    let falls := s.cycle.any fun k => k.downs.contains p.val
    let hears := s.takes p pkt ∨ (falls = true ∧ s.dropCounter pkt = none)
    let back : List Out := if falls then [] else [freed]
    (∀ row ∈ [(Instr.write, [0x01]), (Instr.read, [0x02]), (Instr.readData, [0x08]), (Instr.status, [0x09]), (Instr.ack, [0x0A]),
        (Instr.quiet, [0x30]), (Instr.bounce, [0x31]), (Instr.upData, [0x10, 0x11]), (Instr.upMeta, [0x14]), (Instr.downData, [0x12, 0x13]),
        (Instr.downMeta, [0x15]), (Instr.back, [0x16]), (Instr.resendReq, [0x17]), (Instr.redo, [0x18]), (Instr.arriveData, [0x19]),
        (Instr.arriveMeta, [0x1A])],
      ∀ k, s.receives p = true → h.opc.toNat ∈ row.2 → s.dropCounter pkt = some k →
        exec (row.1 p pkt) s = .next ((s.ergCount k).send freed)) ∧
    (∀ region off : Nat, s.takes p pkt → h.seq = rx.x → rx.held = [] →
      (∀ (ws : List Data) (old : Nat → Data), h.opc = 0x01 → pkt.payload = ws.map encodeWord → h.len.toNat = ws.length →
        (∀ w ∈ ws, cleanData w) → s.reaches h ws.length region off true →
        let mask := fun (i : Nat) => writeMask ws.length i (bitsOf h.csum.toNat 16 5) (bitsOf h.csum.toNat 21 5)
        (∀ i, i < ws.length → mask i ≠ 0xFFFFFFFF → s.wordAt region (off + 32 * i) = encodeWord (old i) ∧ cleanData (old i)) →
        ∃ t, exec (.write p pkt) s = .next t ∧ (t.erg.rxOf h.src 0xFFFF).x = rx.x + 1 ∧ t.coll = s.coll ∧ t.job = s.job ∧
          (∀ i w, ws[i]? = some w → t.wordAt region (off + 32 * i) =
            if h.psn.getLsbD i then poisonWord else if mask i = 0xFFFFFFFF then encodeWord w else encodeWord (mergeBytes (mask i) (old i) w)) ∧
          (∀ r o, r < 5 ∨ r = 8 → o < s.regionSize r → r ≠ region ∨ (∀ i, i < ws.length → o / 32 ≠ off / 32 + i) →
            t.wordAt r o = s.wordAt r o) ∧
          (region < 5 → t.cores = s.cores ∧ ((s.usable h.src).getLsbD p.val = true → s.sendsAt p 1 → h.psn = 0 →
            ∃ y : ErgPacket, t.out = s.out ++ [freed, .frame p.val (s.port p).txSeq y] ∧
              y.hdr.opc = 0x0A ∧ y.hdr.dst = h.src ∧ y.hdr.seq = rx.x + 1))) ∧
      (∀ ds : List Data, h.opc = 0x02 → pkt.payload = [] → h.len = 0 → ds.length = bitsOf h.csum.toNat 26 6 + 1 →
        s.reaches h ds.length region off false →
        (∀ q, region = 8 → s.physOf (off / 2 ^ 21) = some q → (s.core q).writes = [] ∧ (s.core q).ues = [] ∧ (s.core q).remote = []) →
        (∀ i d, ds[i]? = some d → s.wordAt region (off + 32 * i) = encodeWord d ∧ cleanData d) →
        ∃ t, exec (.read p pkt) s = .next t ∧ (t.erg.rxOf h.src 0xFFFF).x = rx.x + 1 ∧ t.mem = s.mem ∧
          (∀ r o, r < 5 ∨ r = 8 → o < s.regionSize r → t.wordAt r o = s.wordAt r o) ∧ (region < 5 → t.cores = s.cores) ∧
          ((s.usable h.src).getLsbD p.val = true → s.sendsAt p (ds.length + 2) → ∃ x y : ErgPacket,
            t.out = s.out ++ [freed, .frame p.val (s.port p).txSeq x, .frame p.val ((s.port p).txSeq + 1) y] ∧
            x.hdr.opc = 0x08 ∧ x.hdr.dst = h.src ∧ x.payload = ds.map encodeWord ∧ x.hdr.csum = h.csum &&& 0xFFFF ∧ y.hdr.opc = 0x0A))) ∧
    (∀ (a : ErgAccess) (c : Nat) (ch : Fin 4) (row : Nat) (r : List (Nat × Nat)), s.takes p pkt → s.erg.reqOf tag = some a →
      a.issuer = .qanat c ch.val → (s.chan c ch).waitingOn.find? (fun w => w.1 == a.tag) = some (a.tag, row) → (s.chan c ch).refused = [] →
      (s.chan c ch).waitingOn.filter (fun w => w.1 != a.tag) = r →
      (∀ ds, h.opc = 0x08 → a.opc = 0x02 → a.rlen.toNat + 1 = ds.length → packetCarries pkt ds → ∃ t, exec (.readData p pkt) s = .next t ∧
        t.chan c ch = { s.chan c ch with
          waitingOn := r,
          fetched := (s.chan c ch).fetched ++ (List.range ds.length).map fun i => (a.addr.toNat + 32 * i, { data := ds.getD i 0, poison := false }) } ∧
        (∀ b ∈ t.erg.reqs, b.tag ≠ a.tag) ∧ t.mem = s.mem) ∧
      (h.opc = 0x09 → h.addr.extractLsb' 0 16 ≠ stNoRoute → r ≠ [] → ∃ t, exec (.status p pkt) s = .next t ∧
        t.chan c ch = { s.chan c ch with waitingOn := r, refused := [(row, h.addr.extractLsb' 0 16, a.addr)] } ∧
        (∀ b ∈ t.erg.reqs, b.tag ≠ a.tag) ∧ t.mem = s.mem) ∧
      (h.opc = 0x09 → h.addr.extractLsb' 0 16 = stNoRoute → (∀ b ∈ s.erg.parked, b.tag ≠ a.tag) →
        ∃ t, exec (.status p pkt) s = .next t ∧ t.erg.parked = s.erg.parked ++ [a] ∧ t.erg.reqs = s.erg.reqs ∧ t.cores = s.cores)) ∧
    (hears → h.opc = 0x0A → s.erg.quietBusy = false →
      let x := s.erg.txOf h.src (h.addr.extractLsb' 32 16)
      x.waiting = [] → (∀ r ∈ x.unacked, r.access = none) → ∃ t, exec (.ack p pkt) s = .next t ∧
        (t.erg.txOf h.src (h.addr.extractLsb' 32 16)).unacked = x.unacked.filter (fun r => !ackCovers h.seq h.csum r.pkt.hdr.seq) ∧
        t.mem = s.mem ∧ t.cores = s.cores ∧ t.out = s.out ++ back) ∧
    (∀ (a : ErgAccess) (c : Nat) (ch : Fin 4) (row : Nat) (r : List (Nat × Nat)) (u : Retained), hears → h.opc = 0x0A →
      s.erg.quietBusy = false →
      let x := s.erg.txOf h.src (h.addr.extractLsb' 32 16)
      x.waiting = [] → x.unacked.filter (fun r => ackCovers h.seq h.csum r.pkt.hdr.seq) = [u] → u.access = some a → a.opc = 0x01 →
      (∃ b ∈ s.erg.reqs, b.tag = a.tag) → a.issuer = .qanat c ch.val →
      (s.chan c ch).waitingOn.find? (fun w => w.1 == a.tag) = some (a.tag, row) → (s.chan c ch).refused = [] →
      (s.chan c ch).waitingOn.filter (fun w => w.1 != a.tag) = r → ∃ t, exec (.ack p pkt) s = .next t ∧
        t.chan c ch = { s.chan c ch with waitingOn := r } ∧ (∀ b ∈ t.erg.reqs, b.tag ≠ a.tag) ∧ t.mem = s.mem ∧ t.out = s.out ++ back) ∧
    (s.takes p pkt → h.opc = 0x30 → h.src = s.ident.id → h.dst = s.ident.id →
      let rest := s.erg.probes &&& ~~~ BitVec.ofNat 16 (2 ^ p.val)
      (s.erg.quietBusy = false ∨ rest ≠ 0 → exec (.quiet p pkt) s = .next { s with
        erg := { s.erg with probes := rest }, out := s.out ++ [freed] }) ∧
      (s.erg.quietBusy = true → rest = 0 → (∀ x ∈ s.erg.tx, x.unacked = [] ∧ x.waiting = []) → s.quietWaiter = none →
        exec (.quiet p pkt) s = .next { s with erg := { s.erg with probes := 0, quietBusy := false }, out := s.out ++ [freed] })) ∧
    (s.takes p pkt → h.opc = 0x31 → h.src = s.ident.id →
      let marked := spMod 0 s.erg.bounced h.dst.toNat fun m => m ||| BitVec.ofNat 16 (2 ^ p.val)
      let u : State := { s with erg := { s.erg with bounced := marked }, out := s.out ++ [freed] }
      (h.bopc = 0x0A → exec (.bounce p pkt) s = .next u) ∧
      (h.bopc = 0x09 → exec (.bounce p pkt) s = .next (u.respond p.val
        { pkt with hdr := { h with opc := 0x09, vl := 1, bopc := 0 } })) ∧
      (h.bopc = 0x08 → exec (.bounce p pkt) s = .next (u.applyRequest p.val (bouncedRead h) [])) ∧
      (∀ r, h.bopc = 0x01 ∨ h.bopc = 0x02 ∨ 0x10 ≤ h.bopc.toNat →
        let sid : BitVec 16 := if 0x10 ≤ h.bopc.toNat then h.addr.extractLsb' 32 16 else 0xFFFF
        let x := s.erg.txOf h.dst sid
        x.unacked.find? (fun r => r.pkt.hdr.seq == h.seq) = some r →
        r.resends < (if s.erg.resendMax = 0 then 16 else s.erg.resendMax.toNat) → ∃ t, exec (.bounce p pkt) s = .next t ∧
          t.erg.bounced = marked ∧ t.erg.cnt[6] = satInc s.erg.cnt[6] ∧ t.mem = s.mem ∧
          (t.erg.txOf h.dst sid).unacked =
            x.unacked.map fun r => if r.pkt.hdr.seq = h.seq then { r with resends := r.resends + 1 } else r)) ∧
    ErgHdr.ofWord h.word = h

/-- The router's timers and bad packets: an ACK timer sends the ACK that is owed; a resend timer sends its packet again or, after the last
resend, gives it up and sends what waits in its place; a parked access that has waited too long is refused with NO_ROUTE; a packet that 10 R292 drops and one with an
uncorrectable header are counted, the latter with its log and record (10 R292, R296, R302, R309, R310, 09 R280).

What HDR_UE logs is log 66. -/
def Obligations.ErgTimersAndBadPackets : Prop :=
  ∀ (s : State),
    (∀ (src : BitVec 12) (sid : BitVec 16) (p : Fin 16),
      let r := s.erg.rxOf src sid
      (r.plane = none → exec (.ackTimerExpiry src sid) s = .next s) ∧
      (r.plane = some p.val → (s.usable src).getLsbD p.val = true → s.sendsAt p 1 →
      ∃ (t : State) (y : ErgPacket), exec (.ackTimerExpiry src sid) s = .next t ∧ (t.erg.rxOf src sid).sinceAck = 0 ∧
        (t.erg.rxOf src sid).plane = (r.received.find? fun q => decide (64 < (q.1 - r.x).toNat)).map (·.2) ∧
        t.out = s.out ++ [.frame p.val (s.port p).txSeq y] ∧ y.hdr.opc = 0x0A ∧ y.hdr.dst = src ∧ y.hdr.seq = r.x ∧ t.mem = s.mem)) ∧
    (∀ (dst : BitVec 12) (sid : BitVec 16) (seq : BitVec 32) (r : Retained), s.erg.quietBusy = false →
      let x := s.erg.txOf dst sid
      let most := if s.erg.resendMax = 0 then 16 else s.erg.resendMax.toNat
      x.unacked.find? (fun r => r.pkt.hdr.seq == seq) = some r →
      (r.resends < most → ∃ t, exec (.resendTimerExpiry dst sid seq) s = .next t ∧ t.erg.cnt[6] = satInc s.erg.cnt[6] ∧
        (t.erg.txOf dst sid).unacked = x.unacked.map (fun r => if r.pkt.hdr.seq = seq then { r with resends := r.resends + 1 } else r) ∧
        t.mem = s.mem) ∧
      let left := x.unacked.filter fun r => r.pkt.hdr.seq != seq
      (most ≤ r.resends → r.access = none → x.waiting = [] → exec (.resendTimerExpiry dst sid seq) s = .next { s with
        erg := s.erg.putTx { x with unacked := left } }) ∧
      (most ≤ r.resends → r.access = none → x.waiting ≠ [] → left.length < 512 → ∃ t l, exec (.resendTimerExpiry dst sid seq) s = .next t ∧
        l ≠ [] ∧ (t.erg.txOf dst sid).unacked = left ++ l ∧ (t.erg.txOf dst sid).waiting = x.waiting.drop l.length ∧
        (t.erg.txOf dst sid).next = x.next + BitVec.ofNat 32 l.length ∧ t.mem = s.mem)) ∧
    (∀ (j : Nat) (a : ErgAccess) (c : Nat) (ch : Fin 4) (row : Nat) (r : List (Nat × Nat)), s.canon → s.erg.parked[j]? = some a →
      a.issuer = .qanat c ch.val → (s.chan c ch).waitingOn.find? (fun w => w.1 == a.tag) = some (a.tag, row) → (s.chan c ch).refused = [] →
      (s.chan c ch).waitingOn.filter (fun w => w.1 != a.tag) = r → r ≠ [] → ∃ t, exec (.nrHoldExpiry j) s = .next t ∧
        t.chan c ch = { s.chan c ch with waitingOn := r, refused := [(row, stNoRoute, a.addr)] } ∧
        (∀ b ∈ t.erg.parked, b.tag ≠ a.tag) ∧ t.mem = s.mem) ∧
    (∀ (p : Fin 16) (pkt : ErgPacket), s.receives p = true →
      (s.ident.coordLock = false → exec (.badPkt p pkt) s = .next ((s.ergCount 0).send (.credits p.val pkt.hdr.vl pkt.size))) ∧
      (s.ident.coordLock = true → opcKnown pkt.hdr.opc.toNat = false ∨ s.dropCounter pkt = some 4 →
        exec (.badPkt p pkt) s = .next ((s.ergCount 4).send (.credits p.val pkt.hdr.vl pkt.size)))) ∧
    (∀ (p : Fin 16) (syn : BitVec 32), s.receives p = true → s.ident.coordLock = true → s.cairn.queue.length < 32 →
      ∃ t e a b, exec (.hdrUe p syn) s = .next t ∧ t.erg.cnt = s.erg.cnt.set 5 (satInc s.erg.cnt[5]) ∧
        t.mem.bonded = s.mem.bonded ∧ t.mem.lpddr = s.mem.lpddr ∧ s.cairn.queue = a ++ b ∧ t.cairn.queue = a ++ e :: b ∧
        (s.cycle = none → b = []) ∧ (∀ x r, b = x :: r → e.origin.toNat < x.origin.toNat) ∧ e.type = 0x0020 ∧
        (let l := spGet SrcLog.reset s.mem.logs 19
         let again := s.cycle.any fun k => k.ues.contains 19
         spGet SrcLog.reset t.mem.logs 19 = if l.valid = true ∧ (again = false ∨ l.addr = 0) then { l with ue := satInc l.ue } else
           { l with ue := satInc l.ue, addr := 0, syn := syn, valid := true, patrol := false, rmw := false, lane := BitVec.ofNat 8 p.val }))

/-- Collective packets at their admitted instance: UP data and METAs from a child are kept while the inputs are awaited, DOWN ones from the
parent, or to the owner from the root, while the result is; a result received in full completes the instance and is answered with BACK, one
whose checksum differs is asked for again once; a META of an owner-only collective goes down the tree; BACK ends what it answers for;
RESEND_REQ has the kept bucket sent again; REDO starts attempt 1 at its Q; the hall root of an arrival-mode stage keeps ARRIVE packets of
the rack roots (11 R332 to R335, R338, R343, R354).

That NPKT 0 tells the META of the tree from the owner's own is log 25 (DEDUCED). -/
def Obligations.CollectivePacketsReachTheirInstance : Prop :=
  ∀ (s : State) (p : Fin 16) (pkt : ErgPacket) (e : CollEntry) (i : Inst) (ws : List Data), s.takesColl p pkt e i ws →
    let h := pkt.hdr
    let t := s.topo e i.id.bucket.toNat
    let words : List CodeWord := ws.map encodeWord
    let first := ws.headD 0
    let fits := fun (fmt : Nat) => ws ≠ [] ∧ hfield first 84 2 = e.kind.toNat ∧ hfield first 192 32 = i.id.step.toNat ∧ hfield first 80 4 = fmt
    let stored := fun (l : List NodeInput) => modInput l h.src fun n => { n with pkts := spSet [] n.pkts (bitsOf h.addr.toNat 8 8) words }
    let headed := fun (l : List NodeInput) => modInput l h.src fun n => { n with header := some words }
    let answers := fun (u : State) (m : BitVec 12) (opc : BitVec 6) =>
      ∃ r ∈ (u.erg.txOf m i.id.cid).unacked ++ (u.erg.txOf m i.id.cid).waiting, r.pkt.hdr.opc = opc
    (i.phase = .gather → h.src ∈ t.rackKids ∨ (h.src ∈ t.hallKids ∧ e.arrival = false) →
      (h.opc = (if i.attempt then 0x11 else 0x10) → ∃ u, exec (.upData p pkt) s = .next u ∧
        u.instOf i.id = some { i with inputs := stored i.inputs }) ∧
      (h.opc = 0x14 → fits (if h.src ∉ t.rackKids ∧ e.fmt = 9 ∧ e.kind ≠ 1 ∧ e.kind ≠ 2 then 10 else e.fmt.toNat) →
        hfield first 73 1 = (if i.attempt then 1 else 0) → ∃ u, exec (.upMeta p pkt) s = .next u ∧
        u.instOf i.id = some { i with inputs := headed i.inputs })) ∧
    (i.phase = .sent →
      (e.ownerOnly = false ∧ t.parent = some h.src) ∨ (e.ownerOnly = true ∧ t.owner = s.ident.id ∧ h.src = t.root ∧ i.fwd = true) →
      let d := i.down.getD { src := h.src, pkts := [], header := none }
      let received := fun (u : State) (d : NodeInput) =>
        let b := d.bucket e.kind (s.resultFmt e) i.q (bucketSize * i.id.bucket.toNat) true
        (d.complete = false → u.instOf i.id = some { i with down := some d }) ∧
        (d.complete = true → b.check ≠ b.csum → i.resent = false →
          u.instOf i.id = some { i with resent := true, down := none } ∧ answers u d.src 0x17) ∧
        (d.complete = true → b.check = b.csum ∨ i.resent = true →
          ∃ j, u.instOf i.id = some j ∧ j.phase = .done ∧ answers u d.src 0x16)
      (h.opc = (if i.attempt then 0x13 else 0x12) → ∃ u, exec (.downData p pkt) s = .next u ∧
        received u { d with pkts := spSet [] d.pkts (bitsOf h.addr.toNat 8 8) words }) ∧
      (h.opc = 0x15 → fits e.fmt.toNat → hfield first 73 1 = (if i.attempt then 1 else 0) → ∃ u, exec (.downMeta p pkt) s = .next u ∧
        received u { d with header := some words })) ∧
    (h.opc = 0x15 → fits e.fmt.toNat → e.ownerOnly = true → t.parent = some h.src → i.fwd = false →
      t.owner ≠ s.ident.id ∨ h.src ≠ t.root ∨ hfield first 104 9 = 0 → i.phase = .sent ∨ (i.phase = .done ∧ t.owner = s.ident.id) →
      ∃ u j, exec (.downMeta p pkt) s = .next u ∧ u.instOf i.id = some j ∧ j.fwd = true ∧ (∀ m ∈ t.kids, answers u m 0x15) ∧
        (t.owner = s.ident.id → j = { i with fwd := true }) ∧ (t.owner ≠ s.ident.id → j.phase = .done)) ∧
    (h.opc = 0x16 → (h.src ∈ i.owed → ∃ u, exec (.back p pkt) s = .next u ∧
        u.instOf i.id = some { i with owed := i.owed.filter (· != h.src) }.released) ∧
      (h.src ∉ i.owed → i.upOwed = true → t.parent = some h.src → ∃ u, exec (.back p pkt) s = .next u ∧
        u.instOf i.id = some { i with upOwed := false }.released)) ∧
    (∀ b, h.opc = 0x17 → i.kept = some b → h.src ∈ i.owed → ∃ u, exec (.resendReq p pkt) s = .next u ∧
      u.instOf i.id = some i ∧ answers u h.src 0x15) ∧
    (h.opc = 0x18 → t.parent = some h.src → i.attempt = false → i.phase ≠ .done → ∃ u, exec (.redo p pkt) s = .next u ∧
      u.instOf i.id = some { i with
        attempt := true, q := codeOf 16 true (hfield first 0 16), rack := none, fault := none, phase := .gather,
        inputs := if e.arrives then i.inputs.filter (fun n => !t.rackKids.contains n.src) else [] } ∧
      u.coll.cnt[1] = satInc s.coll.cnt[1]) ∧
    (e.arrival = true → i.phase = .gather → t.root = s.ident.id → h.src ∈ t.roots → h.src ∉ t.rackKids → (∀ x ∈ i.arrived, x.src ≠ h.src) →
      let arrive := fun (l : List NodeInput) => match l.find? fun n => n.src == h.src && n.complete with
        | some n => { i with
            inputs := l.filter (fun n => n.src != h.src),
            arrived := if s.cycle = none then i.arrived ++ [n] else (i.arrive s.cycle t n).arrived }
        | none => { i with inputs := l }
      (h.opc = 0x19 → ∃ u, exec (.arriveData p pkt) s = .next u ∧
        u.instOf i.id = some (if e.arrives then arrive (stored i.inputs) else i)) ∧
      (h.opc = 0x1A → fits 6 → ∃ u, exec (.arriveMeta p pkt) s = .next u ∧
        u.instOf i.id = some (if e.arrives then arrive (headed i.inputs) else i)))

/-- The engine's own events: the oldest contribution is taken from the exchange port and is its instance's, unless that has one; an
instance is admitted with its slots when its turn and its slots have come; a node with its inputs sends its parent the UP META of its
bucket, or as root completes the instance, and answers its children with BACK; a bucket that times out completes locally with its slots
free, unless its last input came in the same control cycle (11 R318, R322, R325, R334, R335, R350, R352).

A second contribution is discarded by log 69. -/
def Obligations.EngineTakesAdmitsSendsAndTimesOut : Prop :=
  (∀ (s : State) (c : Contrib) (r : List Contrib) (e : CollEntry) (q : Nat) (ch : Fin 4), s.canon → s.coll.contribs = c :: r →
    c.issuer = .qanat q ch.val → (s.chan q ch).refused = [] → s.collEntry c.id.cid = some e →
    (({ s with coll := { s.coll with contribs := r } } : State).handleOk (BitVec.ofNat 64 (c.id.cid.toNat + 65536 * c.id.bucket.toNat)) 1
      e.entryFmt).1 = true → ∃ t, exec .contribution s = .next t ∧ t.coll.contribs = r ∧
      (t.chan q ch).waitingOn = (s.chan q ch).waitingOn.filter (fun w => w.1 != c.tag) ∧
      (s.instOf c.id = none → (∀ k ∈ s.coll.known, k.id ≠ c.id) → t.coll.known = s.coll.known ++ [{ id := c.id, own := some c }]) ∧
      (∀ i, s.instOf c.id = some i → i.phase = .gather → i.own = none → t.instOf c.id = some { i with own := some c }) ∧
      (∀ i, s.instOf c.id = some i → i.phase ≠ .gather ∨ i.own ≠ none → t.coll.insts = s.coll.insts)) ∧
  (∀ (s : State) (k : Known) (e : CollEntry), s.coll.known.find? (fun k => !s.coll.heldBack k.id) = some k →
    s.collEntry k.id.cid = some e → e.need ≤ s.coll.slotsFree → s.coll.waiting = [] → s.instOf k.id = none →
    ∃ t i, exec (.instanceAdmit k.id) s = .next t ∧ t.instOf k.id = some i ∧ i.phase = .gather ∧ i.own = k.own ∧ i.attempt = false ∧
      i.slots = e.need ∧ i.inputs = [] ∧ i.badEpoch = none ∧ (e.fmt = 11 → i.q = 0 ∧ i.noScale = false ∧ t.mem = s.mem) ∧
      t.coll.known = s.coll.known.filter fun x => x.id != k.id) ∧
  (∀ (s : State) (e : CollEntry) (i : Inst) (own : Contrib) (kids : List Bucket) (f g : Sparse Int),
    let t := s.topo e i.id.bucket.toNat
    let answers := fun (u : State) (m : BitVec 12) (opc : BitVec 6) =>
      ∃ r ∈ (u.erg.txOf m i.id.cid).unacked ++ (u.erg.txOf m i.id.cid).waiting, r.pkt.hdr.opc = opc
    s.instOf i.id = some i → s.collEntry i.id.cid = some e → i.phase = .gather → i.rack = none → i.own = some own →
    i.inputsOf e e.fmt.toNat t.rackKids = some kids →
    (∀ m, t.rackParent = some m → ∃ u j, exec (.nodeOutput { id := i.id, first := f, again := g }) s = .next u ∧
      u.instOf i.id = some j ∧ j.phase = .sent ∧ j.upOwed = true ∧ j.own = i.own ∧ j.inputs = i.inputs ∧ answers u m 0x14 ∧
      (∀ k ∈ t.rackKids, answers u k 0x16)) ∧
    (t.rackParent = none → t.roots.length ≤ 1 → e.staged = false →
      ∃ u j, exec (.nodeOutput { id := i.id, first := f, again := g }) s = .next u ∧
      u.instOf i.id = some j ∧ j.phase = .done ∧ u.coll.cnt[0] = satInc s.coll.cnt[0] ∧ (∀ k ∈ t.rackKids, answers u k 0x16))) ∧
  (∀ (s : State) (i : Inst), s.instOf i.id = some i → (s.cycle.any fun k => k.ready.contains i.id) = true →
    exec (.bucketTimeout i.id) s = .next s) ∧
  (∀ (s : State) (e : CollEntry) (i : Inst), s.instOf i.id = some i → s.collEntry i.id.cid = some e → i.phase ≠ .done →
    (s.cycle.any fun k => k.ready.contains i.id) = false →
    ∃ u j, exec (.bucketTimeout i.id) s = .next u ∧ u.instOf i.id = some j ∧ j.phase = .done ∧ j.slots = 0 ∧ j.upOwed = false ∧
      j.owed = [] ∧ u.coll.cnt[6] = satInc s.coll.cnt[6])

/-- The window of a fused core completes with Unsupported Request, and nothing is written: a register write into it, TOKEN_SET,
SP_CLR_COUNTS and the read that latches a bank's budget. That of an enabled core is its physical core's: a limit written at its offset is
the stream's, the counts of its scratchpad log are cleared, and the budget's low half is returned with the high half latched (01 R25,
04 R132, 05 R162, 09 R281). -/
def Obligations.CoreWindowsAreThePhysicalCores : Prop :=
  ∀ (s : State) (c : CoreId), s.canon → s.linked = true →
    let at_ := fun (o : Nat) => 0x1000000 + 0x10000 * c.val + o
    (s.coreOn c.val = false →
      (∀ o v, o < 0x10000 → o % 4 = 0 → exec (.registerWrite .bar0 (at_ o) 4 v) s = .next s.unsupported) ∧
      (∀ v, exec (.tokenSet c v) s = .next s.unsupported) ∧ exec (.spClrCounts c) s = .next s.unsupported ∧
      ∀ b, exec (.budgetLoRead c b) s = .next s.unsupported) ∧
    (s.coreOn c.val = true →
      let x := s.core c.val
      (∀ v, ∃ t, exec (.registerWrite .bar0 (at_ 0x108) 4 v) s = .next t ∧
        s.becomes t c { x with b := { x.b with wdogLimit := v.setWidth 24 } }) ∧
      (∃ t, exec (.spClrCounts c) s = .next t ∧ s.becomes t c { x with log := { x.log with ce := 0, ue := 0, psn := 0 } }) ∧
      ∀ b, ∃ t, exec (.budgetLoRead c b) s = .next t ∧
        t.out = s.out ++ [.hostReply (leBytes 4 ((x.bank b).budget.toNat % 2 ^ 32)) false] ∧
        ∀ p, t.core p = if p = c.val then
          (if b then { x with budgetHi1 := BitVec.ofNat 9 ((x.bank b).budget.toNat / 2 ^ 32) }
            else { x with budgetHi0 := BitVec.ofNat 9 ((x.bank b).budget.toNat / 2 ^ 32) })
          else s.core p)

/-- Register writes: of the host, another width or alignment in BAR0 is an Unsupported Request and changes no field, and beyond a BAR
nothing is written; the ownership margin and floor and a disabled queue's ring base take what is written; an aligned quadword of the MSI-X
table is written whole; the counters of the router, the engine, the host channel and a memory source are cleared, every peak becomes the
present temperature; the low half of the energy counter is returned and the high half latched. Without a host that reaches the BARs none
of it happens. Memory Space and Bus Master of configuration space are written while the endpoint answers; on its way
there it answers with Request Retry Status. An agent inside the module writes DATA of a mailbox that it has claimed. In a control cycle a write of PM_EVENT comes before an event and never after it, so that a
bit set in the cycle of its clearing write ends set (00 R7, R9, R11, 09 R280, 10 R316, 11 R355, 12 R358, R361, R381, R389, 15 R457, R459, R470).

Plain reads have no row (log 68); Memory Space and Bus Master stand where log 120 has them, and the order of one control cycle is
that of log 82. -/
def Obligations.RegisterWritesTakeEffect : Prop :=
  ∀ s : State,
    (s.linked = true →
      (∀ off width v, off < 2 ^ 26 → width ≠ 4 ∨ off % 4 ≠ 0 → exec (.registerWrite .bar0 off width v) s = .next s.unsupported) ∧
      (∀ v, exec (.registerWrite .bar0 0x1000 4 v) s = .next
        { s with host := { s.host with margin := v.extractLsb' 0 8, floor_ := v.extractLsb' 8 16 } }) ∧
      (∀ (q : Fin 8) v, (s.queue q).enable = false → ∃ t, exec (.registerWrite .bar0 (0x10008 + 0x1000 * q.val) 4 v) s = .next t ∧
        ∀ r, t.queue r = if r = q then
          { s.queue q with cmdBase := (s.queue q).cmdBase.extractLsb' 32 32 ++ v.extractLsb' 12 20 ++ (0 : BitVec 12) } else s.queue r) ∧
      (∀ (q : Fin 8) v, (s.queue q).enable = true → ∃ t, exec (.registerWrite .bar0 (0x10008 + 0x1000 * q.val) 4 v) s = .next t ∧
        ∀ r, t.queue r = s.queue r) ∧
      exec .ergCntClr s = .next { s with erg := { s.erg with cnt := Vector.replicate 8 0 } } ∧
      exec .collCntClr s = .next { s with coll := { s.coll with cnt := Vector.replicate 12 0 } } ∧
      exec .hcCntClr s = .next { s with host := { s.host with late := 0, hostRefused := 0, modRefused := 0 } } ∧
      (∀ k : Fin 20, exec (.codeClrCounts k) s = .next (s.modLog k.val fun l => { l with ce := 0, ue := 0, psn := 0 })) ∧
      exec .peakClr s = .next { s with power := { s.power with peak := s.power.temp } } ∧
      (∃ t, exec .energyLoRead s = .next t ∧ t.power.energyHi = s.power.energy.extractLsb' 32 32 ∧
        t.out = s.out ++ [.hostReply (leBytes 4 (s.power.energy.toNat % 2 ^ 32)) false]) ∧
      (spWf MsixEntry.reset s.host.msix = true → ∀ (n : Fin 64) (v : BitVec 64), ∃ t, exec (.registerWrite .bar4 (0x2000 + 16 * n.val) 8 v) s = .next t ∧
        (spGet MsixEntry.reset t.host.msix n.val).addr = v ∧
        ∀ m, m ≠ n.val → spGet MsixEntry.reset t.host.msix m = spGet MsixEntry.reset s.host.msix m) ∧
      (∀ off width v, 2 ^ 26 ≤ off → exec (.registerWrite .bar0 off width v) s = .next s) ∧
      ∀ off width v, 0x4000 ≤ off → exec (.registerWrite .bar4 off width v) s = .next s) ∧
    (s.linked = false →
      (∀ off width v, exec (.registerWrite .bar0 off width v) s = .next s ∧ exec (.registerWrite .bar4 off width v) s = .next s) ∧
      exec .ergCntClr s = .next s ∧ exec .collCntClr s = .next s ∧ exec .hcCntClr s = .next s ∧
      (∀ k, exec (.codeClrCounts k) s = .next s) ∧ (∀ c, exec (.spClrCounts c) s = .next s) ∧ exec .peakClr s = .next s ∧
      exec .energyLoRead s = .next s) ∧
    (∀ v : BitVec 64,
      (s.pcieUp = true → ∃ t, exec (.registerWrite .config 4 4 v) s = .next t ∧
        t.power = { s.power with memSpace := v.getLsbD 1, busMaster := v.getLsbD 2 } ∧
        (s.host.pba = 0 ∨ v.getLsbD 2 = false → t.host = s.host ∧ t.out = s.out)) ∧
      (s.pcieUp = false →
        exec (.registerWrite .config 4 4 v) s = .next (if s.retrying then s.send .retryStatus else s))) ∧
    (∀ (a : Agent) (m : Fin 16) (i : Fin 16) (v : BitVec 64), onModule a = true → s.agentUp m a = true → (s.mailbox m).state = .claimed →
      (s.mailbox m).sender = agentCode a → ∃ t, exec (.registerWrite (.mail a) (0x100 * m.val + 4 * i.val) 4 v) s = .next t ∧
        ∀ n, t.mailbox n = if n = m then { s.mailbox m with data := (s.mailbox m).data.set i.val (v.setWidth 32) i.isLt } else s.mailbox n) ∧
    ∀ v : BitVec 64,
      let write : Instr := .registerWrite .bar0 0x40080 4 v
      oneControlCycle [write, .pwrBrakeAssert] ∧ ¬oneControlCycle [.pwrBrakeAssert, write] ∧
      ∃ t u, exec write s = .next t ∧ exec .pwrBrakeAssert t = .next u ∧
        (s.linked = true → t.power.pmEvent = s.power.pmEvent &&& ~~~ v.extractLsb' 0 6) ∧
        (s.power.brake = false → s.notarUp = true → u.power.pmEvent.getLsbD 4 = true)

/-- RESET_KEY of the host or of the RMC with 0xA5 starts a module reset: `STATE` becomes 0x1, a RESET record is submitted, cores, memories,
fabric, collective engine, job, queues and mailboxes are as after reset, while coordinates and Notar stay; any other value does nothing,
and the RMC's key while main power is off or coming up sets `RESET_IGN` alone (13 R417, R419, 15 R460, R461).

LOCK takes the coordinates once, where the slot written is the strapped one: it sets the module's identity, the lock, and a COORD record;
otherwise the identity stays and `COORD_ERR` is set, and a locked module keeps its coordinates. SEL_LOAD loads the selected record, or
clears what was loaded (15 R454, 16 R493).

That a locked module sets `COORD_ERR` at another LOCK is log 64. -/
def Obligations.ResetKeysLockAndSelection : Prop :=
  (∀ s : State,
    let resets := fun (t : State) (source : Byte) =>
      t.ident.state = 0x1 ∧ t.power.stage = .training ∧ t.cores = [] ∧ t.mem = Mem.reset ∧ t.erg = Fabric.reset ∧ t.coll = Coll.reset ∧
      t.job = JobRegs.reset ∧ t.silent = Silent.reset ∧ (∀ q, t.queue q = Queue.reset) ∧ (∀ m, t.mailbox m = Mailbox.reset) ∧
      t.host.cmds = [] ∧ t.notar = s.notar ∧ t.ident.id = s.ident.id ∧ t.ident.coordLock = s.ident.coordLock ∧ t.ident.jobOpen = false ∧
      t.ident.generation = 0 ∧
      (s.cairn.queue.length < 32 → s.cycle = none →
        t.cairn.queue = s.cairn.queue ++ [{ type := 0x0005, origin := 1, payload := [source] }])
    (s.linked = true → s.power.stage = .on → ∀ v : Reg, v.extractLsb' 0 8 = 0xA5 → ∃ t, exec (.resetKey v) s = .next t ∧ resets t 0) ∧
    (∀ v : Reg, v.extractLsb' 0 8 ≠ 0xA5 → exec (.resetKey v) s = .next s) ∧
    (s.rmcUp = true → s.power.mainUp = true → s.power.comingUp = false → ∃ t, exec (.rmcResetKey 0xA5) s = .next t ∧ resets t 1) ∧
    (s.rmcUp = true → s.power.mainUp = false ∨ s.power.comingUp = true →
      exec (.rmcResetKey 0xA5) s = .next { s with power := { s.power with resetIgn := true } }) ∧
    (∀ v, v ≠ 0xA5 → exec (.rmcResetKey v) s = .next s)) ∧
  (∀ s : State,
    (∀ v : Reg, s.rmcUp = true → v.getLsbD 31 = true → s.ident.coordLock = false → v.extractLsb' 0 6 = s.power.slotStrap →
      ∃ t, exec (.lock v) s = .next t ∧ t.ident.coordLock = true ∧ t.ident.slot = v.extractLsb' 0 6 ∧
        t.ident.rack = v.extractLsb' 6 6 ∧ t.ident.hall = v.extractLsb' 12 8 ∧ t.ident.id = v.extractLsb' 6 6 ++ v.extractLsb' 0 6 ∧
        t.power.coordErr = s.power.coordErr ∧
        (s.cairn.queue.length < 32 → ∃ a b l, s.cairn.queue = a ++ b ∧
          t.cairn.queue = a ++ { type := 0x0006, origin := 0, payload := l } :: b ∧ (s.cycle = none → b = [])) ∧
        ∀ p : Fin 16, s.erg.portEn.getLsbD p.val = true →
          (t.port p).lstate = if (s.port p).forceDown then LinkState.down else LinkState.training) ∧
    (∀ v : Reg, s.rmcUp = true → v.getLsbD 31 = true → s.ident.coordLock = true ∨ v.extractLsb' 0 6 ≠ s.power.slotStrap →
      ∃ t, exec (.lock v) s = .next t ∧ t.ident = s.ident ∧ t.power.coordErr = true ∧ t.erg = s.erg ∧ t.cairn = s.cairn ∧
        (s.ident.coordLock = true → t.power.slot = s.power.slot ∧ t.power.rack = s.power.rack ∧ t.power.hall = s.power.hall)) ∧
    (∀ (side : Side) (high : Reg), (match side with | .host => s.linked | .rmc => s.i3cUp) = true →
      let n : BitVec 64 := high ++ (s.cairn.window side).sel.extractLsb' 0 32
      (∀ r, s.cairn.recordAt n.toNat = some r → exec (.selLoad side high) s = .next
        { s with cairn := s.cairn.setWindow side { sel := n, valid := true, record := r } }) ∧
      (s.cairn.recordAt n.toNat = none → exec (.selLoad side high) s = .next
        { s with cairn := s.cairn.setWindow side { sel := n, valid := false, record := 0 } })))

/-- The I3C target: ENTDAA gives a target without address its address, RSTDAA takes it; ENEC and DISEC turn in-band interrupts and Hot-Join
on and off; SETMWL and SETMRL are read back; GETPID, GETBCR and GETDCR answer as laid out, GETMRL and GETSTATUS with bytes the spec leaves
open; without an address the direct codes are not acknowledged (15 R449, R450).

A private write: an offset that is no multiple of 4, or a trailing partial register, is ignored and counted; whole registers are taken
in rising order from the offset; PM_EVENT bits written 1 are cleared, and the power limit takes what is written. A private read returns
whole registers from the offset written last, which advances by 4 with each, so that a private read alone reads on from there, and the read of PWR_ENERGY_LO latches its high half; from an
offset that is no multiple of 4 it is ignored and counted. A direct code that the target does not list is not acknowledged, and while the
clocks are stopped nothing is (15 R447, R450, R452, R453, R469, R470).

The bits of ENEC and DISEC are PRESUMED and the open bytes free by log 48. A power limit outside 1,000 to 2,200 W is stored as
written by log 63 (DEDUCED). -/
def Obligations.I3cTargetAnswers : Prop :=
  (∀ s : State, s.i3cUp = true →
    let pid := beBytes 6 (2 ^ 33 * 0x2D5 + 2 ^ 16 * 0x5A09 + 2 ^ 10 * s.power.slotStrap.toNat)
    let a := s.power
    (∀ d, a.dynAddr = 0 → exec (.entdaa d) s = .next
      { s with power := { a with dynAddr := d }, out := s.out ++ [.i3cReply (pid ++ [0x06, 0x00])] }) ∧
    (∀ d, a.dynAddr ≠ 0 → exec (.entdaa d) s = .next s) ∧
    exec .rstdaa s = .next { s with power := { a with dynAddr := 0 } } ∧
    exec (.enec 0x09) s = .next { s with power := { a with ibiOn := true, hotJoinOn := true } } ∧
    exec (.enec 0x01) s = .next { s with power := { a with ibiOn := true } } ∧
    exec (.disec 0x09) s = .next { s with power := { a with ibiOn := false, hotJoinOn := false } } ∧
    exec (.disec 0x08) s = .next { s with power := { a with hotJoinOn := false } } ∧
    (∀ v, exec (.setmwl v) s = .next { s with power := { a with mwl := v } }) ∧
    (∀ v, exec (.setmrl v) s = .next { s with power := { a with mrl := v } }) ∧
    (a.dynAddr ≠ 0 →
      exec .getmwl s = .next { s with out := s.out ++ [.i3cReply [a.mwl.extractLsb' 8 8, a.mwl.extractLsb' 0 8]] } ∧
      (∃ b, exec .getmrl s = .next
        { s with out := s.out ++ [.i3cReply [a.mrl.extractLsb' 8 8, a.mrl.extractLsb' 0 8, b]], free := s.free + 1 }) ∧
      exec .getpid s = .next { s with out := s.out ++ [.i3cReply pid] } ∧
      exec .getbcr s = .next { s with out := s.out ++ [.i3cReply [0x06]] } ∧
      exec .getdcr s = .next { s with out := s.out ++ [.i3cReply [0x00]] } ∧
      (∃ b c, exec .getstatus s = .next { s with out := s.out ++ [.i3cReply [b, c]], free := s.free + 1 })) ∧
    (a.dynAddr = 0 → exec .getmwl s = .next (s.send .i3cNack) ∧ exec .getpid s = .next (s.send .i3cNack) ∧
      exec .getbcr s = .next (s.send .i3cNack) ∧ exec .getdcr s = .next (s.send .i3cNack))) ∧
  (∀ s : State,
    let counted := fun (p : Power) => { p with i3cErr := satInc p.i3cErr }
    (s.i3cUp = true → s.power.dynAddr ≠ 0 →
      (∀ lo hi l, (lo.toNat + 256 * hi.toNat) % 4 ≠ 0 →
        exec (.i3cPrivateWrite (.priv (lo :: hi :: l) 0)) s = .next { s with power := counted s.power }) ∧
      (∀ lo hi, (lo.toNat + 256 * hi.toNat) % 4 = 0 →
        exec (.i3cPrivateWrite (.priv [lo, hi] 0)) s = .next { s with power := { s.power with i3cOffset := hi ++ lo } } ∧
        ∀ n : Nat, ∃ t l, exec (.i3cPrivateWrite (.priv [lo, hi] (n + 1))) s = .next t ∧ t.out = s.out ++ [.i3cReply l] ∧
          l.length = 4 * (n + 1) ∧ t.power.i3cOffset = hi ++ lo + BitVec.ofNat 16 (4 * (n + 1)) ∧
          l.take 4 = leBytes 4 (s.readI3c (lo.toNat + 256 * hi.toNat)).toNat ∧
          (n = 0 → t.power.energyHi =
            if lo = 0x14 ∧ hi = 0x02 ∧ s.notar.fwRuns = true then s.power.energy.extractLsb' 32 32 else s.power.energyHi)) ∧
      (∀ n : Nat,
        (s.power.i3cOffset.toNat % 4 = 0 → ∃ t l, exec (.i3cPrivateWrite (.priv [] (n + 1))) s = .next t ∧
          t.out = s.out ++ [.i3cReply l] ∧ l.length = 4 * (n + 1) ∧ t.power.i3cErr = s.power.i3cErr ∧
          t.power.i3cOffset = s.power.i3cOffset + BitVec.ofNat 16 (4 * (n + 1)) ∧
          l.take 4 = leBytes 4 (s.readI3c s.power.i3cOffset.toNat).toNat) ∧
        (s.power.i3cOffset.toNat % 4 ≠ 0 →
          exec (.i3cPrivateWrite (.priv [] (n + 1))) s = .next { s with power := counted s.power })) ∧
      (s.power.i3cOffset.toNat % 4 ≠ 0 → ∀ lo hi l, (lo.toNat + 256 * hi.toNat) % 4 ≠ 0 → ∀ n : Nat,
        exec (.i3cPrivateWrite (.priv (lo :: hi :: l) (n + 1))) s = .next { s with power := counted (counted s.power) }) ∧
      (s.notar.fwRuns = true → ∀ a b c d : Byte,
        exec (.i3cPrivateWrite (.priv [0x0C, 0x01, a, b, c, d] 0)) s = .next
          { s with power := { s.power with i3cOffset := 0x10C, rmcLimit := b.extractLsb' 0 4 ++ a } } ∧
        exec (.i3cPrivateWrite (.priv [0x0C, 0x01, a, b, c, d, a] 0)) s = .next
          { s with power := counted { s.power with i3cOffset := 0x10C, rmcLimit := b.extractLsb' 0 4 ++ a } } ∧
        exec (.i3cPrivateWrite (.priv [0x80, 0x02, a, b, c, d] 0)) s = .next
          { s with power := { s.power with i3cOffset := 0x280, pmEvent := s.power.pmEvent &&& ~~~ a.extractLsb' 0 6 } })) ∧
    (∀ code : Byte, exec (.i3cPrivateWrite (.ccc code)) s = .next (if directCodes.contains code then s else s.send .i3cNack)) ∧
    (s.power.clocksStopped = true → ∀ bytes n, exec (.i3cPrivateWrite (.priv bytes n)) s = .next (s.send .i3cNack)))

/-- SPDM: GET_VERSION offers 1.3 and starts the connection anew, GET_CAPABILITIES and NEGOTIATE_ALGORITHMS bring it to agreed algorithms:
SHA-384 and ECDSA P-384, secp384r1 and AES-256-GCM, DMTF measurements. A requester whose algorithms are not offered is answered with
InvalidRequest; a request that comes too early is answered with UnexpectedRequest and changes nothing else, and a request that is not listed
with UnsupportedRequest. The message codes are those of DSP0274 (PRESUMED, log 36) (16 R481, R482).

SPDM sessions: FINISH establishes the session that KEY_EXCHANGE opened; inside it HEARTBEAT, KEY_UPDATE and END_SESSION are answered,
a key update of operation 1 or 2 makes new keys and the end of the session ends it; outside one they are answered with SessionRequired and
nothing else happens (16 R481, R482).

The layouts are PRESUMED by log 36. -/
def Obligations.SpdmConnectionsAndSessionsRun : Prop :=
  (∀ (s : State) (t : Transport), s.spdmUp t = true →
    let c := s.notar.conn t
    (∃ u, exec (.getVersion { t := t, code := 0x84 }) s = .next u ∧ (u.notar.conn t).phase = .versioned ∧ (u.notar.conn t).session = .none ∧
      (u.notar.conn t).delayed = none ∧ .spdm t [0x10, 0x04, 0, 0, 0, 0x01, 0x00, 0x13] ∈ u.out) ∧
    (c.phase ≠ .idle → ∃ u b, exec (.getCapabilities t) s = .next u ∧ (u.notar.conn t).phase = .capable ∧
      .spdm t ([0x13, 0x61, 0, 0, 0, b, 0, 0] ++ leBytes 4 0x62D6 ++ leBytes 4 4096 ++ leBytes 4 4096) ∈ u.out) ∧
    (c.phase = .idle → exec (.getCapabilities t) s = .next (s.spdmSend t false [0x13, 0x7F, 0x04, 0])) ∧
    (∀ req, c.phase = .capable → Config.spdmOffersAlgorithms req = true → ∃ u, exec (.negotiateAlgorithms t req) s = .next u ∧
      (u.notar.conn t).phase = .negotiated ∧ ∃ b, .spdm t ([0x13, 0x63, 3, 0] ++ (leBytes 2 48 ++ [0x01, b] ++ leBytes 4 0x4 ++
        leBytes 4 0x80 ++ leBytes 4 0x2 ++ List.replicate 16 0 ++ [0x02, 0x20, 0x10, 0x00, 0x03, 0x20, 0x02, 0x00, 0x05, 0x20, 0x01, 0x00])) ∈
        u.out) ∧
    (∀ req, c.phase = .capable → Config.spdmOffersAlgorithms req = false →
      exec (.negotiateAlgorithms t req) s = .next (s.spdmSend t false [0x13, 0x7F, 0x01, 0])) ∧
    (∀ req, c.phase = .versioned →
      exec (.negotiateAlgorithms t req) s = .next (s.spdmSend t false [0x13, 0x7F, 0x04, 0])) ∧
    (∀ code, spdmRequests.contains code = false →
      exec (.getVersion { t := t, code := code }) s = .next (s.spdmSend t false [0x13, 0x7F, 0x07, code])) ∧
    (∀ code, code ≠ 0x84 → spdmRequests.contains code = true → exec (.getVersion { t := t, code := code }) s = .next s) ∧
    (c.phase ≠ .negotiated → ∀ slot req, exec (.challenge t slot req) s = .next (s.spdmSend t false [0x13, 0x7F, 0x04, 0]))) ∧
  (∀ (s : State) (t : Transport), s.spdmUp t = true →
    let c := s.notar.conn t
    (∀ req, c.session = .handshake → ∃ u l, exec (.finish t req) s = .next u ∧ (u.notar.conn t).session = .established ∧
      .spdm t ([0x13, 0x65, 0, 0] ++ l) ∈ u.out) ∧
    (c.session = .established →
      (∃ u, exec (.heartbeat t) s = .next u ∧ u.notar.conn t = c ∧ .spdm t [0x13, 0x68, 0, 0] ∈ u.out) ∧
      (∀ op, op = 1 ∨ op = 2 → ∃ u, exec (.keyUpdate t op) s = .next u ∧ u.notar.conn t = { c with keys := c.keys + 1 } ∧
        .spdm t [0x13, 0x69, op, 0] ∈ u.out) ∧
      (∃ u, exec (.keyUpdate t 3) s = .next u ∧ u.notar.conn t = c ∧ .spdm t [0x13, 0x69, 3, 0] ∈ u.out) ∧
      ∃ u, exec (.endSession t) s = .next u ∧ (u.notar.conn t).session = .none ∧ .spdm t [0x13, 0x6C, 0, 0] ∈ u.out) ∧
    (c.session ≠ .established →
      let required := s.spdmSend t false [0x13, 0x7F, 0x0B, 0]
      exec (.heartbeat t) s = .next required ∧ (∀ op, exec (.keyUpdate t op) s = .next required) ∧
      exec (.endSession t) s = .next required))

/-- SPDM answers of an agreed connection: slot 1 is served while Alias-CM exists, and asked for otherwise it is InvalidRequest; digests and
certificates are those of the slot's chain; a measurement that is not available is InvalidRequest; CHALLENGE, MEASUREMENTS and KEY_EXCHANGE
are answered at once, or delayed and then answered to RESPOND_IF_READY with the same message (16 R481 to R483).

The message codes and layouts are those of DSP0274 (PRESUMED, log 36); digests and signatures are free values by log 54. -/
def Obligations.SpdmRequestsAreAnswered : Prop :=
  ∀ (s : State) (t : Transport), s.spdmUp t = true → (s.notar.conn t).phase = .negotiated →
    let invalid : State := s.spdmSend t false [0x13, 0x7F, 0x01, 0]
    let answers := fun (u : State) (code : Byte) =>
      ∃ l, .spdm t ([0x13, code] ++ l) ∈ u.out ∨ ∃ tok, (u.notar.conn t).delayed = some (tok, [0x13, code] ++ l) ∧
        .spdm t ([0x13, 0x7F, 0x42, 0] ++ [0, code, tok, 0]) ∈ u.out
    let one := digestBytes (some (Config.sha384 (s.notar.chain s.ident.serial 0)))
    (s.notar.m2 = none →
      exec (.getDigests t) s = .next (s.spdmSend t false ([0x13, 0x01, 0x03, 0x01] ++ one)) ∧
      (∀ off len, exec (.getCertificate t 1 off len) s = .next invalid) ∧ (∀ req, exec (.challenge t 1 req) s = .next invalid) ∧
      (∀ req, exec (.keyExchange t 1 req) s = .next invalid) ∧ ∀ req, exec (.getMeasurements t 3 req) s = .next invalid) ∧
    (s.notar.m2.isSome = true → exec (.getDigests t) s = .next
      (s.spdmSend t false ([0x13, 0x01, 0x03, 0x03] ++ one ++ digestBytes (some (Config.sha384 (s.notar.chain s.ident.serial 1)))))) ∧
    (∀ off len, let l := s.notar.chain s.ident.serial 0
      off < l.length → len ≤ 4088 → off + len ≤ l.length →
      exec (.getCertificate t 0 off len) s = .next
        (s.spdmSend t false ([0x13, 0x02, 0, 0] ++ leBytes 2 len ++ leBytes 2 (l.length - off - len) ++ (l.drop off).take len))) ∧
    (∀ req, ∃ u, exec (.challenge t 0 req) s = .next u ∧ answers u 0x03 ∧ u.notar.nonces = s.notar.nonces + 1) ∧
    (∀ req, ∃ u, exec (.getMeasurements t 1 req) s = .next u ∧ answers u 0x60) ∧
    (∀ req, ∃ u, exec (.keyExchange t 0 req) s = .next u ∧ answers u 0x64 ∧ (u.notar.conn t).session = .handshake ∧
      (u.notar.conn t).opened = (s.notar.conn t).opened + 1) ∧
    (∀ tok l, (s.notar.conn t).delayed = some (tok, l) → ∃ u, exec (.respondIfReady t tok) s = .next u ∧
      .spdm t l ∈ u.out ∧ (u.notar.conn t).delayed = none)

/-- MCTP and DOE Discovery: a message of the RMC is answered in `RX`, or its answer waits while `RX` is taken; TX_GO takes the packet unless
one is still being taken, which is counted; RX_DONE frees `RX` for the next packet that waits; DOE Discovery names the three protocols
(12 R358, 16 R484).

The layouts are those of DSP0236 and the PCIe specification (PRESUMED, log 36). -/
def Obligations.MctpAndDiscoveryAnswer : Prop :=
  ∀ s : State,
    (s.spdmUp .mctp = true →
      let n := s.notar
      let id := n.txByte 5 &&& 0x1F
      let puts := fun (u : State) (body : List Byte) =>
        let packet : List Byte := [0x01, n.txByte 2, u.notar.eid, 0xC0 + (n.txByte 3 &&& 0x07)] ++ body
        u.notar.txBusy = false ∧ (n.rxReady = false → u.notar.rxReady = true ∧ u.notar.rx = rxWords packet ∧
          u.notar.rxLen = BitVec.ofNat 8 packet.length ∧ u.notar.rxWaiting = n.rxWaiting) ∧
        (n.rxReady = true → u.notar.rxReady = true ∧ u.notar.rx = n.rx ∧ u.notar.rxWaiting = n.rxWaiting ++ [packet])
      (∀ e, ∃ u, exec (.setEndpointId e) s = .next u ∧ u.notar.eid = e ∧ puts u [0x00, id, 0x01, 0x00, 0x00, e, 0x00]) ∧
      (∃ u, exec .getEndpointId s = .next u ∧ u.notar.eid = n.eid ∧ puts u [0x00, id, 0x02, 0x00, n.eid, 0x00, 0x00]) ∧
      (∃ u v, exec .getMctpVersionSupport s = .next u ∧ puts u ([0x00, id, 0x04, 0x00, 0x01] ++ leBytes 4 v)) ∧
      (∃ u, exec .getMessageTypeSupport s = .next u ∧ puts u [0x00, id, 0x05, 0x00, 0x02, 0x05, 0x06]) ∧
      (∀ len : Byte, n.txBusy = false → 4 ≤ len.toNat → len.toNat ≤ 68 →
        exec (.txGo len) s = .next { s with notar := { n with txBusy := true } }) ∧
      (∀ len : Byte, n.txBusy = false → len.toNat < 4 ∨ 68 < len.toNat → exec (.txGo len) s = .next s) ∧
      (∀ len, n.txBusy = true → exec (.txGo len) s = .next { s with power := { s.power with i3cErr := satInc s.power.i3cErr } }) ∧
      (n.rxWaiting = [] → exec .rxDone s = .next { s with notar := { n with rxReady := false } }) ∧
      (∀ l r, n.rxWaiting = l :: r → ∃ u, exec .rxDone s = .next u ∧ u.notar.rxReady = true ∧ u.notar.rx = rxWords l ∧
        u.notar.rxWaiting = r)) ∧
    (s.pcieUp = true →
      exec (.doeDiscovery 0) s = .next (s.send (.doe [0x01, 0x00, 0, 1])) ∧
      exec (.doeDiscovery 1) s = .next (s.send (.doe [0x01, 0x00, 1, 2])) ∧
      exec (.doeDiscovery 2) s = .next (s.send (.doe [0x01, 0x00, 2, 0])))

/-- Decoding what the encoder writes gives the instruction back, with its `GAP` and its length, for every well-formed instruction with every
value of its fields, at any word index of the right alignment and whatever words follow it (06 R164 to R203). -/
def Obligations.EncodedInstructionsDecode : Prop :=
  ∀ (pc : Nat) (gap : BitVec 12) (i : Insn) (rest : List IWord), insnWf i = true → pc % insnWords i = 0 →
    let w := encodeInsn gap i ++ rest
    (encodeInsn gap i).length = insnWords i ∧
    decodeInsn pc (w.getD 0 0) (w.getD 1 0) (w.getD 2 0) (w.getD 3 0) = some (gap, insnWords i, i)

/-- Every legal word sequence is the encoding of the instruction it decodes to: no bit of it is passed over, and what it decodes to is well
formed (06 R164, R165). -/
def Obligations.LegalWordsAreTheEncoding : Prop :=
  ∀ (pc : Nat) (w w1 w2 w3 : IWord) (gap : BitVec 12) (n : Nat) (i : Insn), decodeInsn pc w w1 w2 w3 = some (gap, n, i) →
    insnWf i = true ∧ n = insnWords i ∧ pc % n = 0 ∧ encodeInsn gap i = [w, w1, w2, w3].take n
end

