-- ==== Sys2Proof/Laws/Sparse.lean ====
section
/-! SUPPORT. Reading a sparse table after a write, and the canonical form under every operation on tables. -/

namespace Sys2Proof.Machine

variable {α : Type}

@[simp] theorem spGet_nil (d : α) (k : Nat) : spGet d [] k = d := rfl

theorem spGet_cons (d : α) (k' : Nat) (v : α) (r : Sparse α) (k : Nat) :
    spGet d ((k', v) :: r) k = if k' = k then v else spGet d r k := rfl

variable [DecidableEq α]

/-- A write leaves every other key alone. -/
theorem spGet_spSet_ne (d : α) (l : Sparse α) {k j : Nat} (v : α) (h : j ≠ k) : spGet d (spSet d l k v) j = spGet d l j := by
  induction l with
  | nil =>
    unfold spSet
    split
    · rfl
    · simp [spGet, Ne.symm h]
  | cons e r ih =>
    obtain ⟨k', v'⟩ := e
    unfold spSet
    split
    · simp only [spGet_cons, ih]
    · split
      · rename_i hk
        subst hk
        split <;> simp [spGet_cons, Ne.symm h]
      · split <;> simp [spGet_cons, Ne.symm h]

/-- No key below a canonical table's bound is listed. -/
theorem spGet_of_lt (d : α) (l : Sparse α) {lo k : Nat} (hl : spAbove d lo l) (h : k < lo) : spGet d l k = d := by
  induction l generalizing lo with
  | nil => rfl
  | cons e r ih =>
    obtain ⟨k', v'⟩ := e
    simp only [spAbove, Bool.and_eq_true, decide_eq_true_eq] at hl
    have : k' ≠ k := by omega
    simp only [spGet_cons, this, if_false]
    exact ih hl.2 (by omega)

theorem spGet_spSet_above (d : α) (l : Sparse α) (lo k : Nat) (v : α) (hl : spAbove d lo l) :
    spGet d (spSet d l k v) k = v := by
  induction l generalizing lo with
  | nil =>
    unfold spSet
    split
    · rename_i h; exact h.symm
    · simp [spGet]
  | cons e r ih =>
    obtain ⟨k', v'⟩ := e
    simp only [spAbove, Bool.and_eq_true, decide_eq_true_eq] at hl
    unfold spSet
    split
    · have : k' ≠ k := by omega
      simp only [spGet_cons, this, if_false]
      exact ih (k' + 1) hl.2
    · split
      · rename_i hk
        subst hk
        split
        · rename_i hv
          rw [hv]
          exact spGet_of_lt d r hl.2 (by omega)
        · simp [spGet_cons]
      · split
        · rename_i hv
          rw [hv]
          have : k' ≠ k := by omega
          simp only [spGet_cons, this, if_false]
          exact spGet_of_lt d r hl.2 (by omega)
        · simp [spGet_cons]

/-- A write is read back from a canonical table. -/
theorem spGet_spSet (d : α) (l : Sparse α) (k : Nat) (v : α) (hl : spWf d l) : spGet d (spSet d l k v) k = v :=
  spGet_spSet_above d l 0 k v hl

/-- A write of another value than the default is read back from any table. -/
theorem spGet_spSet_of_ne (d : α) (l : Sparse α) (k : Nat) (v : α) (hv : v ≠ d) : spGet d (spSet d l k v) k = v := by
  induction l with
  | nil => simp [spSet, hv, spGet]
  | cons e r ih =>
    obtain ⟨k', v'⟩ := e
    unfold spSet
    split
    · have : k' ≠ k := by omega
      simp only [spGet_cons, this, if_false, ih]
    · split
      · simp [spGet_cons]
      · simp [spGet_cons]

theorem spAbove_mono (d : α) (l : Sparse α) {lo lo' : Nat} (h : lo' ≤ lo) (hl : spAbove d lo l) : spAbove d lo' l := by
  cases l with
  | nil => rfl
  | cons e r =>
    obtain ⟨k, v⟩ := e
    simp only [spAbove, Bool.and_eq_true, decide_eq_true_eq] at hl ⊢
    exact ⟨⟨by omega, hl.1.2⟩, hl.2⟩

theorem spAbove_spSet (d : α) (l : Sparse α) (lo k : Nat) (v : α) (hl : spAbove d lo l) (hk : lo ≤ k) :
    spAbove d lo (spSet d l k v) := by
  induction l generalizing lo with
  | nil =>
    unfold spSet
    split
    · rfl
    · simp [spAbove, *]
  | cons e r ih =>
    obtain ⟨k', v'⟩ := e
    simp only [spAbove, Bool.and_eq_true, decide_eq_true_eq] at hl
    unfold spSet
    split
    · simp only [spAbove, Bool.and_eq_true, decide_eq_true_eq]
      exact ⟨hl.1, ih (k' + 1) hl.2 (by omega)⟩
    · split
      · rename_i hk'
        subst hk'
        split
        · exact spAbove_mono d r (by omega) hl.2
        · simp only [spAbove, Bool.and_eq_true, decide_eq_true_eq]
          exact ⟨⟨hk, by assumption⟩, hl.2⟩
      · split
        · simp only [spAbove, Bool.and_eq_true, decide_eq_true_eq]
          exact hl
        · simp only [spAbove, Bool.and_eq_true, decide_eq_true_eq]
          exact ⟨⟨hk, by assumption⟩, ⟨by omega, hl.1.2⟩, hl.2⟩

/-- A write keeps the canonical form. -/
theorem spWf_spSet (d : α) (l : Sparse α) (k : Nat) (v : α) (hl : spWf d l) : spWf d (spSet d l k v) :=
  spAbove_spSet d l 0 k v hl (Nat.zero_le k)

theorem spWf_spMod (d : α) (l : Sparse α) (k : Nat) (f : α → α) (hl : spWf d l) : spWf d (spMod d l k f) := spWf_spSet d l k _ hl

/-- Leaving out entries keeps the canonical form. -/
theorem spAbove_filter (d : α) (l : Sparse α) (lo : Nat) (p : Nat × α → Bool) (hl : spAbove d lo l) :
    spAbove d lo (l.filter p) := by
  induction l generalizing lo with
  | nil => rfl
  | cons e r ih =>
    obtain ⟨k, v⟩ := e
    simp only [spAbove, Bool.and_eq_true, decide_eq_true_eq] at hl
    rw [List.filter_cons]
    split
    · simp only [spAbove, Bool.and_eq_true, decide_eq_true_eq]
      exact ⟨hl.1, ih (k + 1) hl.2⟩
    · exact spAbove_mono d _ (by omega) (ih (k + 1) hl.2)

theorem spWf_filter (d : α) (l : Sparse α) (p : Nat × α → Bool) (hl : spWf d l) : spWf d (l.filter p) := spAbove_filter d l 0 p hl

theorem spWf_spDrop (d : α) (l : Sparse α) (lo n : Nat) (hl : spWf d l) : spWf d (spDrop l lo n) := spWf_filter d l _ hl

/-- Two canonical tables that read alike are equal. -/
theorem spAbove_ext (d : α) (l m : Sparse α) (lo : Nat) (hl : spAbove d lo l) (hm : spAbove d lo m)
    (h : ∀ k, spGet d l k = spGet d m k) : l = m := by
  induction l generalizing m lo with
  | nil =>
    cases m with
    | nil => rfl
    | cons e r =>
      obtain ⟨k, v⟩ := e
      simp only [spAbove, Bool.and_eq_true, decide_eq_true_eq] at hm
      have := h k
      simp [spGet_cons] at this
      exact absurd this.symm hm.1.2
  | cons e r ih =>
    obtain ⟨k, v⟩ := e
    simp only [spAbove, Bool.and_eq_true, decide_eq_true_eq] at hl
    cases m with
    | nil =>
      have := h k
      simp [spGet_cons] at this
      exact absurd this hl.1.2
    | cons e' r' =>
      obtain ⟨k', v'⟩ := e'
      simp only [spAbove, Bool.and_eq_true, decide_eq_true_eq] at hm
      have hkk : k = k' := by
        rcases Nat.lt_trichotomy k k' with hlt | heq | hgt
        · have := h k
          simp only [spGet_cons, if_true] at this
          rw [if_neg (by omega), spGet_of_lt d r' hm.2 (by omega)] at this
          exact absurd this hl.1.2
        · exact heq
        · have := h k'
          simp only [spGet_cons, if_true] at this
          rw [if_neg (by omega), spGet_of_lt d r hl.2 (by omega)] at this
          exact absurd this.symm hm.1.2
      subst hkk
      have hv : v = v' := by simpa [spGet_cons] using h k
      subst hv
      have : r = r' := by
        refine ih r' (k + 1) hl.2 hm.2 fun j => ?_
        have := h j
        by_cases hj : k = j
        · subst hj
          rw [spGet_of_lt d r hl.2 (by omega), spGet_of_lt d r' hm.2 (by omega)]
        · simpa [spGet_cons, hj] using this
      rw [this]

/-- Canonical tables that read alike are equal. -/
theorem spWf_ext (d : α) (l m : Sparse α) (hl : spWf d l) (hm : spWf d m) (h : ∀ k, spGet d l k = spGet d m k) : l = m :=
  spAbove_ext d l m 0 hl hm h

end Sys2Proof.Machine
end

