-- ==== Sys2Proof/Laws/Canon.lean ====
section
/-! SUPPORT. The canonical form of the memories: every core's scratchpad, the table of cores, the DRAM stores. -/

namespace Sys2Proof.Machine

theorem Core.canon_of_spad {c d : Core} (h : d.spad = c.spad) (hc : c.canon) : d.canon := by
  unfold Core.canon
  rw [h]
  exact hc

theorem Core.reset_canon : Core.reset.canon := rfl

@[simp] theorem Core.canon_foldl {α : Type} (g : Core → α → Core) (l : List α) (h : ∀ c x, c.canon → (g c x).canon) (c : Core)
    (hc : c.canon) : (l.foldl g c).canon := by
  induction l generalizing c with
  | nil => exact hc
  | cons x r ih => exact ih _ (h c x hc)

theorem Core.canon_foldl_snd {α β : Type} (g : β × Core → α → β × Core) (l : List α)
    (h : ∀ c x, c.2.canon → (g c x).2.canon) (c : β × Core) (hc : c.2.canon) : (l.foldl g c).2.canon := by
  induction l generalizing c with
  | nil => exact hc
  | cons x r ih => exact ih _ (h c x hc)

/-- The form of a core that comes out of an operation with another result. -/
theorem Core.canon_of_eq {α : Type} {p : α × Core} {a : α} {d : Core} (h : p = (a, d)) (hp : p.2.canon) : d.canon := by
  rw [h] at hp
  exact hp

@[simp] theorem State.canon_foldl {α : Type} (g : State → α → State) (l : List α) (h : ∀ s x, s.canon → (g s x).canon) (s : State)
    (hs : s.canon) : (l.foldl g s).canon := by
  induction l generalizing s with
  | nil => exact hs
  | cons x r ih => exact ih _ (h s x hs)

theorem State.canon_foldl_snd {α β : Type} (g : β × State → α → β × State) (l : List α)
    (h : ∀ s x, s.2.canon → (g s x).2.canon) (s : β × State) (hs : s.2.canon) : (l.foldl g s).2.canon := by
  induction l generalizing s with
  | nil => exact hs
  | cons x r ih => exact ih _ (h s x hs)

theorem State.canon_foldl3 {α β γ : Type} (g : β × γ × State → α → β × γ × State) (l : List α)
    (h : ∀ s x, s.2.2.canon → (g s x).2.2.canon) (s : β × γ × State) (hs : s.2.2.canon) : (l.foldl g s).2.2.canon := by
  induction l generalizing s with
  | nil => exact hs
  | cons x r ih => exact ih _ (h s x hs)

theorem State.canon_of_eq {α : Type} {p : α × State} {a : α} {t : State} (h : p = (a, t)) (hp : p.2.canon) : t.canon := by
  rw [h] at hp
  exact hp

theorem State.canon_of_eq3 {α β : Type} {p : α × β × State} {a : α} {b : β} {t : State} (h : p = (a, b, t)) (hp : p.2.2.canon) :
    t.canon := by
  rw [h] at hp
  exact hp

/-- A core of the module keeps its form. -/
theorem State.core_canon (s : State) (p : Nat) (hs : s.canon) : (s.core p).canon := hs.2.1 p

/-- A core put in place. -/
theorem State.setCore_canon (s : State) (p : Nat) (c : Core) (hs : s.canon) (hc : c.canon) : (s.setCore p c).canon := by
  refine ⟨spWf_spSet _ _ _ _ hs.1, fun q => ?_, hs.2.2⟩
  by_cases hq : q = p
  · subst hq
    have : (s.setCore q c).core q = c := spGet_spSet _ _ _ _ hs.1
    rw [this]
    exact hc
  · have : (s.setCore p c).core q = s.core q := spGet_spSet_ne _ _ _ hq
    rw [this]
    exact hs.2.1 q

/-- A DRAM word put in place. -/
theorem Mem.wf_put (m : Mem) (region off : Nat) (w : CodeWord) (h : m.wf = true) : (m.put region off w).wf = true := by
  simp only [Mem.wf, Bool.and_eq_true] at h ⊢
  unfold Mem.put
  split
  · exact ⟨spWf_spSet _ _ _ _ h.1, h.2⟩
  · exact ⟨h.1, spWf_spSet _ _ _ _ h.2⟩

end Sys2Proof.Machine
end

