-- ==== Sys2Proof/Laws/CanonCore.lean ====
section
/-! SUPPORT. For each operation of a core: it keeps the canonical form of the scratchpad (`Core.canon`, Laws/Canon.lean). -/

namespace Sys2Proof.Machine

/-- An update of other fields keeps the form. -/
@[simp] theorem Core.canon_update (c : Core) (x0 : Nat) (x1 : Stream) (x2 : Stream) (x3 : Stream) (x4 : Vector (BitVec 8) 32) (x5 : List
    TokenPost) (x6 : List (BitVec 5 × BitVec 8)) (x7 : Bool) (x8 : Bool) (x9 : BitVec 5) (x10 : Hazard) (x11 : Bank) (x12 : Bank) (x13 : Bool)
    (x14 : BitVec 9) (x15 : BitVec 9) (x16 : Option DrainJob) (x17 : WTile) (x18 : WTile) (x19 : Option Feed) (x20 : List RowFlight) (x21 :
    Option WLoad) (x22 : List Slab) (x23 : Option BFill) (x24 : Option (StreamId × Nat)) (x25 : Option (StreamId × Nat)) (x27 : List
    PendingWrite) (x28 : List Access) (x29 : CoreLog) (x30 : Vector VReg 32) (x31 : Vector (BitVec 64) 8) (x32 : Vector NAcc 8) (x33 : List
    VuPending) (x34 : Vector Channel 4) (x35 : List QEntry) (x36 : Nat) (x37 : List FoundUe) (x38 : List RemotePost) (x39 : List Tap) (x40 : Nat) :
    Core.canon ⟨x0, x1, x2, x3, x4, x5, x6, x7, x8, x9, x10, x11, x12, x13, x14, x15, x16, x17, x18, x19, x20, x21, x22, x23, x24, x25, c.spad,
        x27, x28, x29, x30, x31, x32, x33, x34, x35, x36, x37, x38, x39, x40⟩ ↔ c.canon := Iff.rfl

/-! Operations of Machine/CoreOps.lean. -/

@[simp] theorem Core.setStream_canon (c : Core) (s : StreamId) (st : Stream) (hcan : c.canon) : (Core.setStream c s st).canon := by
  unfold Core.setStream
  (repeat' split) <;> exact hcan

@[simp] theorem Core.modStream_canon (c : Core) (s : StreamId) (f : Stream → Stream) (hcan : c.canon) : (Core.modStream c s f).canon := by
  cases s <;> exact hcan

@[simp] theorem Core.setBank_canon (c : Core) (b : Bool) (k : Bank) (hcan : c.canon) : (Core.setBank c b k).canon := by
  unfold Core.setBank
  (repeat' split) <;> exact hcan

@[simp] theorem Core.halt_canon (c : Core) (s : StreamId) (cause : Byte) (pc : BitVec 12) (hcan : c.canon) : (Core.halt c s cause pc).canon := by
  cases s <;> exact hcan

@[simp] theorem Core.flag_canon (c : Core) (s : StreamId) (fl : Byte) (hcan : c.canon) : (Core.flag c s fl).canon := by
  cases s <;> exact hcan

@[simp] theorem Core.postAt_canon (c : Core) (due : Nat) (token : BitVec 5) (count : BitVec 8) (hcan : c.canon) : (Core.postAt c due token
    count).canon := hcan

@[simp] theorem Core.grants_canon (c : Core) (now : Nat) (counts : Vector Nat 32) (hcan : c.canon) : (Core.grants c now counts).1.canon := hcan

@[simp] theorem Core.setCounts_canon (c : Core) (now : Nat) (counts : Vector Nat 32) (hcan : c.canon) : (Core.setCounts c now
    counts).canon := by
  unfold Core.setCounts
  (repeat' split) <;> exact hcan

@[simp] theorem Core.tokenCycle_canon (c : Core) (now : Nat) (vis : List TokenPost) (hcan : c.canon) : (Core.tokenCycle c now vis).canon := by
  simp only [Core.tokenCycle, Core.grants_canon, Core.setCounts_canon, hcan]

@[simp] theorem Core.settleTokens_canon (fuel : Nat) (c : Core) (now t : Nat) (hcan : c.canon) : (Core.settleTokens fuel c now t).canon := by
  induction fuel generalizing c now with
  | zero => exact hcan
  | succ k ih =>
    have h : ∀ ps vis, (Core.tokenCycle { c with posts := ps } now vis).canon := fun _ _ => Core.tokenCycle_canon _ _ _ hcan
    unfold Core.settleTokens
    dsimp only
    (repeat' split)
    all_goals first | exact hcan | exact h _ _ | exact ih _ _ (h _ _)

@[simp] theorem Core.testNow_canon (c : Core) (hcan : c.canon) : (Core.testNow c).canon := by
  unfold Core.testNow
  dsimp only
  (repeat' split) <;> exact hcan

@[simp] theorem Core.haltWho_canon (c : Core) (w : Who) (cause : Byte) (hcan : c.canon) : (Core.haltWho c w cause).canon :=
  Core.modStream_canon _ _ _ hcan

@[simp] theorem Core.note_canon (c : Core) (o : DecodeOutcome) (raw : CodeWord) (addr : BitVec 21) (decoupled imem rmw : Bool) (s : Nat) (hcan :
    c.canon) : (Core.note c o raw addr decoupled imem rmw s).canon := by
  unfold Core.note
  (repeat' split) <;> exact hcan

@[simp] theorem Core.decodeSpad_canon (c : Core) (w : Nat) (decoupled : Bool) (hcan : c.canon) : (Core.decodeSpad c w decoupled).2.canon := by
  have hw : ∀ v, Core.canon { c with spad := spSet 0 c.spad w v } := fun v => spWf_spSet _ _ _ _ hcan
  unfold Core.decodeSpad
  extract_lets raw
  split
  split
  · exact hcan
  · exact Core.note_canon _ _ _ _ _ _ _ _ (hw _)

@[simp] theorem Core.window_canon (env : CoreEnv) (c : Core) (ps : List PendingWrite) (old : RWord) (hcan : c.canon) : (Core.window env c ps
    old).2.canon := by
  unfold Core.window
  repeat' (first
    | exact hcan | assumption | dsimp only
    | simp only [Core.halt_canon, Core.modStream_canon, Core.setBank_canon, Core.postAt_canon, Core.flag_canon, Core.note_canon, Core.tokenCycle_canon, hcan, Core.canon_update, *]
    | refine Core.canon_of_eq (by assumption) ?_ | refine Core.canon_foldl _ _ (fun _ _ _ => ?_) _ ?_
    | refine Core.canon_foldl_snd _ _ (fun _ _ _ => ?_) _ ?_)

@[simp] theorem Core.hazardHit_canon (c : Core) (who : Who) (w : Nat) (p : PendingWrite) (hcan : c.canon) : (Core.hazardHit c who w p).canon := by
  unfold Core.hazardHit
  dsimp only
  repeat' split
  all_goals simp only [Core.haltWho_canon, hcan, Core.canon_update]

@[simp] theorem Core.readStatic_canon (env : CoreEnv) (c : Core) (who : Who) (w : Nat) (hcan : c.canon) : (Core.readStatic env c who w).2.canon := by
  unfold Core.readStatic
  dsimp only
  split
  · exact Core.decodeSpad_canon _ _ _ hcan
  · exact Core.hazardHit_canon _ _ _ _ (Core.window_canon _ _ _ _ (Core.decodeSpad_canon _ _ _ hcan))

@[simp] theorem Core.readDecoupled_canon (env : CoreEnv) (c : Core) (w : Nat) (hcan : c.canon) : (Core.readDecoupled env c w).2.canon := by
  simp only [Core.readDecoupled, Core.decodeSpad_canon, Core.window_canon, hcan]

@[simp] theorem Core.commit_canon (c : Core) (q : WriteReq) (decoupled : Bool) (hcan : c.canon) : (Core.commit c q decoupled).canon := by
  have hw : ∀ v, Core.canon { c with spad := spSet 0 c.spad q.word v } := fun v => spWf_spSet _ _ _ _ hcan
  unfold Core.commit
  extract_lets raw
  split
  dsimp only
  split
  · exact hw _
  · exact Core.note_canon _ _ _ _ _ _ _ _ (hw _)

@[simp] theorem Core.issueWrite_canon (c : Core) (s : StreamId) (q : WriteReq) (hcan : c.canon) : (Core.issueWrite c s q).canon := by
  unfold Core.issueWrite
  (repeat' split) <;> exact hcan

@[simp] theorem Core.settleWrites_canon (c : Core) (t : Nat) (hcan : c.canon) : (Core.settleWrites c t).canon := by
  unfold Core.settleWrites
  repeat' (first
    | exact hcan | assumption | dsimp only | simp only [Core.commit_canon, Core.canon_update, *]
    | refine Core.canon_of_eq (by assumption) ?_ | refine Core.canon_foldl _ _ (fun _ _ _ => ?_) _ ?_)

@[simp] theorem Core.applyVu_canon (c : Core) (w : VuWrite) (hcan : c.canon) : (Core.applyVu c w).canon := by
  unfold Core.applyVu
  (repeat' split) <;> exact hcan

@[simp] theorem Core.settleVu_canon (c : Core) (t : Nat) (hcan : c.canon) : (Core.settleVu c t).canon := by
  unfold Core.settleVu
  repeat' (first
    | exact hcan | assumption | dsimp only | simp only [Core.applyVu_canon, Core.flag_canon, Core.canon_update, *]
    | refine Core.canon_of_eq (by assumption) ?_ | refine Core.canon_foldl _ _ (fun _ _ _ => ?_) _ ?_)

@[simp] theorem Core.vuLater_canon (c : Core) (s : StreamId) (due : Nat) (w : VuWrite) (hcan : c.canon) : (Core.vuLater c s due w).canon := hcan

@[simp] theorem Core.settleQueue_canon (c : Core) (t : Nat) (hcan : c.canon) : (Core.settleQueue c t).canon := by
  unfold Core.settleQueue
  repeat' (first
    | exact hcan | assumption | dsimp only | simp only [Core.canon_update, *] | refine Core.canon_of_eq (by assumption) ?_
    | refine Core.canon_foldl _ _ (fun _ _ _ => ?_) _ ?_)

/-! Operations of Machine/Engines.lean. -/

@[simp] theorem Core.feedBeat_canon (c : Core) (f : Feed) (got : List (Nat × RWord)) (hcan : c.canon) : (Core.feedBeat c f got).canon := by
  unfold Core.feedBeat
  dsimp only
  repeat' split
  all_goals simp only [hcan, Core.canon_update]

@[simp] theorem Core.land_canon (env : CoreEnv) (c : Core) (r : RowFlight) (hcan : c.canon) : (Core.land env c r).canon := by
  unfold Core.land
  exact Core.flag_canon _ _ _ (Core.setBank_canon _ _ _ hcan)

@[simp] theorem Core.settleRows_canon (env : CoreEnv) (c : Core) (t : Nat) (hcan : c.canon) : (Core.settleRows env c t).canon := by
  unfold Core.settleRows
  repeat' (first
    | exact hcan | assumption | dsimp only | simp only [Core.land_canon, Core.canon_update, *]
    | refine Core.canon_of_eq (by assumption) ?_ | refine Core.canon_foldl _ _ (fun _ _ _ => ?_) _ ?_)

@[simp] theorem Core.wloadRow_canon (c : Core) (l : WLoad) (got : List (Nat × RWord)) (hcan : c.canon) : (Core.wloadRow c l got).canon := hcan

@[simp] theorem Core.bfillCycle_canon (c : Core) (b : BFill) (got : List (Nat × RWord)) (hcan : c.canon) : (Core.bfillCycle c b got).canon := by
  unfold Core.bfillCycle
  (repeat' split) <;> exact hcan

@[simp] theorem Core.drainTap_canon (env : CoreEnv) (c : Core) (d : DrainJob) (hcan : c.canon) : (Core.drainTap env c d).canon := by
  unfold Core.drainTap
  dsimp only
  repeat' split
  all_goals simp only [hcan, Core.canon_update]

@[simp] theorem Core.settleBanks_canon (c : Core) (t : Nat) (hcan : c.canon) : (Core.settleBanks c t).canon := by
  unfold Core.settleBanks
  split
  · exact hcan
  · extract_lets k c1
    have h1 : c1.canon := by
      show Core.canon (if _ then _ else _)
      split
      · exact Core.flag_canon _ _ _ (Core.setBank_canon _ _ _ hcan)
      · exact hcan
    split
    · exact Core.setBank_canon _ _ _ h1
    · exact h1

/-! Operations of Machine/Advance.lean. -/

@[simp] theorem Core.issueWrites_canon (c : Core) (a : Access) (bad : List Nat) (hcan : c.canon) : (Core.issueWrites c a bad).canon := by
  unfold Core.issueWrites
  repeat' (first
    | exact hcan | assumption | dsimp only | simp only [Core.issueWrite_canon, *]
    | refine Core.canon_of_eq (by assumption) ?_ | refine Core.canon_foldl _ _ (fun _ _ _ => ?_) _ ?_)

@[simp] theorem Core.readWords_canon (env : CoreEnv) (c : Core) (a : Access) (bad : List Nat) (hcan : c.canon) : (Core.readWords env c a
    bad).2.canon := by
  unfold Core.readWords
  repeat' (first
    | exact hcan | assumption | dsimp only | simp only [Core.readStatic_canon, *]
    | refine Core.canon_of_eq (by assumption) ?_ | refine Core.canon_foldl _ _ (fun _ _ _ => ?_) _ ?_
    | refine Core.canon_foldl_snd _ _ (fun _ _ _ => ?_) _ ?_)

@[simp] theorem Core.deliver_canon (env : CoreEnv) (c : Core) (a : Access) (got : List (Nat × RWord)) (hcan : c.canon) : (Core.deliver env c a
    got).canon := by
  unfold Core.deliver
  dsimp only
  repeat' split
  all_goals simp only [Core.vuLater_canon, Core.feedBeat_canon, Core.wloadRow_canon, Core.bfillCycle_canon, hcan, Core.canon_update]

@[simp] theorem Core.drainFlags_canon (c : Core) (s : StreamId) (fl : Byte) (hcan : c.canon) : (Core.drainFlags c s fl).canon := by
  unfold Core.drainFlags
  split
  · exact Core.flag_canon _ _ _ (Core.setBank_canon _ _ _ hcan)
  · exact hcan

@[simp] theorem Core.closeCycle_canon (env : CoreEnv) (c : Core) (hcan : c.canon) : (Core.closeCycle env c).canon := by
  unfold Core.closeCycle
  repeat' (first
    | exact hcan | assumption | dsimp only
    | simp only [Core.haltWho_canon, Core.drainFlags_canon, Core.drainTap_canon, Core.issueWrites_canon, Core.readWords_canon, Core.deliver_canon, Core.canon_update, *]
    | refine Core.canon_of_eq (by assumption) ?_ | refine Core.canon_foldl _ _ (fun _ _ _ => ?_) _ ?_
    | refine Core.canon_foldl_snd _ _ (fun _ _ _ => ?_) _ ?_ | split)

@[simp] theorem Core.settle_canon (env : CoreEnv) (c : Core) (t : Nat) (hcan : c.canon) : (Core.settle env c t).canon := by
  unfold Core.settle
  refine Core.settleBanks_canon _ _ ?_
  refine Core.settleQueue_canon _ _ ?_
  refine Core.settleWrites_canon _ _ ?_
  refine Core.settleVu_canon _ _ ?_
  exact Core.settleRows_canon _ _ _ (Core.settleTokens_canon _ _ _ _ hcan)

@[simp] theorem Core.advance_canon (n : Nat) (env : CoreEnv) (c : Core) (hcan : c.canon) : (Core.advance n env c).canon := by
  induction n generalizing c with
  | zero => exact hcan
  | succ k ih =>
    unfold Core.advance
    split
    · exact Core.settle_canon _ _ _ hcan
    · exact ih _ (Core.settle_canon _ _ _ (Core.closeCycle_canon _ _ hcan))

@[simp] theorem Core.advanceTo_canon (env : CoreEnv) (c : Core) (t : Nat) (hcan : c.canon) : (Core.advanceTo env c t).canon := by
  simp only [Core.advanceTo, Core.advance_canon, hcan]

/-! Operations of Machine/Control.lean. -/

@[simp] theorem Core.illegal_canon (c : Core) (s : StreamId) (hcan : c.canon) : (Core.illegal c s).canon := by
  cases s <;> exact hcan

@[simp] theorem Core.goOn_canon (c : Core) (s : StreamId) (g : BitVec 12) (n : Nat) (hcan : c.canon) : (Core.goOn c s g n).canon := by
  cases s <;> exact hcan

@[simp] theorem Core.issue_canon (env : CoreEnv) (c0 : Core) (s : StreamId) (want : Insn → Bool) (body : CoreEnv → Core → StreamId → Decoded →
    Core) (hbody : ∀ e x k d, x.canon → (body e x k d).canon) (hcan : c0.canon) : (Core.issue env c0 s want body).canon := by
  have ha : ∀ x e t, Core.canon x → (Core.advanceTo e x t).canon := fun x e t hx => Core.advanceTo_canon _ _ _ hx
  have hn : ∀ x o r a b1 b2 b3 n, Core.canon x → (Core.note x o r a b1 b2 b3 n).canon :=
    fun x o r a b1 b2 b3 n hx => Core.note_canon _ _ _ _ _ _ _ _ hx
  unfold Core.issue
  split
  · exact hcan
  · extract_lets c st n
    have hc : c.canon := ha _ _ _ hcan
    clear_value c
    split
    · exact hc
    · split
      split
      · exact Core.halt_canon _ _ _ _ (hn _ _ _ _ _ _ _ _ hc)
      · split
        · exact Core.illegal_canon _ _ (hn _ _ _ _ _ _ _ _ hc)
        · split
          · exact hcan
          · split
            · extract_lets nt d
              have hd : d.canon := ha _ _ _ (hn _ _ _ _ _ _ _ _ hc)
              clear_value d
              split
              · assumption
              · split
                · exact Core.illegal_canon _ _ hd
                · exact hbody _ _ _ _ hd
            · exact hbody _ _ _ _ (hn _ _ _ _ _ _ _ _ hc)

@[simp] theorem bodyNop_canon (y1 : CoreEnv) (c : Core) (s : StreamId) (d : Decoded) (hcan : c.canon) : (bodyNop y1 c s d).canon := by
  cases s <;> exact hcan

@[simp] theorem bodyHalt_canon (y1 : CoreEnv) (c : Core) (s : StreamId) (y2 : Decoded) (hcan : c.canon) : (bodyHalt y1 c s y2).canon := by
  cases s <;> exact hcan

@[simp] theorem bodyStream_canon (y1 : CoreEnv) (c : Core) (s : StreamId) (d : Decoded) (hcan : c.canon) : (bodyStream y1 c s d).canon := by
  cases s <;> exact hcan

@[simp] theorem bodyBranch_canon (y1 : CoreEnv) (c : Core) (s : StreamId) (d : Decoded) (hcan : c.canon) : (bodyBranch y1 c s d).canon := by
  unfold bodyBranch
  dsimp only
  repeat' split
  all_goals simp only [Core.modStream_canon, Core.goOn_canon, hcan]

@[simp] theorem bodyHswitch_canon (y1 : CoreEnv) (c : Core) (s : StreamId) (d : Decoded) (hcan : c.canon) : (bodyHswitch y1 c s d).canon := by
  unfold bodyHswitch
  dsimp only
  repeat' split
  all_goals simp only [Core.modStream_canon, Core.halt_canon, hcan]

@[simp] theorem bodyTwait_canon (y1 : CoreEnv) (c : Core) (s : StreamId) (d : Decoded) (hcan : c.canon) : (bodyTwait y1 c s d).canon := by
  unfold bodyTwait
  repeat' (first
    | exact hcan | assumption | dsimp only | simp only [Core.modStream_canon, Core.testNow_canon, *]
    | refine Core.canon_of_eq (by assumption) ?_ | refine Core.canon_foldl _ _ (fun _ _ _ => ?_) _ ?_
    | refine Core.canon_foldl_snd _ _ (fun _ _ _ => ?_) _ ?_ | split)

@[simp] theorem bodyTpost_canon (env : CoreEnv) (c : Core) (s : StreamId) (d : Decoded) (hcan : c.canon) : (bodyTpost env c s d).canon := by
  unfold bodyTpost
  dsimp only
  repeat' split
  all_goals simp only [Core.postAt_canon, Core.illegal_canon, Core.goOn_canon, hcan, Core.canon_update]

@[simp] theorem bodyQpush_canon (y1 : CoreEnv) (c : Core) (s : StreamId) (d : Decoded) (hcan : c.canon) : (bodyQpush y1 c s d).canon := by
  unfold bodyQpush
  dsimp only
  repeat' split
  all_goals simp only [Core.halt_canon, Core.illegal_canon, Core.goOn_canon, hcan, Core.canon_update]

@[simp] theorem Core.awaitGrant_canon (n : Nat) (env : CoreEnv) (c : Core) (s : StreamId) (hcan : c.canon) : (Core.awaitGrant n env c s).canon := by
  induction n generalizing c with
  | zero => exact hcan
  | succ k ih =>
    unfold Core.awaitGrant
    (repeat' split)
    all_goals (first | exact hcan | (refine ih _ ?_; simp only [Core.testNow_canon, Core.advanceTo_canon, hcan]))

@[simp] theorem Core.twaitGrant_canon (env : CoreEnv) (c : Core) (s : StreamId) (hcan : c.canon) : (Core.twaitGrant env c s).canon := by
  unfold Core.twaitGrant
  dsimp only
  repeat' split
  all_goals simp only [Core.testNow_canon, Core.awaitGrant_canon, hcan]

@[simp] theorem Core.watchdog_canon (env : CoreEnv) (c : Core) (s : StreamId) (hcan : c.canon) : (Core.watchdog env c s).canon := by
  unfold Core.watchdog
  dsimp only
  repeat' split
  all_goals simp (maxDischargeDepth := 12) only [Core.halt_canon, Core.testNow_canon, Core.advanceTo_canon, hcan]

@[simp] theorem Core.tokenArrives_canon (c : Core) (i : Nat) (hcan : c.canon) : (Core.tokenArrives c i).canon := by
  unfold Core.tokenArrives
  repeat' split
  all_goals simp only [Core.postAt_canon, hcan, Core.canon_update]

@[simp] theorem Core.tokenSet_canon (c : Core) (index : BitVec 5) (value : Byte) (hcan : c.canon) : (Core.tokenSet c index value).canon := by
  unfold Core.tokenSet
  dsimp only
  repeat' split
  all_goals simp only [hcan, Core.canon_update]

@[simp] theorem Core.advanceToNext_canon (env : CoreEnv) (c : Core) (due : Option Nat) (hcan : c.canon) : (Core.advanceToNext env c due).canon := by
  unfold Core.advanceToNext
  repeat' (first
    | exact hcan | assumption | dsimp only | simp only [Core.advanceTo_canon, *]
    | refine Core.canon_of_eq (by assumption) ?_ | refine Core.canon_foldl _ _ (fun _ _ _ => ?_) _ ?_
    | refine Core.canon_foldl_snd _ _ (fun _ _ _ => ?_) _ ?_ | split)

/-! Operations of Machine/ArrayOps.lean. -/

@[simp] theorem Core.goOnArray_canon (c : Core) (s : StreamId) (g : BitVec 12) (hcan : c.canon) : (Core.goOnArray c s g).canon := by
  cases s <;> exact hcan

@[simp] theorem Core.withDesc_canon (c : Core) (s : StreamId) (desc : BitVec 10) (k : Core → OpDesc → Core) (hk : ∀ x o, x.canon → (k x o).canon)
    (hcan : c.canon) : (Core.withDesc c s desc k).canon := by
  unfold Core.withDesc
  extract_lets st n
  split
  rename_i o raw rw _
  have hn : (c.note o raw (BitVec.ofNat 21 (32 * n)) false true false (streamNo s)).canon := Core.note_canon _ _ _ _ _ _ _ _ hcan
  extract_lets x
  have hx : x.canon := hn
  clear_value x
  split
  · exact Core.halt_canon _ _ _ _ hx
  · split
    · exact Core.illegal_canon _ _ hx
    · exact hk _ _ hx

@[simp] theorem Core.swap_canon (c : Core) (hcan : c.canon) : (Core.swap c).canon := hcan

@[simp] theorem Core.matmulWith_canon (c : Core) (s : StreamId) (g : BitVec 12) (m : MatmulF) (a : AOperand) (slabs : List Slab) (hcan : c.canon)
    : (Core.matmulWith c s g m a slabs).canon := by
  unfold Core.matmulWith
  dsimp only
  repeat' split
  all_goals simp (maxDischargeDepth := 12) only [Core.setBank_canon, Core.illegal_canon, Core.goOnArray_canon, Core.swap_canon, hcan,
      Core.canon_update]

@[simp] theorem bodyMatmul_canon (y1 : CoreEnv) (c : Core) (s : StreamId) (d : Decoded) (hcan : c.canon) : (bodyMatmul y1 c s d).canon := by
  unfold bodyMatmul
  split
  · split
    · split
      · exact Core.illegal_canon _ _ hcan
      · split
        · exact Core.illegal_canon _ _ hcan
        · exact Core.matmulWith_canon _ _ _ _ _ _ hcan
    · refine Core.withDesc_canon _ _ _ _ (fun x o hx => ?_) hcan
      dsimp only
      split
      · exact Core.illegal_canon _ _ hx
      · exact Core.matmulWith_canon _ _ _ _ _ _ hx
  · exact hcan

@[simp] theorem Core.wloadWith_canon (c : Core) (s : StreamId) (g : BitVec 12) (l : WLoad) (coarse : Byte) (hcan : c.canon) : (Core.wloadWith c s
    g l coarse).canon := by
  cases s <;> exact hcan

@[simp] theorem bodyWload_canon (y1 : CoreEnv) (c : Core) (s : StreamId) (d : Decoded) (hcan : c.canon) : (bodyWload y1 c s d).canon := by
  unfold bodyWload
  split
  · split
    · split
      · exact Core.illegal_canon _ _ hcan
      · split
        · exact Core.illegal_canon _ _ hcan
        · exact Core.wloadWith_canon _ _ _ _ _ hcan
    · refine Core.withDesc_canon _ _ _ _ (fun x o hx => ?_) hcan
      dsimp only
      split
      · exact Core.illegal_canon _ _ hx
      · exact Core.wloadWith_canon _ _ _ _ _ hx
  · exact hcan

@[simp] theorem bodyWswap_canon (y1 : CoreEnv) (c : Core) (s : StreamId) (d : Decoded) (hcan : c.canon) : (bodyWswap y1 c s d).canon := by
  unfold bodyWswap
  repeat' (first
    | exact hcan | assumption | dsimp only | simp only [Core.illegal_canon, Core.goOnArray_canon, Core.swap_canon, *]
    | refine Core.canon_of_eq (by assumption) ?_ | refine Core.canon_foldl _ _ (fun _ _ _ => ?_) _ ?_
    | refine Core.canon_foldl_snd _ _ (fun _ _ _ => ?_) _ ?_ | split)

@[simp] theorem bodyBfill_canon (y1 : CoreEnv) (c : Core) (s : StreamId) (d : Decoded) (hcan : c.canon) : (bodyBfill y1 c s d).canon := by
  unfold bodyBfill
  split
  · refine Core.withDesc_canon _ _ _ _ (fun x o hx => ?_) hcan
    extract_lets st sh
    split
    split
    · exact Core.illegal_canon _ _ hx
    · exact Core.goOnArray_canon _ _ _ hx
  · exact hcan

@[simp] theorem bodyDrain_canon (y1 : CoreEnv) (c : Core) (s : StreamId) (d : Decoded) (hcan : c.canon) : (bodyDrain y1 c s d).canon := by
  unfold bodyDrain
  split
  · refine Core.withDesc_canon _ _ _ _ (fun x o hx => ?_) hcan
    extract_lets
    split
    · exact Core.illegal_canon _ _ hx
    · split
      refine Core.goOnArray_canon _ _ _ ?_
      split
      · exact Core.postAt_canon _ _ _ _ (Core.setBank_canon _ _ _ hx)
      · exact Core.setBank_canon _ _ _ hx
  · exact hcan

@[simp] theorem Core.feedEnd_canon (env : CoreEnv) (c : Core) (hcan : c.canon) : (Core.feedEnd env c).canon := by
  unfold Core.feedEnd
  repeat' (first
    | exact hcan | assumption | dsimp only | simp only [Core.advanceTo_canon, *]
    | refine Core.canon_of_eq (by assumption) ?_ | refine Core.canon_foldl _ _ (fun _ _ _ => ?_) _ ?_
    | refine Core.canon_foldl_snd _ _ (fun _ _ _ => ?_) _ ?_ | split)

@[simp] theorem Core.p96Accumulate_canon (env : CoreEnv) (c : Core) (hcan : c.canon) : (Core.p96Accumulate env c).canon := by
  unfold Core.p96Accumulate
  repeat' (first
    | exact hcan | assumption | dsimp only | simp only [Core.advanceTo_canon, *]
    | refine Core.canon_of_eq (by assumption) ?_ | refine Core.canon_foldl _ _ (fun _ _ _ => ?_) _ ?_
    | refine Core.canon_foldl_snd _ _ (fun _ _ _ => ?_) _ ?_ | split)

@[simp] theorem Core.wloadComplete_canon (env : CoreEnv) (c : Core) (hcan : c.canon) : (Core.wloadComplete env c).canon := by
  unfold Core.wloadComplete
  repeat' (first
    | exact hcan | assumption | dsimp only | simp only [Core.advanceTo_canon, *]
    | refine Core.canon_of_eq (by assumption) ?_ | refine Core.canon_foldl _ _ (fun _ _ _ => ?_) _ ?_
    | refine Core.canon_foldl_snd _ _ (fun _ _ _ => ?_) _ ?_ | split)

@[simp] theorem Core.bfillComplete_canon (env : CoreEnv) (c : Core) (hcan : c.canon) : (Core.bfillComplete env c).canon := by
  unfold Core.bfillComplete
  repeat' (first
    | exact hcan | assumption | dsimp only | simp only [Core.advanceTo_canon, *]
    | refine Core.canon_of_eq (by assumption) ?_ | refine Core.canon_foldl _ _ (fun _ _ _ => ?_) _ ?_
    | refine Core.canon_foldl_snd _ _ (fun _ _ _ => ?_) _ ?_ | split)

@[simp] theorem Core.bankTailEnd_canon (env : CoreEnv) (c : Core) (hcan : c.canon) : (Core.bankTailEnd env c).canon := by
  unfold Core.bankTailEnd
  repeat' (first
    | exact hcan | assumption | dsimp only | simp only [Core.advanceTo_canon, *]
    | refine Core.canon_of_eq (by assumption) ?_ | refine Core.canon_foldl _ _ (fun _ _ _ => ?_) _ ?_
    | refine Core.canon_foldl_snd _ _ (fun _ _ _ => ?_) _ ?_ | split)

@[simp] theorem Core.bankDrainEnd_canon (env : CoreEnv) (c : Core) (hcan : c.canon) : (Core.bankDrainEnd env c).canon := by
  unfold Core.bankDrainEnd
  repeat' (first
    | exact hcan | assumption | dsimp only | simp only [Core.advanceTo_canon, *]
    | refine Core.canon_of_eq (by assumption) ?_ | refine Core.canon_foldl _ _ (fun _ _ _ => ?_) _ ?_
    | refine Core.canon_foldl_snd _ _ (fun _ _ _ => ?_) _ ?_ | split)

/-! Operations of Machine/VectorOps.lean. -/

@[simp] theorem Core.regLater_canon (c : Core) (s : StreamId) (d : Decoded) (lat : Nat) (vd : BitVec 5) (m : BitVec 64) (data : BitVec 2048) (p :
    BitVec 8) (hcan : c.canon) : (Core.regLater c s d lat vd m data p).canon := by
  cases s <;> exact hcan

@[simp] theorem bodyVfp_canon (y1 : CoreEnv) (c : Core) (s : StreamId) (d : Decoded) (hcan : c.canon) : (bodyVfp y1 c s d).canon := by
  unfold bodyVfp
  dsimp only
  repeat' split
  all_goals simp only [Core.vuLater_canon, Core.goOn_canon, Core.regLater_canon, hcan]

@[simp] theorem bodyVint_canon (y1 : CoreEnv) (c : Core) (s : StreamId) (d : Decoded) (hcan : c.canon) : (bodyVint y1 c s d).canon := by
  unfold bodyVint
  dsimp only
  repeat' split
  all_goals simp only [Core.regLater_canon, hcan]

@[simp] theorem bodyVxl_canon (y1 : CoreEnv) (c : Core) (s : StreamId) (d : Decoded) (hcan : c.canon) : (bodyVxl y1 c s d).canon := by
  unfold bodyVxl
  dsimp only
  repeat' split
  all_goals simp only [Core.regLater_canon, hcan]

@[simp] theorem bodyVcvt_canon (env : CoreEnv) (c : Core) (s : StreamId) (d : Decoded) (hcan : c.canon) : (bodyVcvt env c s d).canon := by
  unfold bodyVcvt
  dsimp only
  repeat' split
  all_goals simp (maxDischargeDepth := 12) only [Core.flag_canon, Core.vuLater_canon, Core.illegal_canon, Core.goOn_canon, hcan]

@[simp] theorem Core.nTerms_canon (c : Core) (s : StreamId) (d : Decoded) (h : VuHead) (f : Nat → FVal) (p : BitVec 8) (hcan : c.canon) :
    (Core.nTerms c s d h f p).canon := by
  cases s <;> exact hcan

@[simp] theorem bodyNopen_canon (y1 : CoreEnv) (c : Core) (s : StreamId) (d : Decoded) (hcan : c.canon) : (bodyNopen y1 c s d).canon := by
  unfold bodyNopen
  repeat' (first
    | exact hcan | assumption | dsimp only | simp only [Core.vuLater_canon, Core.goOn_canon, *]
    | refine Core.canon_of_eq (by assumption) ?_ | refine Core.canon_foldl _ _ (fun _ _ _ => ?_) _ ?_
    | refine Core.canon_foldl_snd _ _ (fun _ _ _ => ?_) _ ?_ | split)

@[simp] theorem bodyNacc_canon (y1 : CoreEnv) (c : Core) (s : StreamId) (d : Decoded) (hcan : c.canon) : (bodyNacc y1 c s d).canon := by
  unfold bodyNacc
  repeat' (first
    | exact hcan | assumption | dsimp only | simp only [Core.nTerms_canon, *] | refine Core.canon_of_eq (by assumption) ?_
    | refine Core.canon_foldl _ _ (fun _ _ _ => ?_) _ ?_ | refine Core.canon_foldl_snd _ _ (fun _ _ _ => ?_) _ ?_ | split)

@[simp] theorem bodyNsq_canon (y1 : CoreEnv) (c : Core) (s : StreamId) (d : Decoded) (hcan : c.canon) : (bodyNsq y1 c s d).canon := by
  unfold bodyNsq
  dsimp only
  repeat' split
  all_goals simp only [Core.nTerms_canon, hcan]

@[simp] theorem bodyNdot_canon (y1 : CoreEnv) (c : Core) (s : StreamId) (d : Decoded) (hcan : c.canon) : (bodyNdot y1 c s d).canon := by
  unfold bodyNdot
  repeat' (first
    | exact hcan | assumption | dsimp only | simp only [Core.nTerms_canon, *] | refine Core.canon_of_eq (by assumption) ?_
    | refine Core.canon_foldl _ _ (fun _ _ _ => ?_) _ ?_ | refine Core.canon_foldl_snd _ _ (fun _ _ _ => ?_) _ ?_ | split)

@[simp] theorem bodyNread_canon (env : CoreEnv) (c : Core) (s : StreamId) (d : Decoded) (hcan : c.canon) : (bodyNread env c s d).canon := by
  unfold bodyNread
  dsimp only
  repeat' split
  all_goals simp only [Core.flag_canon, Core.illegal_canon, Core.regLater_canon, hcan]

@[simp] theorem Core.mwAddOn_canon (c : Core) (s : StreamId) (d : Decoded) (h : VuHead) (es : List Nat) (delta : Nat → FVal) (dpsn : Nat → Bool)
    (rnd : Nat → BitVec 32) (rpsn : Nat → Bool) (hcan : c.canon) : (Core.mwAddOn c s d h es delta dpsn rnd rpsn).canon := by
  unfold Core.mwAddOn
  dsimp only
  repeat' split
  all_goals simp (maxDischargeDepth := 12) only [Core.halt_canon, Core.flag_canon, Core.vuLater_canon, Core.illegal_canon, Core.goOn_canon, hcan]

@[simp] theorem bodyMwadd_canon (env : CoreEnv) (c : Core) (s : StreamId) (d : Decoded) (hcan : c.canon) : (bodyMwadd env c s d).canon := by
  unfold bodyMwadd
  dsimp only
  repeat' split
  all_goals simp only [Core.mwAddOn_canon, hcan]

@[simp] theorem bodyMwaddn_canon (env : CoreEnv) (c : Core) (s : StreamId) (d : Decoded) (hcan : c.canon) : (bodyMwaddn env c s d).canon := by
  unfold bodyMwaddn
  dsimp only
  repeat' split
  all_goals simp only [Core.mwAddOn_canon, hcan]

@[simp] theorem bodyMwrite_canon (y1 : CoreEnv) (c : Core) (s : StreamId) (d : Decoded) (hcan : c.canon) : (bodyMwrite y1 c s d).canon := by
  unfold bodyMwrite
  split
  · extract_lets st a fmt lm full other b0 va src b1 done ws acc c1 c2 c3
    clear_value other b1 done ws acc
    split
    · exact Core.illegal_canon _ _ hcan
    · have h1 : c1.canon := Core.modStream_canon _ _ _ hcan
      have h2 : c2.canon := by
        show Core.canon (if _ then _ else _)
        split
        · exact h1
        · exact h1
      have h3 : c3.canon := by
        show Core.canon (if _ then _ else _)
        split
        · exact Core.postAt_canon _ _ _ _ h2
        · exact h2
      exact Core.goOn_canon _ _ _ _ h3
  · exact hcan

@[simp] theorem bodyMread_canon (y1 : CoreEnv) (c : Core) (s : StreamId) (d : Decoded) (hcan : c.canon) : (bodyMread y1 c s d).canon := by
  unfold bodyMread
  dsimp only
  repeat' split
  all_goals simp only [Core.illegal_canon, Core.goOn_canon, hcan, Core.canon_update]

@[simp] theorem bodyDrop_canon (env : CoreEnv) (c : Core) (s : StreamId) (d : Decoded) (hcan : c.canon) : (bodyDrop env c s d).canon := by
  unfold bodyDrop
  dsimp only
  repeat' split
  all_goals simp only [Core.vuLater_canon, Core.goOn_canon, hcan]

@[simp] theorem bodyVld_canon (y1 : CoreEnv) (c : Core) (s : StreamId) (d : Decoded) (hcan : c.canon) : (bodyVld y1 c s d).canon := by
  unfold bodyVld
  dsimp only
  repeat' split
  all_goals simp only [Core.illegal_canon, Core.goOn_canon, hcan, Core.canon_update]

@[simp] theorem bodyVst_canon (y1 : CoreEnv) (c : Core) (s : StreamId) (d : Decoded) (hcan : c.canon) : (bodyVst y1 c s d).canon := by
  unfold bodyVst
  dsimp only
  repeat' split
  all_goals simp only [Core.postAt_canon, Core.illegal_canon, Core.goOn_canon, hcan, Core.canon_update]

@[simp] theorem Core.writeEffect_canon (env : CoreEnv) (c : Core) (hcan : c.canon) : (Core.writeEffect env c).canon := by
  unfold Core.writeEffect
  dsimp only
  repeat' split
  all_goals simp only [Core.advanceTo_canon, Core.advanceToNext_canon, hcan]

@[simp] theorem Core.writeback_canon (env : CoreEnv) (c : Core) (hcan : c.canon) : (Core.writeback env c).canon := by
  unfold Core.writeback
  dsimp only
  repeat' split
  all_goals simp only [Core.advanceTo_canon, Core.advanceToNext_canon, hcan]

@[simp] theorem Core.finishWork_canon (n : Nat) (env : CoreEnv) (c : Core) (s : StreamId) (hcan : c.canon) : (Core.finishWork n env c s).canon := by
  induction n generalizing c with
  | zero => exact hcan
  | succ k ih =>
    unfold Core.finishWork
    split
    · exact ih _ (Core.advanceTo_canon _ _ _ hcan)
    · exact hcan

end Sys2Proof.Machine
end

