-- ==== Sys2Proof/Laws/CanonOps.lean ====
section
/-! SUPPORT. For each operation of the shared operations, Erg and the collectives: it keeps the canonical form of
the memories (`State.canon`, Laws/Canon.lean). -/

namespace Sys2Proof.Machine

/-- An update of other fields keeps the form. -/
@[simp] theorem State.canon_update (s : State) (p : List Instr) (i : Ident) (e : Fabric) (co : Coll) (h : HostIf) (j : JobRegs) (si : Silent)
    (po : Power) (n : Notar) (k : Cairn) (o : List Out) (f : Nat) (cy : Option CycleMarks) :
    State.canon ⟨p, i, s.cores, s.mem, e, co, h, j, si, po, n, k, o, f, cy⟩ ↔ s.canon := Iff.rfl

@[simp] theorem State.canon_mem (s : State) (p : List Instr) (i : Ident) (e : Fabric) (co : Coll) (h : HostIf) (j : JobRegs) (si : Silent)
    (po : Power) (n : Notar) (k : Cairn) (o : List Out) (f : Nat) (cy : Option CycleMarks)
    (m2 : Bool) (m3 : Bool) (m4 : Byte) (m5 : BitVec 16) (m6 : BitVec 16) (m7 : BitVec 16) (m8 : BitVec 16) (m9 : Bool) (m10 : Bool) (m11 : Nat)
        (m12 : Nat) (m13 : Bool) (m14 : Bool) (m15 : Sparse SrcLog) :
    State.canon ⟨p, i, s.cores, ⟨s.mem.bonded, s.mem.lpddr, m2, m3, m4, m5, m6, m7, m8, m9, m10, m11, m12, m13, m14, m15⟩, e, co, h, j, si, po,
        n, k, o, f, cy⟩ ↔ s.canon := Iff.rfl

/-- The watchdog's resumption touches no scratchpad. -/
theorem Core.resumeWatch_canon (c before : Core) (hcan : c.canon) : (c.resumeWatch before).canon := by
  unfold Core.resumeWatch
  split <;> exact hcan

theorem Core.qDiscard_canon (c : Core) (from_ : Option (BitVec 32)) (hcan : c.canon) : (c.qDiscard from_).canon := Core.resumeWatch_canon _ _ hcan

theorem Core.closed_canon (c : Core) : c.closed.canon := rfl

theorem Mem.wf_clearPage (m : Mem) (e : BitVec 32) (h : m.wf = true) : (m.clearPage e).wf = true := by
  simp only [Mem.wf, Bool.and_eq_true] at h ⊢
  unfold Mem.clearPage
  extract_lets region k
  split
  · exact h
  · split
    · exact ⟨spWf_spDrop _ _ _ _ h.1, h.2⟩
    · exact ⟨h.1, spWf_spDrop _ _ _ _ h.2⟩

theorem Mem.wf_clearPages (l : List (Nat × BitVec 32)) (m : Mem) (h : m.wf = true) :
    (l.foldl (fun m e => m.clearPage e.2) m).wf = true := by
  induction l generalizing m with
  | nil => exact h
  | cons x r ih => exact ih _ (Mem.wf_clearPage _ _ h)

theorem Core.writeToken_canon (c : Core) (v : Nat) (hcan : c.canon) : (c.writeToken v).canon := Core.tokenSet_canon _ _ _ hcan

theorem Core.canon_ite {p : Prop} [Decidable p] {a b : Core} (ha : a.canon) (hb : b.canon) : (if p then a else b).canon := by
  split <;> assumption

theorem Core.writeReg_canon (c : Core) (o v : Nat) (hcan : c.canon) : (c.writeReg o v).canon := by
  unfold Core.writeReg
  repeat' (first
    | with_reducible refine Core.canon_ite ?_ ?_
    | with_reducible exact Core.modStream_canon _ _ _ hcan
    | with_reducible exact Core.writeToken_canon _ _ hcan
    | exact hcan)

theorem Core.resetKept_canon (c : Core) : c.resetKept.canon := rfl

theorem State.canon_setScrub (s : State) (k : ScrubClass) (pos : Nat) (ovr : Bool) (hcan : s.canon) :
    ({ s with mem := s.mem.setScrub k pos ovr } : State).canon := by
  cases k <;> exact hcan

theorem State.canon_passDone (s : State) (k : ScrubClass) (hcan : s.canon) : ({ s with mem := s.mem.passDone k } : State).canon := by
  cases k <;> exact hcan

/-! Operations of Machine/Ops.lean. -/

theorem State.send_canon (s : State) (o : Out) (hcan : s.canon) : ((State.send s o)).canon := hcan

theorem State.mark_canon (s : State) (f : CycleMarks → CycleMarks) (hcan : s.canon) : (State.mark s f).canon := hcan

theorem State.draw_canon (s : State) (place : Nat) (hcan : s.canon) : ((State.draw s place).2).canon := hcan

theorem State.dma_canon (s : State) (addr : Nat) (bytes : List Byte) (hcan : s.canon) : (State.dma s addr bytes).canon := by
  unfold State.dma
  split <;> exact hcan

theorem State.oneCycle_canon (t s : State) (hcan : t.canon) : (State.oneCycle t s).canon := hcan

theorem State.msix_canon (s : State) (v : Nat) (hcan : s.canon) : ((State.msix s v)).canon := by
  unfold State.msix
  dsimp only
  repeat' split
  all_goals simp (maxDischargeDepth := 12) only [State.send_canon, hcan, State.canon_update]

theorem State.ibi_canon (s : State) (b : Byte) (hcan : s.canon) : ((State.ibi s b)).canon := by
  unfold State.ibi
  repeat' (first
    | exact hcan | assumption | dsimp only
    | simp (maxDischargeDepth := 12) only [State.send_canon, hcan, State.canon_update, State.canon_mem, State.core_canon, *]
    | refine State.canon_of_eq (by assumption) ?_ | refine State.canon_of_eq3 (by assumption) ?_
    | refine State.canon_foldl _ _ (fun _ _ _ => ?_) _ ?_ | refine State.canon_foldl_snd _ _ (fun _ _ _ => ?_) _ ?_
    | refine State.canon_foldl3 _ _ (fun _ _ _ => ?_) _ ?_ | split)

theorem State.setState_canon (s : State) (v : BitVec 4) (hcan : s.canon) : ((State.setState s v)).canon := by
  unfold State.setState
  split
  · exact hcan
  · exact State.ibi_canon _ _ (State.msix_canon _ _ hcan)

theorem State.record_canon (s : State) (type : BitVec 16) (origin : Byte) (payload : List Byte) (hcan : s.canon) : ((State.record s type origin
    payload)).canon := by
  unfold State.record
  dsimp only
  repeat' split
  all_goals simp (maxDischargeDepth := 12) only [hcan, State.mark_canon, State.canon_update]

theorem State.ueRecord_canon (s : State) (src : Nat) (patrol rmw : Bool) (lane : Byte) (addr : BitVec 64) (syn : BitVec 32) (hcan : s.canon) :
    ((State.ueRecord s src patrol rmw lane addr syn)).canon := by
  simp (maxDischargeDepth := 12) only [State.ueRecord, State.msix_canon, State.record_canon, hcan]

theorem State.coreUe_canon (s : State) (p : Nat) (u : FoundUe) (hcan : s.canon) : ((State.coreUe s p u)).canon := by
  unfold State.coreUe
  split
  rename_i h1
  have c1 := State.canon_of_eq h1 (State.draw_canon _ _ hcan)
  split
  rename_i h2
  have c2 := State.canon_of_eq h2 (State.draw_canon _ _ c1)
  exact State.ueRecord_canon _ _ _ _ _ _ _ c2

theorem State.post_canon (s : State) (core : Nat) (token : BitVec 5) (count : BitVec 8) (hcan : s.canon) : ((State.post s core token
    count)).canon := by
  unfold State.post
  split
  · exact State.setCore_canon _ _ _ hcan (State.core_canon _ _ hcan)
  · exact hcan

theorem State.tap_canon (s : State) (t : Tap) (hcan : s.canon) : ((State.tap s t)).canon := by
  unfold State.tap
  dsimp only
  repeat' split
  all_goals simp (maxDischargeDepth := 12) only [hcan, State.canon_update]

theorem State.onCore_canon (s : State) (p : Nat) (f : CoreEnv → Core → Core) (hf : ∀ e x, x.canon → (f e x).canon) (hcan : s.canon) :
    ((State.onCore s p f)).canon := by
  unfold State.onCore
  extract_lets c s1 s2 s3
  have h1 : s1.canon := State.setCore_canon _ _ _ hcan (hf _ _ (State.core_canon _ _ hcan))
  have h2 : s2.canon := State.canon_foldl _ _ (fun _ _ h => State.coreUe_canon _ _ _ h) _ h1
  have h3 : s3.canon := State.canon_foldl _ _ (fun _ _ h => State.post_canon _ _ _ _ h) _ h2
  exact State.canon_foldl _ _ (fun _ _ h => State.tap_canon _ _ h) _ h3

theorem State.atCore_canon (s : State) (p : Nat) (f : CoreEnv → Core → Core) (hf : ∀ e x, x.canon → (f e x).canon) (hcan : s.canon) :
    ((State.atCore s p f)).canon := by
  unfold State.atCore
  split
  · exact State.onCore_canon _ _ _ hf hcan
  · exact hcan

theorem State.issue_canon (s : State) (p : CoreId) (st : StreamId) (want : Insn → Bool) (body : CoreEnv → Core → StreamId → Decoded → Core)
    (hbody : ∀ e x k d, x.canon → (body e x k d).canon) (hcan : s.canon) : ((State.issue s p st want body)).canon := State.atCore_canon _ _ _
    (fun e x h => Core.issue_canon e x _ _ _ hbody h) hcan

theorem State.modLog_canon (s : State) (src : Nat) (f : SrcLog → SrcLog) (hcan : s.canon) : ((State.modLog s src f)).canon := hcan

theorem State.crossing_canon (s : State) (a b : Site) (poison : Bool) (hcan : s.canon) : ((State.crossing s a b poison)).canon := by
  unfold State.crossing
  repeat' (first
    | exact hcan | assumption | dsimp only
    | simp (maxDischargeDepth := 12) only [State.modLog_canon, hcan, State.canon_update, State.canon_mem, State.core_canon, *]
    | refine State.canon_of_eq (by assumption) ?_ | refine State.canon_of_eq3 (by assumption) ?_
    | refine State.canon_foldl _ _ (fun _ _ _ => ?_) _ ?_ | refine State.canon_foldl_snd _ _ (fun _ _ _ => ?_) _ ?_
    | refine State.canon_foldl3 _ _ (fun _ _ _ => ?_) _ ?_ | split)

theorem State.latchUe_canon (s : State) (src : Nat) (patrol rmw : Bool) (lane : Byte) (addr : BitVec 64) (syn : BitVec 32) (hcan : s.canon) :
    (State.latchUe s src patrol rmw lane addr syn).canon := by
  unfold State.latchUe
  dsimp only
  split <;> exact hcan

theorem State.logWord_canon (s : State) (src : Nat) (o : DecodeOutcome) (raw : CodeWord) (addr : BitVec 64) (lane : Byte) (patrol rmw : Bool)
    (hcan : s.canon) : ((State.logWord s src o raw addr lane patrol rmw)).canon := by
  unfold State.logWord
  dsimp only
  repeat' split
  all_goals simp (maxDischargeDepth := 12) only [State.ueRecord_canon, State.latchUe_canon, State.modLog_canon, hcan]

theorem State.readDram_canon (s : State) (region off : Nat) (patrol : Bool) (hcan : s.canon) : ((State.readDram s region off patrol).2).canon := by
  unfold State.readDram
  extract_lets raw
  split
  split
  refine State.logWord_canon _ _ _ _ _ _ _ _ ?_
  exact ⟨hcan.1, hcan.2.1, Mem.wf_put _ _ _ _ hcan.2.2⟩

theorem State.writeDram_canon (s : State) (region off : Nat) (data : Data) (mask : BitVec 32) (poison : Bool) (hcan : s.canon) :
    ((State.writeDram s region off data mask poison)).canon := by
  unfold State.writeDram
  extract_lets raw
  split
  split
  have hp : ∀ w, State.canon { s with mem := s.mem.put region off w } :=
    fun w => ⟨hcan.1, hcan.2.1, Mem.wf_put _ _ _ _ hcan.2.2⟩
  split
  · exact hp _
  · exact State.logWord_canon _ _ _ _ _ _ _ _ (hp _)

theorem State.readWord_canon (s : State) (to_ : Site) (region off : Nat) (hcan : s.canon) : ((State.readWord s to_ region off).2).canon := by
  unfold State.readWord
  split
  rename_i rw u h
  refine State.crossing_canon _ _ _ _ (State.canon_of_eq h ?_)
  clear h
  split
  · exact State.readDram_canon _ _ _ _ hcan
  · split
    · split
      · split
        rename_i hc
        have := Core.canon_of_eq hc (Core.readDecoupled_canon _ _ _ (State.core_canon _ _ hcan))
        exact State.onCore_canon _ _ _ (fun _ _ _ => this) hcan
      · exact hcan
    · split
      · exact hcan
      · exact hcan

theorem State.writeWord_canon (s : State) (from_ : Site) (region off : Nat) (data : Data) (mask : BitVec 32) (poison : Bool) (hcan : s.canon) :
    ((State.writeWord s from_ region off data mask poison)).canon := by
  unfold State.writeWord
  extract_lets u
  have hu : u.canon := State.crossing_canon _ _ _ _ hcan
  clear_value u
  split
  · exact State.writeDram_canon _ _ _ _ _ _ hu
  · split
    · exact State.onCore_canon _ _ _ (fun _ _ h => Core.commit_canon _ _ _ h) hu
    · exact hu

theorem State.ownRefused_canon (s : State) (write modSide : Bool) (page : Nat) (hcan : s.canon) : ((State.ownRefused s write modSide page)).canon
    := by
  simp (maxDischargeDepth := 12) only [State.ownRefused, State.msix_canon, hcan, State.canon_update]

theorem State.modStep_canon (s : State) (step : BitVec 32) (f : StepInfo → StepInfo) (hcan : s.canon) : ((State.modStep s step f)).canon := hcan

/-! Operations of Machine/HostOps.lean. -/

theorem State.modQueue_canon (s : State) (q : Fin 8) (f : Queue → Queue) (hcan : s.canon) : ((State.modQueue s q f)).canon := hcan

theorem State.writeEntry_canon (s : State) (q : Fin 8) (h : HeldEntry) (hcan : s.canon) : ((State.writeEntry s q h)).canon := by
  unfold State.writeEntry
  dsimp only
  repeat' split
  all_goals simp (maxDischargeDepth := 12) only [State.dma_canon, State.msix_canon, State.modQueue_canon, hcan]

theorem State.postEntry_canon (s : State) (q : Fin 8) (entry : BitVec 256) (irq : Bool) (hcan : s.canon) : ((State.postEntry s q entry
    irq)).canon := by
  unfold State.postEntry
  dsimp only
  repeat' split
  all_goals simp (maxDischargeDepth := 12) only [State.modQueue_canon, State.writeEntry_canon, hcan]

theorem State.releaseHeld_canon (n : Nat) (s : State) (q : Fin 8) (hcan : s.canon) : ((State.releaseHeld n s q)).canon := by
  induction n generalizing s with
  | zero => exact hcan
  | succ k ih =>
    unfold State.releaseHeld
    dsimp only
    split
    · exact State.modQueue_canon _ _ _ hcan
    · split
      · exact hcan
      · exact ih _ (State.writeEntry_canon _ _ _ (State.modQueue_canon _ _ _ hcan))

theorem State.reportLaunch_canon (s : State) (launch : Option Nat) (type : Nat) (status : BitVec 16) (detail : Nat) (hcan : s.canon) :
    ((State.reportLaunch s launch type status detail)).canon := by
  unfold State.reportLaunch
  repeat' (first
    | exact hcan | assumption | dsimp only
    | simp (maxDischargeDepth := 12) only [State.postEntry_canon, *]
    | refine State.canon_of_eq (by assumption) ?_ | refine State.canon_of_eq3 (by assumption) ?_
    | refine State.canon_foldl _ _ (fun _ _ _ => ?_) _ ?_ | refine State.canon_foldl_snd _ _ (fun _ _ _ => ?_) _ ?_
    | refine State.canon_foldl3 _ _ (fun _ _ _ => ?_) _ ?_ | split)

theorem State.modMail_canon (s : State) (m : Fin 16) (f : Mailbox → Mailbox) (hcan : s.canon) : ((State.modMail s m f)).canon := hcan

theorem State.notice_canon (s : State) (to_ : BitVec 12) (hcan : s.canon) : ((State.notice s to_)).canon := by
  unfold State.notice
  repeat' (first
    | exact hcan | assumption | dsimp only
    | simp (maxDischargeDepth := 12) only [State.msix_canon, State.ibi_canon, *]
    | refine State.canon_of_eq (by assumption) ?_ | refine State.canon_of_eq3 (by assumption) ?_
    | refine State.canon_foldl _ _ (fun _ _ _ => ?_) _ ?_ | refine State.canon_foldl_snd _ _ (fun _ _ _ => ?_) _ ?_
    | refine State.canon_foldl3 _ _ (fun _ _ _ => ?_) _ ?_ | split)

theorem State.ackMail_canon (s : State) (m : Fin 16) (code : BitVec 16) (hcan : s.canon) : ((State.ackMail s m code)).canon := by
  simp (maxDischargeDepth := 12) only [State.ackMail, State.modMail_canon, State.notice_canon, hcan]

/-! Operations of Machine/Erg.lean. -/

theorem State.refuses_canon (s : State) (region off n : Nat) (write : Bool) (hcan : s.canon) : ((State.refuses s region off n write).2).canon := by
  unfold State.refuses
  repeat' (first
    | exact hcan | assumption | dsimp only
    | simp (maxDischargeDepth := 12) only [State.ownRefused_canon, *]
    | refine State.canon_of_eq (by assumption) ?_ | refine State.canon_of_eq3 (by assumption) ?_
    | refine State.canon_foldl _ _ (fun _ _ _ => ?_) _ ?_ | refine State.canon_foldl_snd _ _ (fun _ _ _ => ?_) _ ?_
    | refine State.canon_foldl3 _ _ (fun _ _ _ => ?_) _ ?_ | split)

theorem State.readWords_canon (s : State) (to_ : Site) (region off n : Nat) (hcan : s.canon) : ((State.readWords s to_ region off n).2).canon := by
  induction n generalizing s off with
  | zero => exact hcan
  | succ k ih =>
    unfold State.readWords
    exact ih _ _ (State.readWord_canon _ _ _ _ hcan)

theorem State.writeWords_canon (s : State) (from_ : Site) (region off n i fbyte lbyte : Nat) (ws : List RWord) (hcan : s.canon) :
    ((State.writeWords s from_ region off n i fbyte lbyte ws)).canon := by
  induction ws generalizing s off i with
  | nil => exact hcan
  | cons w r ih =>
    unfold State.writeWords
    exact ih _ _ _ (State.writeWord_canon _ _ _ _ _ _ _ hcan)

theorem State.serve_canon (s : State) (site : Site) (opc : BitVec 6) (a : BitVec 64) (rlen fbyte lbyte : Nat) (payload : List RWord) (hcan :
    s.canon) : ((State.serve s site opc a rlen fbyte lbyte payload).2).canon := by
  unfold State.serve
  extract_lets n
  split
  · exact hcan
  · split
    · exact hcan
    · split
      · rename_i h
        exact State.canon_of_eq h (State.refuses_canon _ _ _ _ _ hcan)
      · rename_i h
        have hu := State.canon_of_eq h (State.refuses_canon _ _ _ _ _ hcan)
        split
        · exact State.writeWords_canon _ _ _ _ _ _ _ _ _ hu
        · split
          rename_i h2
          exact State.canon_of_eq h2 (State.readWords_canon _ _ _ _ _ hu)

theorem State.modPort_canon (s : State) (p : Fin 16) (f : Port → Port) (hcan : s.canon) : ((State.modPort s p f)).canon := hcan

theorem State.ergCount_canon (s : State) (i : Fin 8) (hcan : s.canon) : ((State.ergCount s i)).canon := hcan

theorem State.transmit_canon (n : Nat) (s : State) (p : Fin 16) (hcan : s.canon) : (State.transmit n s p).canon := by
  induction n generalizing s with
  | zero => exact hcan
  | succ k ih =>
    unfold State.transmit
    dsimp only
    repeat' split
    all_goals first | exact hcan | exact ih _ (State.send_canon _ _ (State.modPort_canon _ _ _ hcan))

theorem State.sendFrame_canon (s : State) (p : Fin 16) (pkt : ErgPacket) (hcan : s.canon) : ((State.sendFrame s p pkt)).canon :=
  State.transmit_canon _ _ _ (State.modPort_canon _ _ _ hcan)

theorem State.creditsBack_canon (s : State) (hcan : s.canon) : (State.creditsBack s).canon := by
  unfold State.creditsBack
  refine State.canon_foldl _ _ (fun x y h => ?_) _ hcan
  exact State.transmit_canon _ _ _ (State.modPort_canon _ _ _ h)

theorem State.respond_canon (s : State) (plane : Nat) (pkt : ErgPacket) (hcan : s.canon) : ((State.respond s plane pkt)).canon := by
  unfold State.respond
  repeat' (first
    | exact hcan | assumption | dsimp only
    | simp (maxDischargeDepth := 12) only [State.sendFrame_canon, *]
    | refine State.canon_of_eq (by assumption) ?_ | refine State.canon_of_eq3 (by assumption) ?_
    | refine State.canon_foldl _ _ (fun _ _ _ => ?_) _ ?_ | refine State.canon_foldl_snd _ _ (fun _ _ _ => ?_) _ ?_
    | refine State.canon_foldl3 _ _ (fun _ _ _ => ?_) _ ?_ | split)

theorem State.handOver_canon (s : State) (pkt : ErgPacket) (hcan : s.canon) : ((State.handOver s pkt)).canon := by
  unfold State.handOver
  repeat' (first
    | with_reducible (first
      | assumption | apply State.sendFrame_canon | apply State.ergCount_canon
      | refine State.canon_foldl _ _ (fun _ _ _ => ?_) _ ?_ | refine State.canon_foldl_snd _ _ (fun _ _ _ => ?_) _ ?_)
    | simp only [State.canon_update] | split)

theorem State.pump_canon (n : Nat) (s : State) (dst : BitVec 12) (sid : BitVec 16) (hcan : s.canon) : ((State.pump n s dst sid)).canon := by
  induction n generalizing s with
  | zero => exact hcan
  | succ k ih =>
    unfold State.pump
    dsimp only
    split
    · exact hcan
    · split
      · exact hcan
      · exact ih _ (State.handOver_canon _ _ hcan)

theorem State.sendSeq_canon (s : State) (sid : BitVec 16) (pkt : ErgPacket) (access : Option ErgAccess) (step : Option (BitVec 32)) (hcan :
    s.canon) : ((State.sendSeq s sid pkt access step)).canon := by
  unfold State.sendSeq
  exact State.pump_canon _ _ _ _ hcan

theorem State.park_canon (s : State) (a : ErgAccess) (hcan : s.canon) : ((State.park s a)).canon := hcan

theorem State.serveOwn_canon (s : State) (site : Site) (a : ErgAccess) (hcan : s.canon) : (State.serveOwn s site a).2.canon := by
  unfold State.serveOwn
  split
  · exact State.park_canon _ _ hcan
  · exact State.serve_canon _ _ _ _ _ _ _ _ hcan

theorem State.loopback_canon (s : State) (site : Site) (a : ErgAccess) (hcan : s.canon) : (State.loopback s site a).2.canon := by
  unfold State.loopback
  dsimp only
  split
  · exact State.sendSeq_canon _ _ _ _ _ hcan
  · exact State.serveOwn_canon _ _ _ hcan

theorem State.crossOut_canon (s : State) (site : Site) (ws : List CodeWord) (hcan : s.canon) : (State.crossOut s site ws).canon :=
  State.canon_foldl _ _ (fun _ _ h => State.crossing_canon _ _ _ _ h) _ hcan

theorem State.route_canon (s : State) (site : Site) (a : ErgAccess) (hcan : s.canon) : ((State.route s site a).2).canon := by
  unfold State.route
  extract_lets space e dst own
  repeat' (first
    | with_reducible exact hcan | with_reducible exact State.park_canon _ _ hcan
    | with_reducible exact State.serveOwn_canon _ _ _ hcan | with_reducible exact State.loopback_canon _ _ _ hcan
    | with_reducible exact State.sendSeq_canon _ _ _ _ _ (State.crossOut_canon _ _ _ hcan) | split)

theorem State.request_canon (s : State) (site : Site) (a : ErgAccess) (hcan : s.canon) : ((State.request s site a).2.2).canon := by
  unfold State.request
  extract_lets tag a' e' u
  have hu : u.canon := hcan
  clear_value u
  split
  · rename_i h
    exact State.canon_of_eq h (State.route_canon _ _ _ hu)
  · rename_i h
    have := State.canon_of_eq h (State.route_canon _ _ _ hu)
    exact this

theorem State.returnCredits_canon (s : State) (p : Fin 16) (pkt : ErgPacket) (hcan : s.canon) : (State.returnCredits s p pkt).canon := hcan

theorem State.arrives_canon (s : State) (p : Fin 16) (pkt : ErgPacket) (ops : List Nat) (f : State → State) (hf : ∀ s, s.canon → (f s).canon)
    (hcan : s.canon) : ((State.arrives s p pkt ops f)).canon := by
  unfold State.arrives
  repeat' (first
    | exact hcan | assumption | dsimp only
    | simp (maxDischargeDepth := 12) only [*]
    | refine State.canon_of_eq (by assumption) ?_ | refine State.canon_of_eq3 (by assumption) ?_
    | refine State.canon_foldl _ _ (fun _ _ _ => ?_) _ ?_ | refine State.canon_foldl_snd _ _ (fun _ _ _ => ?_) _ ?_
    | refine State.canon_foldl3 _ _ (fun _ _ _ => ?_) _ ?_ | split)

theorem State.consumes_canon (s : State) (p : Fin 16) (pkt : ErgPacket) (ops : List Nat) (f : State → State) (hf : ∀ s, s.canon → (f s).canon)
    (hcan : s.canon) : (State.consumes s p pkt ops f).canon := by
  unfold State.consumes
  split
  · exact hf _ hcan
  · exact State.arrives_canon _ _ _ _ _ (fun _ h => hf _ (State.returnCredits_canon _ _ _ h)) hcan

theorem State.logUnplaced_canon (s : State) (src : Nat) (o : DecodeOutcome) (w : CodeWord) (lane : Byte) (hcan : s.canon) :
    (State.logUnplaced s src o w lane).canon := by
  unfold State.logUnplaced
  split
  · exact State.logWord_canon _ _ _ _ _ _ _ _ (State.draw_canon _ 14 hcan)
  · exact State.logWord_canon _ _ _ _ _ _ _ _ hcan

theorem State.logReceived_canon (s : State) (plane : Nat) (o : DecodeOutcome) (w : CodeWord) (base : Option (BitVec 64)) (i : Nat)
    (hcan : s.canon) : (State.logReceived s plane o w base i).canon := by
  unfold State.logReceived
  split
  · exact State.logWord_canon _ _ _ _ _ _ _ _ hcan
  · exact State.logUnplaced_canon _ _ _ _ _ hcan

theorem State.takePayload_canon (s : State) (plane : Nat) (pkt : ErgPacket) (hcan : s.canon) : ((State.takePayload s plane pkt).2).canon := by
  unfold State.takePayload
  refine State.canon_foldl_snd _ _ (fun x y h => ?_) _ hcan
  exact State.logReceived_canon _ _ _ _ _ _ h

theorem State.sendAck_canon (s : State) (src : BitVec 12) (sid : BitVec 16) (plane : Nat) (hcan : s.canon) : ((State.sendAck s src sid
    plane)).canon := by
  simp (maxDischargeDepth := 12) only [State.sendAck, State.respond_canon, hcan, State.canon_update]

theorem State.applyRequest_canon (s : State) (plane : Nat) (pkt : ErgPacket) (payload : List RWord) (hcan : s.canon) : ((State.applyRequest s
    plane pkt payload)).canon := by
  unfold State.applyRequest
  extract_lets h a x
  split
  · exact State.respond_canon _ _ _ hcan
  · split
    · rename_i h
      exact State.canon_of_eq h (State.serve_canon _ _ _ _ _ _ _ _ hcan)
    · rename_i h
      exact State.respond_canon _ _ _ (State.canon_of_eq h (State.serve_canon _ _ _ _ _ _ _ _ hcan))
    · rename_i h
      exact State.respond_canon _ _ _ (State.canon_of_eq h (State.serve_canon _ _ _ _ _ _ _ _ hcan))

theorem State.applyHeld_canon (n : Nat) (s : State) (src : BitVec 12) (hcan : s.canon) : ((State.applyHeld n s src)).canon := by
  induction n generalizing s with
  | zero => exact hcan
  | succ k ih =>
    unfold State.applyHeld
    repeat' (first
      | with_reducible (first
        | assumption | apply State.takePayload_canon | apply State.applyRequest_canon | apply ih)
      | simp only [State.canon_update] | split)

theorem State.ackDue_canon (s : State) (src : BitVec 12) (sid : BitVec 16) (plane : Nat) (hcan : s.canon) : ((State.ackDue s src sid
    plane)).canon := by
  unfold State.ackDue
  dsimp only
  repeat' split
  all_goals simp (maxDischargeDepth := 12) only [State.sendAck_canon, hcan]

theorem State.sequenceRequest_canon (s : State) (p : Fin 16) (pkt : ErgPacket) (hcan : s.canon) : ((State.sequenceRequest s p pkt)).canon := by
  unfold State.sequenceRequest
  dsimp only
  repeat' split
  all_goals simp (maxDischargeDepth := 12) only [State.ergCount_canon, State.takePayload_canon, State.sendAck_canon, State.applyRequest_canon,
      State.applyHeld_canon, State.ackDue_canon, hcan, State.canon_update]

theorem State.sequenceColl_canon (s : State) (p : Fin 16) (pkt : ErgPacket) (f : State → List RWord → State) (hf : ∀ s c, s.canon → (f s
    c).canon) (hcan : s.canon) : ((State.sequenceColl s p pkt f)).canon := by
  unfold State.sequenceColl
  dsimp only
  repeat' split
  all_goals simp (maxDischargeDepth := 12) only [State.ergCount_canon, State.returnCredits_canon, State.takePayload_canon, State.sendAck_canon, hf, hcan,
      State.canon_update]

theorem State.ackStream_canon (s : State) (dst : BitVec 12) (sid : BitVec 16) (x : BitVec 32) (sack : BitVec 64) (hcan : s.canon) :
    ((State.ackStream s dst sid x sack).2).canon := by
  unfold State.ackStream
  repeat' (first
    | with_reducible (first
      | assumption | apply State.pump_canon | refine State.canon_foldl _ _ (fun _ _ _ => ?_) _ ?_)
    | simp only [State.canon_update] | split)

theorem State.resend_canon (s : State) (dst : BitVec 12) (sid : BitVec 16) (seq : BitVec 32) (byTimer : Bool) (hcan : s.canon) : ((State.resend s
    dst sid seq byTimer).2).canon := by
  unfold State.resend
  extract_lets t
  split
  · exact hcan
  · have hu := fun e => State.pump_canon t.waiting.length { s with erg := e } dst sid hcan
    repeat' (first | exact hcan | exact hu _ | exact State.handOver_canon _ _ (State.ergCount_canon _ _ hcan) | split)

theorem State.sendProbes_canon (s : State) (hcan : s.canon) : ((State.sendProbes s)).canon := by
  unfold State.sendProbes
  repeat' (first
    | exact hcan | assumption | dsimp only
    | simp (maxDischargeDepth := 12) only [State.sendFrame_canon, *]
    | refine State.canon_of_eq (by assumption) ?_ | refine State.canon_of_eq3 (by assumption) ?_
    | refine State.canon_foldl _ _ (fun _ _ _ => ?_) _ ?_ | refine State.canon_foldl_snd _ _ (fun _ _ _ => ?_) _ ?_
    | refine State.canon_foldl3 _ _ (fun _ _ _ => ?_) _ ?_ | split)

theorem State.retryParked_canon (s : State) (hcan : s.canon) : ((State.retryParked s).2).canon := by
  unfold State.retryParked
  repeat' (first
    | with_reducible (first
      | assumption | apply State.route_canon | refine State.canon_foldl_snd _ _ (fun _ _ _ => ?_) _ ?_
      | refine State.canon_of_eq (by assumption) ?_)
    | simp only [State.canon_update] | split)

theorem State.setLink_canon (s : State) (p : Fin 16) (l : LinkState) (hcan : s.canon) : ((State.setLink s p l)).canon := by
  unfold State.setLink
  dsimp only
  repeat' split
  all_goals simp (maxDischargeDepth := 12) only [State.draw_canon, State.msix_canon, State.mark_canon, State.modPort_canon, hcan]

theorem State.startLink_canon (s : State) (p : Fin 16) (hcan : s.canon) : ((State.startLink s p)).canon := by
  unfold State.startLink
  repeat' with_reducible (first | assumption | apply State.setLink_canon)

/-! Operations of Machine/CollData.lean. -/

/-! Operations of Machine/Coll.lean. -/

theorem State.writeOut_canon (s : State) (i : Issuer) (step : Option (BitVec 32)) (addr : BitVec 64) (ws : List CodeWord) (hcan : s.canon) :
    ((State.writeOut s i step addr ws).2.2).canon := by
  unfold State.writeOut
  repeat' (first
    | with_reducible (first
      | assumption | apply State.request_canon | refine State.canon_foldl3 _ _ (fun _ _ _ => ?_) _ ?_
      | refine State.canon_of_eq3 (by assumption) ?_)
    | split | dsimp only)

theorem State.collCount_canon (s : State) (i : Fin 12) (hcan : s.canon) : ((State.collCount s i)).canon := hcan

theorem State.xscale_canon (s : State) (idx : Nat) (hcan : s.canon) : ((State.xscale s idx).2).canon := by
  unfold State.xscale
  repeat' (first
    | with_reducible (first
      | assumption | apply State.serve_canon | refine State.canon_of_eq (by assumption) ?_)
    | split | dsimp only)

theorem State.xscaleWrite_canon (s : State) (idx : Nat) (q : Int) (set full : Bool) (hcan : s.canon) : ((State.xscaleWrite s idx q set
    full)).canon := by
  simp (maxDischargeDepth := 12) only [State.xscaleWrite, State.serve_canon, hcan]

theorem State.handleOk_canon (s : State) (handle : BitVec 64) (n fmt : Nat) (hcan : s.canon) : ((State.handleOk s handle n fmt).2).canon := by
  unfold State.handleOk
  repeat' (first
    | with_reducible (first
      | assumption | apply State.xscale_canon | refine State.canon_foldl_snd _ _ (fun _ _ _ => ?_) _ ?_
      | refine State.canon_of_eq (by assumption) ?_)
    | split | dsimp only)

theorem State.putInst_canon (s : State) (i : Inst) (hcan : s.canon) : ((State.putInst s i)).canon := hcan

theorem State.sendColl_canon (s : State) (id : InstId) (dst : BitVec 12) (opc : BitVec 6) (k csum : Nat) (payload : List CodeWord) (hcan :
    s.canon) : ((State.sendColl s id dst opc k csum payload)).canon := by
  simp (maxDischargeDepth := 12) only [State.sendColl, State.sendSeq_canon, hcan]

theorem State.sendPackets_canon (s : State) (i : Inst) (dst : BitVec 12) (way : Way) (pkts : List (List LWord)) (meta_ : List CodeWord)
    (csum : Nat) (hcan : s.canon) : (State.sendPackets s i dst way pkts meta_ csum).canon := by
  unfold State.sendPackets
  exact State.sendColl_canon _ _ _ _ _ _ _ (State.canon_foldl _ _ (fun _ _ h => State.sendColl_canon _ _ _ _ _ _ _ h) _ hcan)

theorem State.sendBucket_canon (s : State) (e : CollEntry) (i : Inst) (leaf : Bool) (dst : BitVec 12) (way : Way) (b : Bucket) (hcan : s.canon) :
    ((State.sendBucket s e i leaf dst way b)).canon := State.sendPackets_canon _ _ _ _ _ _ _ hcan

theorem State.readBuffers_canon (s : State) (ws : List CodeWord) (hcan : s.canon) : (State.readBuffers s ws).canon :=
  State.canon_foldl _ _ (fun _ _ h => State.logUnplaced_canon _ _ _ _ _ h) _ hcan

theorem State.sendKept_canon (s : State) (e : CollEntry) (i : Inst) (dst : BitVec 12) (n : NodeInput) (hcan : s.canon) :
    (State.sendKept s e i dst n).canon := by
  unfold State.sendKept
  exact State.sendPackets_canon _ _ _ _ _ _ _ (State.readBuffers_canon _ _ hcan)

theorem State.sendBack_canon (s : State) (id : InstId) (to_ : List (BitVec 12)) (hcan : s.canon) : ((State.sendBack s id to_)).canon := by
  unfold State.sendBack
  repeat' (first
    | exact hcan | assumption | dsimp only
    | simp (maxDischargeDepth := 12) only [State.sendColl_canon, *]
    | refine State.canon_of_eq (by assumption) ?_ | refine State.canon_of_eq3 (by assumption) ?_
    | refine State.canon_foldl _ _ (fun _ _ _ => ?_) _ ?_)

theorem State.latchColl_canon (s : State) (i : Inst) (b : Bucket) (src : BitVec 12) (hcan : s.canon) : ((State.latchColl s i b src)).canon := by
  unfold State.latchColl
  dsimp only
  repeat' split
  all_goals simp (maxDischargeDepth := 12) only [hcan, State.canon_update]

theorem State.settleToken_canon (s : State) (id : InstId) (hcan : s.canon) : ((State.settleToken s id)).canon := by
  unfold State.settleToken
  dsimp only
  repeat' split
  all_goals simp (maxDischargeDepth := 12) only [State.post_canon, State.putInst_canon, hcan, State.canon_update]

theorem State.scaleNext_canon (s : State) (e : CollEntry) (i : Inst) (b : Bucket) (hcan : s.canon) : ((State.scaleNext s e i b)).canon := by
  unfold State.scaleNext
  dsimp only
  repeat' split
  all_goals simp (maxDischargeDepth := 12) only [State.xscaleWrite_canon, hcan]

theorem State.localWord_canon (s : State) (addr : BitVec 64) (hcan : s.canon) : ((State.localWord s addr).2).canon := by
  unfold State.localWord
  repeat' (first | with_reducible (first | assumption | apply State.serve_canon | refine State.canon_of_eq (by assumption) ?_) | split)

theorem State.putLocal_canon (s : State) (addr : BitVec 64) (x : Nat) (hcan : s.canon) : ((State.putLocal s addr x)).canon := by
  simp (maxDischargeDepth := 12) only [State.putLocal, State.serve_canon, hcan]

theorem State.scaleRecord_canon (s : State) (i : Nat) (hcan : s.canon) : ((State.scaleRecord s i).2).canon := by
  unfold State.scaleRecord
  repeat' (first
    | with_reducible (first
      | assumption | apply State.localWord_canon | refine State.canon_of_eq (by assumption) ?_)
    | split | dsimp only)

theorem State.putScaleRecord_canon (s : State) (i x : Nat) (hcan : s.canon) : ((State.putScaleRecord s i x)).canon := by
  simp (maxDischargeDepth := 12) only [State.putScaleRecord, State.putLocal_canon, hcan]

theorem State.observe_canon (s : State) (id : InstId) (elems : Sparse Int) (hcan : s.canon) : ((State.observe s id elems)).canon := by
  unfold State.observe
  repeat' (first
    | with_reducible (first
      | assumption | apply State.scaleRecord_canon | apply State.putScaleRecord_canon
      | refine State.canon_foldl _ _ (fun _ _ _ => ?_) _ ?_ | refine State.canon_of_eq (by assumption) ?_)
    | simp only [State.canon_update] | split)

theorem State.scaleCommit_canon (s : State) (step : BitVec 32) (hcan : s.canon) : ((State.scaleCommit s step)).canon := by
  unfold State.scaleCommit
  repeat' (first
    | with_reducible (first
      | assumption | apply State.scaleRecord_canon | apply State.putScaleRecord_canon
      | refine State.canon_foldl _ _ (fun _ _ _ => ?_) _ ?_ | refine State.canon_of_eq (by assumption) ?_)
    | simp only [State.canon_update] | split)

theorem State.finishInst_canon (s : State) (e : CollEntry) (i : Inst) (b : Bucket) (deliver : Bool) (src : BitVec 12) (hcan : s.canon) :
    ((State.finishInst s e i b deliver src)).canon := by
  unfold State.finishInst
  extract_lets b' s1 s2 s3 s4 s5 s6 s7 i' base ws step n npkt hdrAt
  have h7 : s7.canon := by
    have h1 : s1.canon := State.collCount_canon _ _ hcan
    have h2 : s2.canon := by
      unfold s2
      (repeat' split) <;> first | exact h1
    have h3 : s3.canon := by
      unfold s3
      split
      · exact State.collCount_canon _ _ h2
      · exact h2
    have h6 : s6.canon := State.scaleNext_canon _ _ _ _ (State.modStep_canon _ _ _ (State.latchColl_canon _ _ _ _ h3))
    unfold s7
    split
    · exact State.observe_canon _ _ _ h6
    · exact h6
  clear_value s7 hdrAt npkt ws base b'
  split
  · have g1 := State.writeOut_canon s7 (.result i'.id) step (adrAdd e.result (n * e.stride (s7.hallArrival e) : Nat)) ws h7
    generalize s7.writeOut (.result i'.id) step (adrAdd e.result (n * e.stride (s7.hallArrival e) : Nat)) ws = x at g1 ⊢
    obtain ⟨t1, o1, t⟩ := x
    dsimp only at g1 ⊢
    generalize encodeWord (b'.header e.kind i'.attempt npkt i'.id.step) = hw
    have g2 := State.writeOut_canon t (.result i'.id) step hdrAt [hw] g1
    generalize t.writeOut (.result i'.id) step hdrAt [hw] = y at g2 ⊢
    obtain ⟨t2, o2, u⟩ := y
    dsimp only at g2 ⊢
    generalize [if b'.bstat ≠ 0 then poisonWord else b'.signWord.code] = sw
    generalize adrAdd hdrAt 1048576 = at_
    have g3 : (if e.kind = 2 then u.writeOut (.result i'.id) step at_ sw else ([], none, u)).2.2.canon := by
      split
      · exact State.writeOut_canon _ _ _ _ _ g2
      · exact g2
    generalize (if e.kind = 2 then u.writeOut (.result i'.id) step at_ sw else ([], none, u)) = z at g3 ⊢
    obtain ⟨t3, o3, v⟩ := z
    dsimp only at g3 ⊢
    exact State.settleToken_canon _ _ (State.putInst_canon _ _ g3)
  · exact State.settleToken_canon _ _ (State.putInst_canon _ _ h7)

theorem State.treeMeta_canon (s : State) (e : CollEntry) (i : Inst) (t : Topo) (b : Bucket) (hcan : s.canon) : ((State.treeMeta s e i t b)).canon
    := by
  unfold State.treeMeta
  repeat' (first
    | exact hcan | assumption | dsimp only
    | simp (maxDischargeDepth := 12) only [State.sendColl_canon, *]
    | refine State.canon_of_eq (by assumption) ?_ | refine State.canon_of_eq3 (by assumption) ?_
    | refine State.canon_foldl _ _ (fun _ _ _ => ?_) _ ?_)

theorem State.startRedo_canon (s : State) (e : CollEntry) (i : Inst) (t : Topo) (q : Int) (hcan : s.canon) : ((State.startRedo s e i t q)).canon := by
  unfold State.startRedo
  repeat' (first
    | exact hcan | assumption | dsimp only
    | simp (maxDischargeDepth := 12) only [State.sendColl_canon, *]
    | refine State.canon_of_eq (by assumption) ?_ | refine State.canon_of_eq3 (by assumption) ?_
    | refine State.canon_foldl _ _ (fun _ _ _ => ?_) _ ?_)

theorem State.rootDone_canon (s : State) (e : CollEntry) (i : Inst) (t : Topo) (b : Bucket) (hcan : s.canon) : ((State.rootDone s e i t b)).canon
    := by
  unfold State.rootDone
  repeat' (first
    | with_reducible (first
      | assumption | apply State.sendBucket_canon | apply State.finishInst_canon | apply State.treeMeta_canon
      | refine State.canon_foldl _ _ (fun _ _ _ => ?_) _ ?_)
    | split | dsimp only)

theorem State.noteArrived_canon (s : State) (id : InstId) (src : BitVec 12) (hcan : s.canon) : (State.noteArrived s id src).canon := hcan

theorem State.putReady_canon (s : State) (e : CollEntry) (i : Inst) (hcan : s.canon) : (State.putReady s e i).canon := by
  unfold State.putReady
  dsimp only
  split <;> exact hcan

theorem State.nodeSum_canon (s : State) (e : CollEntry) (i : Inst) (raw : List CodeWord) (ins : List (BitVec 12 × Bucket)) (first again :
    Sparse Int) (hcan : s.canon) : ((State.nodeSum s e i raw ins first again).2.2).canon := by
  unfold State.nodeSum
  dsimp only
  split
  · exact State.collCount_canon _ _ (State.readBuffers_canon _ _ (State.readBuffers_canon _ _ hcan))
  · exact State.readBuffers_canon _ _ hcan

theorem State.rackOutput_canon (s : State) (e : CollEntry) (i : Inst) (t : Topo) (own : Contrib) (kids : List Bucket) (first again : Sparse Int)
    (hcan : s.canon) : ((State.rackOutput s e i t own kids first again)).canon := by
  unfold State.rackOutput
  dsimp only
  repeat' split
  all_goals simp (maxDischargeDepth := 12) only [State.putInst_canon, State.sendBucket_canon, State.sendBack_canon, State.startRedo_canon,
      State.rootDone_canon, State.nodeSum_canon, State.noteArrived_canon, hcan]

theorem State.hallOutput_canon (s : State) (e : CollEntry) (i : Inst) (t : Topo) (rack : NodeInput) (first again : Sparse Int) (hcan : s.canon) :
    ((State.hallOutput s e i t rack first again)).canon := by
  unfold State.hallOutput
  dsimp only
  repeat' split
  all_goals simp (maxDischargeDepth := 12) only [State.putInst_canon, State.sendBucket_canon, State.sendBack_canon, State.startRedo_canon,
      State.rootDone_canon, State.nodeSum_canon, State.readBuffers_canon, hcan]

theorem State.nodeOutput_canon (s : State) (id : InstId) (first again : Sparse Int) (hcan : s.canon) : ((State.nodeOutput s id first
    again)).canon := by
  unfold State.nodeOutput
  dsimp only
  repeat' split
  all_goals simp (maxDischargeDepth := 12) only [State.rackOutput_canon, State.hallOutput_canon, hcan]

theorem State.downDone_canon (s : State) (e : CollEntry) (i : Inst) (t : Topo) (n : NodeInput) (hcan : s.canon) : ((State.downDone s e i t
    n)).canon := by
  unfold State.downDone
  repeat' (first
    | with_reducible (first
      | assumption | apply State.collCount_canon | apply State.putInst_canon | apply State.sendColl_canon
      | apply State.sendBucket_canon | apply State.sendBack_canon | apply State.finishInst_canon | apply State.readBuffers_canon
      | refine State.canon_foldl _ _ (fun _ _ _ => ?_) _ ?_)
    | split | dsimp only)

theorem State.takeDown_canon (s : State) (e : CollEntry) (i : Inst) (t : Topo) (h : ErgHdr) (ws : List RWord) (hcan : s.canon) : ((State.takeDown
    s e i t h ws)).canon := by
  unfold State.takeDown
  dsimp only
  repeat' split
  all_goals simp (maxDischargeDepth := 12) only [State.putInst_canon, State.downDone_canon, hcan]

theorem State.takeTreeMeta_canon (s : State) (e : CollEntry) (i : Inst) (t : Topo) (src : BitVec 12) (ws : List RWord) (hcan : s.canon) :
    ((State.takeTreeMeta s e i t src ws)).canon := by
  unfold State.takeTreeMeta
  dsimp only
  repeat' split
  all_goals simp (maxDischargeDepth := 12) only [State.putInst_canon, State.finishInst_canon, State.treeMeta_canon, hcan]

theorem State.instPacket_canon (s : State) (e : CollEntry) (i : Inst) (h : ErgHdr) (ws : List RWord) (hcan : s.canon) : ((State.instPacket s e i
    h ws)).canon := by
  unfold State.instPacket
  extract_lets t src o raw isMeta attemptOf epochBad i' late waits
  have hl : late.canon := State.collCount_canon _ _ hcan
  clear_value late
  repeat' (first
    | with_reducible (first
      | assumption | apply State.collCount_canon | apply State.putInst_canon | apply State.putReady_canon | apply State.noteArrived_canon
      | apply State.sendKept_canon | apply State.startRedo_canon | apply State.takeDown_canon | apply State.takeTreeMeta_canon | apply State.core_canon
      | refine State.canon_foldl _ _ (fun _ _ _ => ?_) _ ?_ | refine State.canon_foldl_snd _ _ (fun _ _ _ => ?_) _ ?_
      | refine State.canon_foldl3 _ _ (fun _ _ _ => ?_) _ ?_ | refine State.canon_of_eq (by assumption) ?_
      | refine State.canon_of_eq3 (by assumption) ?_)
    | intro _ | split)

theorem State.offer_canon (s : State) (p : Fin 16) (pkt : ErgPacket) (ws : List RWord) (hcan : s.canon) : ((State.offer s p pkt ws)).canon := by
  unfold State.offer
  dsimp only
  repeat' split
  all_goals simp (maxDischargeDepth := 12) only [State.collCount_canon, State.instPacket_canon, State.returnCredits_canon, hcan, State.canon_update]

theorem State.offerWaiting_canon (s : State) (hcan : s.canon) : ((State.offerWaiting s)).canon := by
  unfold State.offerWaiting
  repeat' (first
    | exact hcan | assumption | dsimp only
    | simp (maxDischargeDepth := 12) only [State.offer_canon, *]
    | refine State.canon_of_eq (by assumption) ?_ | refine State.canon_of_eq3 (by assumption) ?_
    | refine State.canon_foldl _ _ (fun _ _ _ => ?_) _ ?_)

theorem State.admitInst_canon (s : State) (id : InstId) (hcan : s.canon) : ((State.admitInst s id)).canon := by
  unfold State.admitInst
  dsimp only
  repeat' split
  all_goals simp (maxDischargeDepth := 12) only [State.xscale_canon, State.putInst_canon, State.offerWaiting_canon, hcan, State.canon_update]

theorem State.takeContribution_canon (s : State) (hcan : s.canon) : ((State.takeContribution s).2).canon := by
  unfold State.takeContribution
  repeat' (first
    | with_reducible (first
      | assumption | apply State.handleOk_canon | apply State.putReady_canon | refine State.canon_of_eq (by assumption) ?_)
    | simp only [State.canon_update] | split)

theorem State.bucketTimeout_canon (s : State) (id : InstId) (hcan : s.canon) : ((State.bucketTimeout s id)).canon := by
  unfold State.bucketTimeout
  dsimp only
  repeat' split
  all_goals simp (maxDischargeDepth := 12) only [State.finishInst_canon, hcan]

theorem State.discardWaiting_canon (s : State) (step : BitVec 32) (hcan : s.canon) : (State.discardWaiting s step).canon :=
  State.canon_foldl _ _ (fun _ _ h => State.returnCredits_canon _ _ _ h) _ hcan

theorem State.resultAnswered_canon (s : State) (id : InstId) (tag : Nat) (hcan : s.canon) : ((State.resultAnswered s id tag)).canon := by
  unfold State.resultAnswered
  repeat' (first
    | exact hcan | assumption | dsimp only
    | simp (maxDischargeDepth := 12) only [State.putInst_canon, State.settleToken_canon, *]
    | refine State.canon_of_eq (by assumption) ?_ | refine State.canon_of_eq3 (by assumption) ?_
    | refine State.canon_foldl _ _ (fun _ _ _ => ?_) _ ?_ | refine State.canon_foldl_snd _ _ (fun _ _ _ => ?_) _ ?_
    | refine State.canon_foldl3 _ _ (fun _ _ _ => ?_) _ ?_ | split)

end Sys2Proof.Machine
end

