-- ==== Sys2Proof/Laws/CanonWork.lean ====
section
/-! SUPPORT. For each operation of Qanat, the host commands, jobs, silent-error checks, Cairn and Notar: it keeps the canonical form of
the memories (`State.canon`, Laws/Canon.lean). -/

namespace Sys2Proof.Machine

/-! Operations of Machine/Qanat.lean. -/

theorem State.descOk_canon (s : State) (f : QF) (ctx : EvalCtx) (hcan : s.canon) : ((State.descOk s f ctx).2).canon := by
  unfold State.descOk
  dsimp only
  repeat' split
  all_goals simp (maxDischargeDepth := 12) only [State.handleOk_canon, hcan]

theorem State.modChan_canon (s : State) (p : Nat) (ch : Fin 4) (f : Channel → Channel) (hcan : s.canon) : ((State.modChan s p ch f)).canon := by
  unfold State.modChan
  repeat' (first
    | with_reducible (first
      | assumption | apply State.setCore_canon | apply State.core_canon)
    | simp only [Core.canon_update])

theorem State.qAccess_canon (s : State) (p : Nat) (ch : Fin 4) (row : Nat) (a : ErgAccess) (hcan : s.canon) : ((State.qAccess s p ch row
    a)).canon := by
  unfold State.qAccess
  repeat' (first
    | with_reducible (first
      | assumption | apply State.request_canon | apply State.modChan_canon | refine State.canon_of_eq3 (by assumption) ?_)
    | split)

theorem State.qReads_canon (s : State) (p : Nat) (ch : Fin 4) (row : Nat) (step : BitVec 32) (addr : BitVec 64) (n : Nat) (hcan : s.canon) :
    ((State.qReads s p ch row step addr n)).canon := by
  unfold State.qReads
  repeat' (first
    | exact hcan | assumption | dsimp only
    | simp (maxDischargeDepth := 12) only [State.qAccess_canon, *]
    | refine State.canon_of_eq (by assumption) ?_ | refine State.canon_of_eq3 (by assumption) ?_
    | refine State.canon_foldl _ _ (fun _ _ _ => ?_) _ ?_)

theorem State.qFetch_canon (n : Nat) (s : State) (p : Nat) (ch : Fin 4) (f : QF) (step : BitVec 32) (r : Nat) (seen : Option (BitVec 64)) (hcan :
    s.canon) : ((State.qFetch n s p ch f step r seen)).canon := by
  induction n generalizing s step r seen with
  | zero => exact hcan
  | succ k ih =>
    unfold State.qFetch
    repeat' (first | with_reducible (first | assumption | apply State.qReads_canon | apply ih) | split | dsimp only)

theorem State.qWords_canon (s : State) (p : Nat) (ch : Fin 4) (x : QSide) (a : BitVec 64) (n : Nat) (hcan : s.canon) : ((State.qWords s p ch x a
    n).2).canon := by
  unfold State.qWords
  repeat' (first
    | with_reducible (first
      | assumption | apply State.onCore_canon | apply Core.readDecoupled_canon | apply State.core_canon
      | refine State.canon_foldl_snd _ _ (fun _ _ _ => ?_) _ ?_)
    | intro _ | split)

theorem State.qBytes_canon (s : State) (p : Nat) (ch : Fin 4) (x : QSide) (a : BitVec 64) (n : Nat) (hcan : s.canon) : ((State.qBytes s p ch x a
    n).2).canon := by
  unfold State.qBytes
  dsimp only
  repeat' split
  all_goals simp (maxDischargeDepth := 12) only [State.qWords_canon, hcan]

theorem State.qRow_canon (s : State) (p : Nat) (ch : Fin 4) (f : QF) (r : Nat) (hcan : s.canon) : ((State.qRow s p ch f r).2).canon := by
  simp (maxDischargeDepth := 12) only [State.qRow, State.qWords_canon, State.qBytes_canon, hcan]

theorem State.qWrite_canon (s : State) (p : Nat) (ch : Fin 4) (row : Nat) (step : BitVec 32) (x : QSide) (a : BitVec 64) (qs : List WriteReq)
    (hcan : s.canon) : ((State.qWrite s p ch row step x a qs)).canon := by
  unfold State.qWrite
  repeat' (first
    | with_reducible (first
      | assumption | apply State.onCore_canon | apply State.modChan_canon | apply State.qAccess_canon | apply Core.commit_canon
      | refine State.canon_foldl _ _ (fun _ _ _ => ?_) _ ?_)
    | intro _ | split)

theorem State.qPut_canon (s : State) (p : Nat) (ch : Fin 4) (f : QF) (step : BitVec 32) (r : Nat) (o : RowOut) (hcan : s.canon) : ((State.qPut s
    p ch f step r o)).canon := by
  unfold State.qPut
  dsimp only
  repeat' split
  all_goals simp (maxDischargeDepth := 12) only [State.modChan_canon, State.qWrite_canon, hcan]

theorem State.qMove_canon (n : Nat) (s : State) (p : Nat) (ch : Fin 4) (f : QF) (d : QDesc) (r : Nat) (band : List RowIn) (hcan : s.canon) :
    ((State.qMove n s p ch f d r band)).canon := by
  induction n generalizing s r band with
  | zero => exact hcan
  | succ k ih =>
    unfold State.qMove
    repeat' (first
      | with_reducible (first
        | assumption | apply State.qRow_canon | apply State.qPut_canon | apply ih
        | refine State.canon_foldl_snd _ _ (fun _ _ _ => ?_) _ ?_)
      | split)

theorem State.qExport_canon (s : State) (p : Nat) (ch : Fin 4) (f : QF) (d : QDesc) (upto : Nat) (hcan : s.canon) :
    (State.qExport s p ch f d upto).canon := by
  unfold State.qExport
  refine State.canon_foldl _ _ (fun x r h => ?_) _ hcan
  exact State.modChan_canon _ _ _ _ (State.crossOut_canon _ _ _ (State.qRow_canon _ _ _ _ _ h))

theorem State.qContribute_canon (s : State) (p : Nat) (ch : Fin 4) (f : QF) (d : QDesc) (upto : Nat) (hcan : s.canon) : ((State.qContribute s p
    ch f d upto)).canon := by
  unfold State.qContribute
  repeat' (first
    | with_reducible (first
      | assumption | apply State.modChan_canon | apply State.qBytes_canon | apply State.qExport_canon | apply State.crossOut_canon
      | refine State.canon_foldl _ _ (fun _ _ _ => ?_) _ ?_ | refine State.canon_foldl3 _ _ (fun _ _ _ => ?_) _ ?_)
    | simp only [State.canon_update] | split)

theorem State.qTap_canon (s : State) (p : Nat) (ch : Fin 4) (d : QDesc) (upto : Nat) (hcan : s.canon) : ((State.qTap s p ch d upto)).canon := by
  unfold State.qTap
  dsimp only
  repeat' split
  all_goals simp (maxDischargeDepth := 12) only [State.tap_canon, State.modChan_canon, hcan]

theorem State.qFlags_canon (s : State) (p : Nat) (d : QDesc) (fl : Byte) (hcan : s.canon) : (State.qFlags s p d fl).canon := by
  unfold State.qFlags
  dsimp only
  have h := State.modStep_canon s d.step (fun x => { x with flags := x.flags ||| fl }) hcan
  split
  · exact h
  · exact State.setCore_canon _ _ _ h (Core.flag_canon _ _ _ (State.core_canon _ _ h))

theorem State.qStop_canon (s : State) (p : Nat) (ch : Fin 4) (f : QF) (d : QDesc) (row : Nat) (st : BitVec 16) (addr : BitVec 64) (hcan :
    s.canon) : ((State.qStop s p ch f d row st addr)).canon := by
  unfold State.qStop
  repeat' (first
    | with_reducible (first
      | assumption | apply State.qFlags_canon | apply State.reportLaunch_canon | apply State.modChan_canon | apply State.qTap_canon
      | apply State.setCore_canon | apply State.core_canon)
    | simp only [Core.canon_update] | split)

theorem State.qGo_canon (s : State) (p : Nat) (ch : Fin 4) (f : QF) (d : QDesc) (upto : Nat) (hcan : s.canon) :
    (State.qGo s p ch f d upto).canon := by
  have h : ((s.modChan p ch fun c => { c with phase := .writing }).onCore p fun env c => c.advanceTo env d.earliest).canon :=
    State.onCore_canon _ _ _ (fun _ _ h => Core.advanceTo_canon _ _ _ h) (State.modChan_canon _ _ _ _ hcan)
  unfold State.qGo
  extract_lets u
  have hu : u.canon := h
  clear_value u
  split
  · exact State.qContribute_canon _ _ _ _ _ _ hu
  · exact State.qMove_canon _ _ _ _ _ _ _ _ hu

theorem State.qReadToken_canon (s : State) (p : Nat) (ch : Fin 4) (d : QDesc) (hcan : s.canon) : (State.qReadToken s p ch d).canon := by
  unfold State.qReadToken
  dsimp only
  split
  · exact State.post_canon _ _ _ _ hcan
  · exact hcan

theorem State.qSettle_canon (s : State) (p : Nat) (ch : Fin 4) (hcan : s.canon) : ((State.qSettle s p ch)).canon := by
  unfold State.qSettle
  dsimp only
  repeat' split
  all_goals simp (maxDischargeDepth := 12) only [State.qGo_canon, State.qReadToken_canon, State.qStop_canon, hcan]

theorem State.qArrive_canon (s : State) (p : Nat) (ch : Fin 4) (hcan : s.canon) : ((State.qArrive s p ch)).canon := by
  unfold State.qArrive
  repeat' (first
    | with_reducible (first
      | assumption | apply State.onCore_canon | apply Core.advanceTo_canon)
    | intro _ | split | dsimp only)

theorem State.qStart_canon (s : State) (p : Nat) (ch : Fin 4) (hcan : s.canon) : ((State.qStart s p ch)).canon := by
  unfold State.qStart
  repeat' (first
    | with_reducible (first
      | assumption | apply State.descOk_canon | apply State.modChan_canon | apply State.qReads_canon | apply State.qFetch_canon
      | apply State.qStop_canon | apply State.qSettle_canon | apply State.qArrive_canon
      | refine State.canon_foldl _ _ (fun _ _ _ => ?_) _ ?_ | refine State.canon_of_eq (by assumption) ?_)
    | split | dsimp only)

theorem State.qReadDone_canon (s : State) (p : Nat) (ch : Fin 4) (hcan : s.canon) : ((State.qReadDone s p ch)).canon := by
  unfold State.qReadDone
  dsimp only
  repeat' split
  all_goals simp (maxDischargeDepth := 12) only [State.qGo_canon, State.qSettle_canon, hcan]

theorem State.qRetire_canon (s : State) (p : Nat) (ch : Fin 4) (hcan : s.canon) : ((State.qRetire s p ch)).canon := by
  unfold State.qRetire
  dsimp only
  repeat' split
  all_goals simp (maxDischargeDepth := 12) only [State.post_canon, State.qFlags_canon, State.modChan_canon, State.qTap_canon, hcan]

theorem State.qAnswered_canon (s : State) (p : Nat) (ch : Fin 4) (a : ErgAccess) (ans : Answer) (hcan : s.canon) : ((State.qAnswered s p ch a
    ans)).canon := by
  unfold State.qAnswered
  dsimp only
  repeat' split
  all_goals simp (maxDischargeDepth := 12) only [State.modChan_canon, State.qSettle_canon, hcan]

theorem State.qFlagsHead_canon (s : State) (p : Nat) (ch : Fin 4) (hcan : s.canon) : (State.qFlagsHead s p ch).canon := by
  unfold State.qFlagsHead
  split
  · exact State.qFlags_canon _ _ _ _ hcan
  · exact hcan

theorem State.qFlagsHeads_canon (s : State) (p : Nat) (gone : QDesc → Bool) (hcan : s.canon) : (State.qFlagsHeads s p gone).canon := by
  unfold State.qFlagsHeads
  refine State.canon_foldl _ _ (fun x q h => ?_) _ hcan
  split
  · exact State.qFlagsHead_canon _ _ _ h
  · exact h

theorem State.qResume_canon (s : State) (p : Nat) (ch : Fin 4) (mode : Nat) (hcan : s.canon) : ((State.qResume s p ch mode).2).canon := by
  unfold State.qResume
  extract_lets c was s'
  have hs : s'.canon := by
    unfold s'
    split
    · exact State.modChan_canon _ _ _ _ hcan
    · split <;> exact State.modChan_canon _ _ _ _ (State.qFlagsHead_canon _ _ _ hcan)
  clear_value s'
  split
  · exact hcan
  · split
    · exact State.setCore_canon _ _ _ hs (Core.resumeWatch_canon _ _ (State.core_canon _ _ hs))
    · exact hcan

/-! Operations of Machine/Commands.lean. -/

theorem State.modCmd_canon (s : State) (id : Nat) (f : Cmd → Cmd) (hcan : s.canon) : ((State.modCmd s id f)).canon := hcan

theorem State.settleQueues_canon (s : State) (hcan : s.canon) : (State.settleQueues s).canon := by
  unfold State.settleQueues
  refine State.canon_foldl _ _ (fun x q h => ?_) _ hcan
  dsimp only
  split
  · exact State.modQueue_canon _ _ _ h
  · exact h

theorem State.dropCmd_canon (s : State) (id : Nat) (hcan : s.canon) : ((State.dropCmd s id)).canon :=
  State.settleQueues_canon _ hcan

theorem State.cmdOutcome_canon (s : State) (c : Cmd) (status : BitVec 16) (hcan : s.canon) : ((State.cmdOutcome s c status)).canon := by
  unfold State.cmdOutcome
  repeat' (first
    | exact hcan | assumption | dsimp only
    | simp (maxDischargeDepth := 12) only [State.modStep_canon, hcan, State.canon_update, State.canon_mem, State.core_canon, *]
    | refine State.canon_of_eq (by assumption) ?_ | refine State.canon_of_eq3 (by assumption) ?_
    | refine State.canon_foldl _ _ (fun _ _ _ => ?_) _ ?_ | refine State.canon_foldl_snd _ _ (fun _ _ _ => ?_) _ ?_
    | refine State.canon_foldl3 _ _ (fun _ _ _ => ?_) _ ?_ | split)

theorem State.replyTo_canon (s : State) (c : Cmd) (entry : BitVec 256) (status : BitVec 16) (hcan : s.canon) : ((State.replyTo s c entry
    status)).canon := by
  unfold State.replyTo
  repeat' (first
    | with_reducible (first
      | assumption | apply State.postEntry_canon | apply State.modMail_canon | apply State.ackMail_canon)
    | split)

theorem State.endOne_canon (s : State) (c : Cmd) (status : BitVec 16) (flags : Byte) (detail : Nat) (hcan : s.canon) : ((State.endOne s c status
    flags detail)).canon := by
  unfold State.endOne
  dsimp only
  repeat' split
  all_goals simp (maxDischargeDepth := 12) only [State.draw_canon, State.dropCmd_canon, State.cmdOutcome_canon, State.replyTo_canon, hcan,
      State.canon_update]

theorem State.flushBad_canon (n : Nat) (s : State) (hcan : s.canon) : ((State.flushBad n s)).canon := by
  induction n generalizing s with
  | zero => exact hcan
  | succ k ih =>
    unfold State.flushBad
    repeat' (first | with_reducible (first | assumption | apply State.endOne_canon | apply ih) | split)

theorem State.endCmd_canon (s : State) (c : Cmd) (status : BitVec 16) (flags : Byte) (detail : Nat) (hcan : s.canon) : ((State.endCmd s c status
    flags detail)).canon := by
  simp (maxDischargeDepth := 12) only [State.endCmd, State.endOne_canon, State.flushBad_canon, hcan]

theorem State.startCmd_canon (s : State) (src : CmdSrc) (want : Cmd → Bool) (checks : State → Cmd → List (Bool × BitVec 16)) (body : State → Cmd
    → State) (hbody : ∀ s c, s.canon → (body s c).canon) (hcan : s.canon) : ((State.startCmd s src want checks body)).canon := by
  unfold State.startCmd
  dsimp only
  repeat' split
  all_goals simp (maxDischargeDepth := 12) only [State.modCmd_canon, State.flushBad_canon, State.endCmd_canon, hbody, hcan]

theorem State.keepCmd_canon (s : State) (c : Cmd) (hcan : s.canon) : ((State.keepCmd s c)).canon := hcan

theorem State.cmdAccess_canon (s : State) (id index : Nat) (a : ErgAccess) (hcan : s.canon) : ((State.cmdAccess s id index a)).canon := by
  unfold State.cmdAccess
  repeat' (first
    | with_reducible (first
      | assumption | apply State.request_canon | apply State.modCmd_canon | refine State.canon_of_eq3 (by assumption) ?_)
    | split)

theorem State.cmdRead_canon (s : State) (c : Cmd) (index : Nat) (addr : BitVec 64) (n : Nat) (hcan : s.canon) : ((State.cmdRead s c index addr
    n)).canon := by
  unfold State.cmdRead
  repeat' (first
    | exact hcan | assumption | dsimp only
    | simp (maxDischargeDepth := 12) only [State.cmdAccess_canon, *]
    | refine State.canon_of_eq (by assumption) ?_ | refine State.canon_of_eq3 (by assumption) ?_
    | refine State.canon_foldl _ _ (fun _ _ _ => ?_) _ ?_)

theorem State.cmdWrite_canon (s : State) (c : Cmd) (addr : BitVec 64) (ws : List CodeWord) (hcan : s.canon) : ((State.cmdWrite s c addr
    ws)).canon := by
  unfold State.cmdWrite
  repeat' (first
    | exact hcan | assumption | dsimp only
    | simp (maxDischargeDepth := 12) only [State.cmdAccess_canon, *]
    | refine State.canon_of_eq (by assumption) ?_ | refine State.canon_of_eq3 (by assumption) ?_
    | refine State.canon_foldl _ _ (fun _ _ _ => ?_) _ ?_)

/-! Operations of Machine/HostGroup.lean. -/

theorem State.unsupported_canon (s : State) (hcan : s.canon) : ((State.unsupported s)).canon := hcan

theorem State.hostWords_canon (s : State) (region : Nat) (offs : List Nat) (hcan : s.canon) : ((State.hostWords s region offs).2).canon := by
  unfold State.hostWords
  repeat' (first
    | exact hcan | assumption | dsimp only
    | simp (maxDischargeDepth := 12) only [State.readWord_canon, *]
    | refine State.canon_of_eq (by assumption) ?_ | refine State.canon_of_eq3 (by assumption) ?_
    | refine State.canon_foldl _ _ (fun _ _ _ => ?_) _ ?_ | refine State.canon_foldl_snd _ _ (fun _ _ _ => ?_) _ ?_)

theorem State.hostBytes_canon (s : State) (region o : Nat) (bytes : List Byte) (ep : Bool) (hcan : s.canon) : ((State.hostBytes s region o bytes
    ep)).canon := by
  unfold State.hostBytes
  repeat' (first
    | exact hcan | assumption | dsimp only
    | simp (maxDischargeDepth := 12) only [State.writeWord_canon, *]
    | refine State.canon_of_eq (by assumption) ?_ | refine State.canon_of_eq3 (by assumption) ?_
    | refine State.canon_foldl _ _ (fun _ _ _ => ?_) _ ?_)

theorem State.fetchedStep_canon (s : State) (step : BitVec 32) (stepped : Bool) (hcan : s.canon) : ((State.fetchedStep s step stepped)).canon := by
  unfold State.fetchedStep
  dsimp only
  repeat' split
  all_goals simp (maxDischargeDepth := 12) only [hcan, State.canon_update]

theorem State.takePacket_canon (s : State) (c : Cmd) (hcan : s.canon) : ((State.takePacket s c)).canon := by
  simp (maxDischargeDepth := 12) only [State.takePacket, State.flushBad_canon, hcan, State.canon_update]

theorem State.writeQctrl_canon (s : State) (q : Fin 8) (v : Nat) (hcan : s.canon) : ((State.writeQctrl s q v)).canon := by
  unfold State.writeQctrl
  repeat' (first | with_reducible (first | assumption | apply State.modQueue_canon | apply State.releaseHeld_canon) | split | dsimp only)

theorem State.mailRefused_canon (s : State) (m : Fin 16) (hcan : s.canon) : ((State.mailRefused s m)).canon := hcan

theorem State.mailClaim_canon (s : State) (m : Fin 16) (a : Agent) (hcan : s.canon) : ((State.mailClaim s m a)).canon := by
  unfold State.mailClaim
  repeat' (first
    | exact hcan | assumption | dsimp only
    | simp (maxDischargeDepth := 12) only [State.modMail_canon, State.mailRefused_canon, hcan, State.canon_update, State.canon_mem,
        State.core_canon, *]
    | refine State.canon_of_eq (by assumption) ?_ | refine State.canon_of_eq3 (by assumption) ?_
    | refine State.canon_foldl _ _ (fun _ _ _ => ?_) _ ?_ | refine State.canon_foldl_snd _ _ (fun _ _ _ => ?_) _ ?_
    | refine State.canon_foldl3 _ _ (fun _ _ _ => ?_) _ ?_ | split)

theorem State.mailGo_canon (s : State) (m : Fin 16) (a : Agent) (hcan : s.canon) : ((State.mailGo s m a)).canon := by
  unfold State.mailGo
  dsimp only
  repeat' split
  all_goals simp (maxDischargeDepth := 12) only [State.modMail_canon, State.notice_canon, State.ackMail_canon, State.mailRefused_canon, hcan]

theorem State.orphan_canon (s : State) (m : Fin 16) (hcan : s.canon) : ((State.orphan s m)).canon := hcan

theorem State.mailRelease_canon (s : State) (m : Fin 16) (a : Agent) (hcan : s.canon) : ((State.mailRelease s m a)).canon := by
  unfold State.mailRelease
  dsimp only
  repeat' split
  all_goals simp (maxDischargeDepth := 12) only [State.modMail_canon, State.mailRefused_canon, State.orphan_canon, hcan]

theorem State.mailCode_canon (s : State) (m : Fin 16) (a : Agent) (v : BitVec 16) (hcan : s.canon) : ((State.mailCode s m a v)).canon := by
  unfold State.mailCode
  dsimp only
  repeat' split
  all_goals simp (maxDischargeDepth := 12) only [State.ackMail_canon, State.mailRefused_canon, State.orphan_canon, hcan]

/-! Operations of Machine/DataPath.lean. -/

theorem State.copyGo_canon (n : Nat) (s : State) (id : Nat) (hcan : s.canon) : ((State.copyGo n s id)).canon := by
  induction n generalizing s with
  | zero => exact hcan
  | succ k ih =>
    unfold State.copyGo
    cases s.cmdOf id with
    | none => exact hcan
    | some c =>
      dsimp only
      repeat' (first
        | with_reducible (first
          | assumption | apply State.modCmd_canon | apply State.endCmd_canon | apply State.cmdRead_canon | apply State.cmdWrite_canon
          | apply ih)
        | split)

theorem State.fillGo_canon (n : Nat) (s : State) (id : Nat) (hcan : s.canon) : ((State.fillGo n s id)).canon := by
  induction n generalizing s with
  | zero => exact hcan
  | succ k ih =>
    unfold State.fillGo
    cases s.cmdOf id with
    | none => exact hcan
    | some c =>
      dsimp only
      repeat' (first
        | with_reducible (first
          | assumption | apply State.modCmd_canon | apply State.endCmd_canon | apply State.cmdWrite_canon | apply ih)
        | split)

theorem State.modPages_canon (s : State) (page count : Nat) (f : Nat → BitVec 32 → BitVec 32) (hcan : s.canon) : ((State.modPages s page count
    f)).canon := hcan

theorem State.modHalves_canon (s : State) (c : Cmd) (f : Half → Half) (hcan : s.canon) : ((State.modHalves s c f)).canon := by
  unfold State.modHalves
  repeat' (first
    | exact hcan | assumption | dsimp only
    | simp (maxDischargeDepth := 12) only [State.setCore_canon, Core.modStream_canon, State.core_canon, *]
    | refine State.canon_of_eq (by assumption) ?_ | refine State.canon_of_eq3 (by assumption) ?_
    | refine State.canon_foldl _ _ (fun _ _ _ => ?_) _ ?_)

theorem State.imemGo_canon (s : State) (id : Nat) (hcan : s.canon) : ((State.imemGo s id)).canon := by
  unfold State.imemGo
  repeat' (first
    | exact hcan | assumption | dsimp only
    | simp (maxDischargeDepth := 12) only [State.endCmd_canon, State.modHalves_canon, *]
    | refine State.canon_of_eq (by assumption) ?_ | refine State.canon_of_eq3 (by assumption) ?_
    | refine State.canon_foldl _ _ (fun _ _ _ => ?_) _ ?_ | refine State.canon_foldl_snd _ _ (fun _ _ _ => ?_) _ ?_
    | refine State.canon_foldl3 _ _ (fun _ _ _ => ?_) _ ?_ | split)

theorem State.keepEnd_canon (s : State) (p : Nat) (k : StreamId) (hcan : s.canon) : (State.keepEnd s p k).canon := hcan

theorem State.launchStep_canon (s : State) (c : Cmd) (hcan : s.canon) : ((State.launchStep s c)).canon := by
  unfold State.launchStep
  dsimp only
  repeat' split
  all_goals simp (maxDischargeDepth := 12) only [State.modStep_canon, hcan]

theorem State.resumeGo_canon (s : State) (c : Cmd) (hcan : s.canon) : ((State.resumeGo s c)).canon := by
  unfold State.resumeGo
  dsimp only
  repeat' split
  all_goals simp (maxDischargeDepth := 12) only [State.qResume_canon, State.endCmd_canon, hcan]

theorem State.haltStreams_canon (s : State) (l : List (Nat × StreamId)) (hcan : s.canon) : ((State.haltStreams s l)).canon := by
  unfold State.haltStreams
  repeat' (first
    | exact hcan | assumption | dsimp only
    | simp (maxDischargeDepth := 12) only [State.setCore_canon, Core.halt_canon, State.core_canon, *]
    | refine State.canon_of_eq (by assumption) ?_ | refine State.canon_of_eq3 (by assumption) ?_
    | refine State.canon_foldl _ _ (fun _ _ _ => ?_) _ ?_)

theorem State.exchangeGo_canon (n : Nat) (s : State) (id : Nat) (hcan : s.canon) : ((State.exchangeGo n s id)).canon := by
  induction n generalizing s with
  | zero => exact hcan
  | succ k ih =>
    unfold State.exchangeGo
    cases s.cmdOf id with
    | none => exact hcan
    | some c =>
      dsimp only
      repeat' (first
        | with_reducible (first
          | assumption | apply State.modCmd_canon | apply State.endCmd_canon | apply State.cmdRead_canon | apply ih)
        | simp only [State.canon_update] | split)

/-! Operations of Machine/Silent.lean. -/

theorem State.replayOutcome_canon (s : State) (r : Replay) (status : BitVec 16) (detail : Nat) (hcan : s.canon) : ((State.replayOutcome s r
    status detail)).canon := by
  simp (maxDischargeDepth := 12) only [State.replayOutcome, State.draw_canon, State.replyTo_canon, hcan, State.canon_update]

theorem State.disarm_canon (s : State) (hcan : s.canon) : ((State.disarm s)).canon := by
  unfold State.disarm
  repeat' (first
    | exact hcan | assumption | dsimp only
    | simp (maxDischargeDepth := 12) only [State.replayOutcome_canon, *]
    | refine State.canon_of_eq (by assumption) ?_ | refine State.canon_of_eq3 (by assumption) ?_
    | refine State.canon_foldl _ _ (fun _ _ _ => ?_) _ ?_ | refine State.canon_foldl_snd _ _ (fun _ _ _ => ?_) _ ?_
    | refine State.canon_foldl3 _ _ (fun _ _ _ => ?_) _ ?_ | split)

theorem State.abortReplay_canon (s s0 : State) (step : BitVec 32) (hcan : s.canon) : (State.abortReplay s s0 step).canon := by
  unfold State.abortReplay
  split
  · exact hcan
  · (repeat' split) <;> first | exact hcan | exact State.replayOutcome_canon _ _ _ _ hcan

theorem State.modClosing_canon (s : State) (step : BitVec 32) (f : Closing → Closing) (hcan : s.canon) : (State.modClosing s step f).canon := hcan

theorem State.reportStep_canon (s : State) (k : Closing) (hcan : s.canon) : (State.reportStep s k).canon := by
  unfold State.reportStep
  dsimp only
  repeat' split
  all_goals simp (maxDischargeDepth := 12) only [State.modStep_canon, State.postEntry_canon, State.replayOutcome_canon, hcan,
      State.canon_update]

theorem State.reportReady_canon (s : State) (step : BitVec 32) (hcan : s.canon) : (State.reportReady s step).canon := by
  unfold State.reportReady
  split
  · exact State.reportStep_canon _ _ hcan
  · exact hcan

theorem State.recordAnswered_canon (s : State) (step : BitVec 32) (tag : Nat) (hcan : s.canon) : (State.recordAnswered s step tag).canon :=
  State.reportReady_canon _ _ (State.modClosing_canon _ _ _ hcan)

theorem State.closeStep_canon (s : State) (k : Closing) (hcan : s.canon) : ((State.closeStep s k)).canon := by
  unfold State.closeStep
  dsimp only
  repeat' split
  all_goals simp (maxDischargeDepth := 12) only [State.modClosing_canon, State.reportStep_canon, State.reportReady_canon,
      State.writeOut_canon, State.mark_canon, hcan]

theorem State.replayGo_canon (s : State) (id : Nat) (hcan : s.canon) : ((State.replayGo s id)).canon := by
  unfold State.replayGo
  dsimp only
  repeat' split
  all_goals simp (maxDischargeDepth := 12) only [State.endCmd_canon, hcan, State.canon_update]

theorem State.patrolRecords_canon (s : State) (bad : List (Nat × Nat)) (ver det : Nat) (hcan : s.canon) :
    (State.patrolRecords s bad ver det).canon := by
  unfold State.patrolRecords
  dsimp only
  exact State.record_canon _ _ _ _ (State.canon_foldl _ _ (fun _ _ h => State.record_canon _ _ _ _ h) _ hcan)

theorem State.setClock_canon (s : State) (p clk : Nat) (hcan : s.canon) : ((State.setClock s p clk)).canon := hcan

theorem State.marginEnd_canon (s : State) (c : Cmd) (hcan : s.canon) : ((State.marginEnd s c)).canon := by
  unfold State.marginEnd
  dsimp only
  repeat' split
  all_goals simp (maxDischargeDepth := 12) only [State.record_canon, State.endCmd_canon, State.setClock_canon, hcan]

/-! Operations of Machine/Cairn.lean. -/

theorem State.passTime_canon (s : State) (hcan : s.canon) : ((State.passTime s)).canon := hcan

theorem State.sign_canon (s : State) (key : Nat) (bytes : List Byte) (hcan : s.canon) : ((State.sign s key bytes).2).canon := hcan

theorem State.startSeal_canon (s : State) (hcan : s.canon) : ((State.startSeal s)).canon := by
  unfold State.startSeal
  dsimp only
  repeat' split
  all_goals simp (maxDischargeDepth := 12) only [hcan, State.canon_update]

theorem State.writeRecord_canon (s : State) (e : CairnEntry) (hcan : s.canon) : ((State.writeRecord s e)).canon := by
  unfold State.writeRecord
  dsimp only
  repeat' split
  all_goals simp (maxDischargeDepth := 12) only [State.passTime_canon, State.startSeal_canon, hcan, State.canon_update]

theorem State.takeEntry_canon (s : State) (hcan : s.canon) : ((State.takeEntry s)).canon := by
  unfold State.takeEntry
  repeat' (first
    | with_reducible (first
      | assumption | apply State.writeRecord_canon)
    | simp only [State.canon_update] | split)

/-! Operations of Machine/Jobs.lean. -/

theorem State.engineWords_canon (n : Nat) (s : State) (addr : BitVec 64) (hcan : s.canon) : ((State.engineWords n s addr).2).canon := by
  induction n generalizing s addr with
  | zero => exact hcan
  | succ k ih =>
    unfold State.engineWords
    repeat' (first
      | with_reducible (first
        | assumption | apply State.serve_canon | apply ih | refine State.canon_of_eq (by assumption) ?_)
      | split)

theorem State.setQsteps_canon (s : State) (v : Nat) (hcan : s.canon) : ((State.setQsteps s v)).canon := by
  unfold State.setQsteps
  repeat' with_reducible (first | assumption | apply State.modQueue_canon | refine State.canon_foldl _ _ (fun _ _ _ => ?_) _ ?_)

theorem State.clearTokens_canon (s : State) (hcan : s.canon) : ((State.clearTokens s)).canon := by
  unfold State.clearTokens
  repeat' (first
    | with_reducible (first
      | assumption | apply State.setCore_canon | apply State.core_canon | refine State.canon_foldl _ _ (fun _ _ _ => ?_) _ ?_)
    | simp only [Core.canon_update])

theorem State.openJob_canon (s : State) (c : Cmd) (x : Nat) (ranks : List Nat) (hcan : s.canon) : ((State.openJob s c x ranks)).canon := by
  simp (maxDischargeDepth := 12) only [State.openJob, State.oneCycle_canon, State.setState_canon, State.record_canon, State.putLocal_canon,
      State.endCmd_canon, State.setQsteps_canon, State.clearTokens_canon, hcan, State.canon_update]

theorem State.judgeRanks_canon (s : State) (c : Cmd) (ws : List Nat) (hcan : s.canon) : (State.judgeRanks s c ws).canon := by
  unfold State.judgeRanks
  dsimp only
  split
  · exact State.endCmd_canon _ _ _ _ _ hcan
  · exact State.openJob_canon _ _ _ _ hcan

theorem State.jobOpenGo_canon (s : State) (id : Nat) (hcan : s.canon) : (State.jobOpenGo s id).canon := by
  unfold State.jobOpenGo
  dsimp only
  repeat' split
  all_goals first | exact hcan | exact State.endCmd_canon _ _ _ _ _ hcan | exact State.judgeRanks_canon _ _ _ hcan

theorem State.pendingCurrent_canon (s : State) (step : BitVec 32) (hcan : s.canon) : ((State.pendingCurrent s step)).canon := by
  unfold State.pendingCurrent
  dsimp only
  repeat' split
  all_goals simp (maxDischargeDepth := 12) only [hcan, State.canon_update]

theorem State.setCommitted_canon (s : State) (step : BitVec 32) (begun : BitVec 32) (worked : Bool) (hcan : s.canon) : ((State.setCommitted s
    step begun worked)).canon := by
  simp (maxDischargeDepth := 12) only [State.setCommitted, State.offerWaiting_canon, hcan, State.canon_update]

theorem State.moveGo_canon (n : Nat) (s : State) (id : Nat) (src dst : BitVec 64) (fin : State → Cmd → State) (hfin : ∀ s c, s.canon → (fin s
    c).canon) (hcan : s.canon) : ((State.moveGo n s id src dst fin)).canon := by
  induction n generalizing s with
  | zero => exact hcan
  | succ k ih =>
    unfold State.moveGo
    cases s.cmdOf id with
    | none => exact hcan
    | some c =>
      dsimp only
      repeat' (first
        | with_reducible (first
          | assumption | apply State.modCmd_canon | apply State.endCmd_canon | apply State.cmdRead_canon | apply State.cmdWrite_canon
          | apply hfin | apply ih)
        | split)

theorem State.checkpointGo_canon (s : State) (id : Nat) (hcan : s.canon) : ((State.checkpointGo s id)).canon := by
  unfold State.checkpointGo
  repeat' (first
    | with_reducible (first
      | assumption | apply State.endCmd_canon | apply State.keepCmd_canon | apply State.cmdWrite_canon | apply State.moveGo_canon)
    | intro _ | split | dsimp only)

theorem State.restoreEnd_canon (s : State) (c : Cmd) (hcan : s.canon) : ((State.restoreEnd s c)).canon := by
  unfold State.restoreEnd
  dsimp only
  repeat' split
  all_goals simp (maxDischargeDepth := 12) only [State.endCmd_canon, State.setQsteps_canon, State.setCommitted_canon, hcan]

theorem State.restoreGo_canon (s : State) (id : Nat) (hcan : s.canon) : ((State.restoreGo s id)).canon := by
  unfold State.restoreGo
  repeat' (first
    | with_reducible (first
      | assumption | apply State.endCmd_canon | apply State.keepCmd_canon | apply State.moveGo_canon | apply State.restoreEnd_canon)
    | split | dsimp only)

theorem State.haltAll_canon (s : State) (which : Stream → Bool) (hcan : s.canon) : ((State.haltAll s which)).canon := by
  unfold State.haltAll
  repeat' (first
    | with_reducible (first
      | assumption | apply State.onCore_canon | apply State.haltStreams_canon | apply Core.finishWork_canon
      | refine State.canon_foldl _ _ (fun _ _ _ => ?_) _ ?_)
    | intro _ | split)

theorem State.endLaunches_canon (s : State) (hcan : s.canon) : ((State.endLaunches s)).canon := by
  unfold State.endLaunches
  repeat' (first
    | exact hcan | assumption | dsimp only
    | simp (maxDischargeDepth := 12) only [State.endCmd_canon, State.launchStep_canon, *]
    | refine State.canon_of_eq (by assumption) ?_ | refine State.canon_of_eq3 (by assumption) ?_
    | refine State.canon_foldl _ _ (fun _ _ _ => ?_) _ ?_ | refine State.canon_foldl_snd _ _ (fun _ _ _ => ?_) _ ?_
    | refine State.canon_foldl3 _ _ (fun _ _ _ => ?_) _ ?_ | split)

theorem State.freeMail_canon (s : State) (which : Fin 16 → Mailbox → Bool) (hcan : s.canon) : (State.freeMail s which).canon := by
  unfold State.freeMail
  repeat' (first
    | with_reducible (first
      | assumption | apply State.modMail_canon | apply State.orphan_canon | refine State.canon_foldl _ _ (fun _ _ _ => ?_) _ ?_)
    | split | dsimp only)

theorem State.freeCoreMail_canon (s : State) (hcan : s.canon) : (State.freeCoreMail s).canon := State.freeMail_canon _ _ hcan

theorem State.dumpWords_canon (s : State) (p b slice : Nat) (hcan : s.canon) : ((State.dumpWords s p b slice).2).canon := by
  unfold State.dumpWords
  repeat' (first
    | with_reducible (first
      | assumption | apply State.onCore_canon | apply Core.readDecoupled_canon | apply State.core_canon
      | refine State.canon_foldl_snd _ _ (fun _ _ _ => ?_) _ ?_)
    | intro _)

theorem State.dumpRecord_canon (s : State) (r : DumpRun) (hcan : s.canon) : (State.dumpRecord s r).canon := by
  unfold State.dumpRecord
  dsimp only
  refine State.record_canon _ _ _ _ ?_
  exact State.canon_foldl _ _ (fun _ _ h => State.writeOut_canon _ _ _ _ _ h) _ hcan

theorem State.endDump_canon (s : State) (r : DumpRun) (hcan : s.canon) : ((State.endDump s r)).canon := by
  unfold State.endDump
  repeat' (first
    | with_reducible (first
      | assumption | apply State.dumpRecord_canon | apply State.endCmd_canon)
    | simp only [State.canon_update] | split)

/-! Operations of Machine/Notar.lean. -/

theorem State.modNotar_canon (s : State) (f : Notar → Notar) (hcan : s.canon) : ((State.modNotar s f)).canon := hcan

theorem State.imageRecord_canon (s : State) (kind : Nat) (bank : Bool) (op : Nat) (status : BitVec 16) (hcan : s.canon) : ((State.imageRecord s
    kind bank op status)).canon := by
  simp (maxDischargeDepth := 12) only [State.imageRecord, State.record_canon, hcan]

theorem State.verifySlot_canon (s : State) (kind : Nat) (bank : Bool) (op : Nat) (hcan : s.canon) : ((State.verifySlot s kind bank op).2).canon := by
  simp (maxDischargeDepth := 12) only [State.verifySlot, State.modNotar_canon, State.imageRecord_canon, hcan]

theorem State.freeOp_canon (s : State) (hcan : s.canon) : ((State.freeOp s).2).canon := hcan

theorem State.measureRecord_canon (s : State) (hcan : s.canon) : ((State.measureRecord s)).canon := by
  simp (maxDischargeDepth := 12) only [State.measureRecord, State.record_canon, hcan]

theorem State.loadMicrocode_canon (s : State) (hcan : s.canon) : ((State.loadMicrocode s).2).canon := by
  unfold State.loadMicrocode
  dsimp only
  repeat' split
  all_goals simp (maxDischargeDepth := 12) only [State.modNotar_canon, State.verifySlot_canon, State.freeOp_canon, State.measureRecord_canon, hcan]

theorem State.loadFirmware_canon (s : State) (hcan : s.canon) : ((State.loadFirmware s)).canon := by
  unfold State.loadFirmware
  dsimp only
  repeat' split
  all_goals simp (maxDischargeDepth := 12) only [State.modNotar_canon, State.imageRecord_canon, State.verifySlot_canon, State.freeOp_canon, hcan]

theorem State.restartFirmware_canon (s : State) (hcan : s.canon) : ((State.restartFirmware s)).canon := by
  unfold State.restartFirmware
  repeat' (first
    | exact hcan | assumption | dsimp only
    | simp (maxDischargeDepth := 12) only [State.endCmd_canon, State.modNotar_canon, State.measureRecord_canon, State.canon_update, *]
    | refine State.canon_of_eq (by assumption) ?_ | refine State.canon_of_eq3 (by assumption) ?_
    | refine State.canon_foldl _ _ (fun _ _ _ => ?_) _ ?_)

theorem State.stageGo_canon (n : Nat) (s : State) (id : Nat) (hcan : s.canon) : ((State.stageGo n s id)).canon := by
  induction n generalizing s with
  | zero => exact hcan
  | succ k ih =>
    unfold State.stageGo
    cases s.cmdOf id with
    | none => exact hcan
    | some c =>
      dsimp only
      repeat' (first
        | with_reducible (first
          | assumption | apply State.modCmd_canon | apply State.endCmd_canon | apply State.cmdRead_canon | apply State.modNotar_canon
          | apply State.verifySlot_canon | apply ih)
        | split)

end Sys2Proof.Machine
end

