-- ==== Sys2Proof/Laws/CanonEnv.lean ====
section
/-! SUPPORT. For each operation of answers, links, SPDM, power, register writes and the management bus: it keeps the canonical form of
the memories (`State.canon`, Laws/Canon.lean). -/

namespace Sys2Proof.Machine

/-! Operations of Machine/Waits.lean. -/

theorem State.goOn_canon (s : State) (id : Nat) (hcan : s.canon) : ((State.goOn s id)).canon := by
  unfold State.goOn
  repeat' (first
    | exact hcan | assumption | dsimp only
    | simp (maxDischargeDepth := 12) only [State.copyGo_canon, State.fillGo_canon, State.imemGo_canon, State.exchangeGo_canon,
        State.jobOpenGo_canon, State.replayGo_canon, State.checkpointGo_canon, State.restoreGo_canon, State.stageGo_canon, *]
    | refine State.canon_of_eq (by assumption) ?_ | refine State.canon_of_eq3 (by assumption) ?_
    | refine State.canon_foldl _ _ (fun _ _ _ => ?_) _ ?_ | refine State.canon_foldl_snd _ _ (fun _ _ _ => ?_) _ ?_
    | refine State.canon_foldl3 _ _ (fun _ _ _ => ?_) _ ?_ | split)

theorem State.cmdAnswered_canon (s : State) (id tag : Nat) (ans : Answer) (hcan : s.canon) : ((State.cmdAnswered s id tag ans)).canon := by
  unfold State.cmdAnswered
  repeat' (first | with_reducible (first | assumption | apply State.keepCmd_canon | apply State.goOn_canon) | split)

theorem State.answer_canon (s : State) (a : ErgAccess) (ans : Answer) (hcan : s.canon) : ((State.answer s a ans)).canon := by
  unfold State.answer
  repeat' (first
    | exact hcan | assumption | dsimp only
    | simp (maxDischargeDepth := 12) only [State.resultAnswered_canon, State.recordAnswered_canon, State.qAnswered_canon, State.cmdAnswered_canon, *]
    | refine State.canon_of_eq (by assumption) ?_ | refine State.canon_of_eq3 (by assumption) ?_
    | refine State.canon_foldl _ _ (fun _ _ _ => ?_) _ ?_ | refine State.canon_foldl_snd _ _ (fun _ _ _ => ?_) _ ?_
    | refine State.canon_foldl3 _ _ (fun _ _ _ => ?_) _ ?_ | split)

theorem State.deliver_canon (x : List (ErgAccess × Answer) × State) (hcan : x.2.canon) : (State.deliver x).canon := by
  unfold State.deliver
  repeat' (first
    | exact hcan | assumption | dsimp only
    | simp (maxDischargeDepth := 12) only [State.answer_canon, *]
    | refine State.canon_of_eq (by assumption) ?_ | refine State.canon_of_eq3 (by assumption) ?_
    | refine State.canon_foldl _ _ (fun _ _ _ => ?_) _ ?_)

theorem State.endTimeout_canon (s : State) (c : Cmd) (hcan : s.canon) : ((State.endTimeout s c)).canon := by
  simp (maxDischargeDepth := 12) only [State.endTimeout, State.endCmd_canon, hcan]

theorem State.abortEnd_canon (s : State) (c : Cmd) (hcan : s.canon) : ((State.abortEnd s c)).canon := by
  simp (maxDischargeDepth := 12) only [State.abortEnd, State.endCmd_canon, hcan, State.canon_update]

theorem State.swapEnd_canon (s : State) (c : Cmd) (hcan : s.canon) : ((State.swapEnd s c)).canon := by
  simp (maxDischargeDepth := 12) only [State.swapEnd, State.retryParked_canon, State.endCmd_canon, State.deliver_canon, hcan, State.canon_update]

theorem State.closeScrub_canon (s : State) (c : Cmd) (notQuiet : Bool) (hcan : s.canon) : ((State.closeScrub s c notQuiet)).canon := hcan

theorem State.checkQuiet_canon (s : State) (hcan : s.canon) : ((State.checkQuiet s)).canon := by
  unfold State.checkQuiet
  dsimp only
  repeat' split
  all_goals simp (maxDischargeDepth := 12) only [State.abortEnd_canon, State.swapEnd_canon, State.closeScrub_canon, hcan, State.canon_update]

theorem State.waitQuiet_canon (s : State) (c : Cmd) (phase : Nat) (progress : Byte) (hcan : s.canon) : ((State.waitQuiet s c phase
    progress)).canon := by
  simp (maxDischargeDepth := 12) only [State.waitQuiet, State.sendProbes_canon, State.keepCmd_canon, State.checkQuiet_canon, hcan]

theorem State.endStopped_canon (s : State) (c : Cmd) (hcan : s.canon) : ((State.endStopped s c)).canon := by
  unfold State.endStopped
  dsimp only
  repeat' split
  all_goals simp (maxDischargeDepth := 12) only [State.endCmd_canon, State.launchStep_canon, hcan]

theorem State.abortWork_canon (s : State) (step : BitVec 32) (hcan : s.canon) : ((State.abortWork s step)).canon := by
  unfold State.abortWork
  repeat' (first
    | with_reducible (first
      | assumption | apply State.abortReplay_canon | apply State.qFlagsHeads_canon | apply State.haltAll_canon | apply State.endStopped_canon | apply State.setCore_canon
      | apply State.discardWaiting_canon | apply Core.qDiscard_canon | apply State.core_canon
      | refine State.canon_foldl _ _ (fun _ _ _ => ?_) _ ?_)
    | simp only [State.canon_update] | split)

theorem State.closeWork_canon (s : State) (self : Nat) (hcan : s.canon) : ((State.closeWork s self)).canon := by
  unfold State.closeWork
  repeat' (first
    | with_reducible (first
      | assumption | apply State.oneCycle_canon | apply State.setState_canon | apply State.endCmd_canon | apply State.disarm_canon | apply State.qFlagsHeads_canon
      | apply State.returnCredits_canon
      | apply State.haltAll_canon
      | apply State.endStopped_canon | apply State.setCore_canon | apply Core.qDiscard_canon | apply State.core_canon
      | refine State.canon_foldl _ _ (fun _ _ _ => ?_) _ ?_)
    | simp only [State.canon_update] | split)

theorem State.closeEnd_canon (s : State) (hcan : s.canon) : ((State.closeEnd s)).canon := by
  unfold State.closeEnd
  extract_lets mem s1
  have h0 : mem.wf = true := Mem.wf_clearPages _ _ hcan.2.2
  have h1 : s1.canon :=
    State.canon_foldl _ _ (fun s p h => State.setCore_canon _ _ _ h (Core.closed_canon _)) _ hcan
  exact State.setState_canon _ _ (State.setQsteps_canon _ _ ⟨h1.1, h1.2.1, h0⟩)

theorem State.stopQuiet_canon (s : State) (c : Cmd) (hcan : s.canon) : ((State.stopQuiet s c)).canon := by
  simp (maxDischargeDepth := 12) only [State.stopQuiet, State.endCmd_canon, hcan, State.canon_update]

theorem State.timeOut_canon (s : State) (c : Cmd) (hcan : s.canon) : ((State.timeOut s c)).canon := by
  unfold State.timeOut
  dsimp only
  repeat' split
  all_goals simp (maxDischargeDepth := 12) only [State.cmdOutcome_canon, State.replyTo_canon, State.keepCmd_canon, State.haltStreams_canon,
      State.launchStep_canon, State.settleQueues_canon, State.goOn_canon, State.stopQuiet_canon, hcan]

theorem State.fillOn_canon (s : State) (hcan : s.canon) : (State.fillOn s).canon := by
  unfold State.fillOn
  dsimp only
  split
  · exact hcan
  · exact hcan

theorem State.idle_canon (s : State) (hcan : s.canon) : ((State.idle s)).canon := by
  unfold State.idle
  dsimp only
  simp only [State.canon_update]
  refine State.fillOn_canon _ (State.creditsBack_canon _ (State.modNotar_canon _ _ ?_))
  split
  · exact State.endDump_canon _ _ hcan
  · exact hcan

/-! Operations of Machine/ErgGroup.lean. -/

theorem State.resendFrames_canon (s : State) (p : Fin 16) (l : List (BitVec 12 × ErgPacket)) (hcan : s.canon) : ((State.resendFrames s p
    l)).canon := by
  unfold State.resendFrames
  repeat' (first
    | exact hcan | assumption | dsimp only
    | simp (maxDischargeDepth := 12) only [State.send_canon, hcan, State.canon_update, State.canon_mem, State.core_canon, *]
    | refine State.canon_of_eq (by assumption) ?_ | refine State.canon_of_eq3 (by assumption) ?_
    | refine State.canon_foldl _ _ (fun _ _ _ => ?_) _ ?_)

theorem State.contributed_canon (s : State) (i : Issuer) (tag : Nat) (ans : Answer) (hcan : s.canon) : ((State.contributed s i tag ans)).canon := by
  simp (maxDischargeDepth := 12) only [State.contributed, State.answer_canon, hcan]

theorem State.collArrives_canon (s : State) (p : Fin 16) (pkt : ErgPacket) (ops : List Nat) (hcan : s.canon) : ((State.collArrives s p pkt
    ops)).canon := by
  unfold State.collArrives
  repeat' (first
    | with_reducible (first
      | assumption | apply State.arrives_canon | apply State.sequenceColl_canon | apply State.offer_canon)
    | intro _)

/-! Operations of Machine/Spdm.lean. -/

theorem State.modConn_canon (s : State) (t : Transport) (f : SpdmConn → SpdmConn) (hcan : s.canon) : ((State.modConn s t f)).canon := hcan

theorem State.mctpReply_canon (s : State) (l : List Byte) (hcan : s.canon) : ((State.mctpReply s l)).canon := hcan

theorem State.spdmSend_canon (s : State) (t : Transport) (secure : Bool) (l : List Byte) (hcan : s.canon) : ((State.spdmSend s t secure l)).canon
    := by
  unfold State.spdmSend
  dsimp only
  repeat' split
  all_goals simp (maxDischargeDepth := 12) only [State.send_canon, State.mctpReply_canon, hcan]

theorem State.spdmMaybeLater_canon (s : State) (t : Transport) (l : List Byte) (hcan : s.canon) : ((State.spdmMaybeLater s t l)).canon := by
  unfold State.spdmMaybeLater
  dsimp only
  repeat' split
  all_goals simp (maxDischargeDepth := 12) only [State.draw_canon, State.modConn_canon, State.spdmSend_canon, hcan]

theorem State.signed_canon (s : State) (slot : Nat) (l : List Byte) (hcan : s.canon) : ((State.signed s slot l).2).canon := hcan

theorem State.txGo_canon (s : State) (len : Byte) (hcan : s.canon) : ((State.txGo s len)).canon := by
  unfold State.txGo
  dsimp only
  repeat' split
  all_goals simp (maxDischargeDepth := 12) only [State.modNotar_canon, hcan, State.canon_update]

theorem State.rxDone_canon (s : State) (hcan : s.canon) : ((State.rxDone s)).canon := by
  unfold State.rxDone
  dsimp only
  repeat' split
  all_goals simp (maxDischargeDepth := 12) only [State.modNotar_canon, hcan]

theorem State.spdmServe_canon (s : State) (x : Transport) (ok : SpdmConn → Bool) (f : State → State) (t : State)
    (hf : ∀ s, s.canon → (f s).canon) (hcan : s.canon) (h : s.spdmServe x ok f = .next t) : t.canon := by
  cases h
  split
  · exact hcan
  · split
    · exact hf _ hcan
    · exact State.spdmSend_canon _ _ _ _ hcan

/-! Operations of Machine/Power.lean. -/

theorem State.modPower_canon (s : State) (f : Power → Power) (hcan : s.canon) : ((State.modPower s f)).canon := hcan

theorem State.setPwrGood_canon (s : State) (v : Bool) (hcan : s.canon) : ((State.setPwrGood s v)).canon := by
  unfold State.setPwrGood
  repeat' (first
    | exact hcan | assumption | dsimp only
    | simp (maxDischargeDepth := 12) only [State.send_canon, State.modPower_canon, hcan, State.canon_update, State.canon_mem, State.core_canon, *]
    | refine State.canon_of_eq (by assumption) ?_ | refine State.canon_of_eq3 (by assumption) ?_
    | refine State.canon_foldl _ _ (fun _ _ _ => ?_) _ ?_ | refine State.canon_foldl_snd _ _ (fun _ _ _ => ?_) _ ?_
    | refine State.canon_foldl3 _ _ (fun _ _ _ => ?_) _ ?_ | split)

theorem State.setThermTrip_canon (s : State) (v : Bool) (hcan : s.canon) : ((State.setThermTrip s v)).canon := by
  unfold State.setThermTrip
  repeat' (first
    | exact hcan | assumption | dsimp only
    | simp (maxDischargeDepth := 12) only [State.send_canon, State.modPower_canon, hcan, State.canon_update, State.canon_mem, State.core_canon, *]
    | refine State.canon_of_eq (by assumption) ?_ | refine State.canon_of_eq3 (by assumption) ?_
    | refine State.canon_foldl _ _ (fun _ _ _ => ?_) _ ?_ | refine State.canon_foldl_snd _ _ (fun _ _ _ => ?_) _ ?_
    | refine State.canon_foldl3 _ _ (fun _ _ _ => ?_) _ ?_ | split)

theorem State.pmSet_canon (s : State) (i : Fin 6) (hcan : s.canon) : ((State.pmSet s i)).canon := by
  unfold State.pmSet
  dsimp only
  repeat' split
  all_goals simp (maxDischargeDepth := 12) only [State.msix_canon, State.ibi_canon, State.modPower_canon, hcan]

theorem State.setLevels_canon (s : State) (l : Vector (BitVec 3) 4) (hcan : s.canon) : ((State.setLevels s l)).canon := by
  unfold State.setLevels
  dsimp only
  repeat' split
  all_goals simp (maxDischargeDepth := 12) only [State.modPower_canon, State.pmSet_canon, hcan]

theorem State.clearLevels_canon (s : State) (hcan : s.canon) : (State.clearLevels s).canon :=
  State.setLevels_canon _ _ (State.modPower_canon _ _ hcan)

theorem State.clocksRun_canon (s : State) (hcan : s.canon) : (State.clocksRun s).canon := hcan

theorem State.clearMain_canon (s : State) (endpoint : Bool) (hcan : s.canon) : ((State.clearMain s endpoint)).canon := ⟨rfl, fun _ => rfl, rfl⟩

theorem State.moduleReset_canon (s : State) (source : Nat) (hcan : s.canon) : ((State.moduleReset s source)).canon := by
  simp (maxDischargeDepth := 12) only [State.moduleReset, State.setState_canon, State.record_canon, State.clearMain_canon, hcan, State.canon_update]

theorem State.hostResetKey_canon (s : State) (value : Reg) (hcan : s.canon) : ((State.hostResetKey s value)).canon := by
  unfold State.hostResetKey
  repeat' (first
    | exact hcan | assumption | dsimp only
    | simp (maxDischargeDepth := 12) only [State.moduleReset_canon, *]
    | refine State.canon_of_eq (by assumption) ?_ | refine State.canon_of_eq3 (by assumption) ?_
    | refine State.canon_foldl _ _ (fun _ _ _ => ?_) _ ?_ | refine State.canon_foldl_snd _ _ (fun _ _ _ => ?_) _ ?_
    | refine State.canon_foldl3 _ _ (fun _ _ _ => ?_) _ ?_ | split)

theorem State.rmcResetKey_canon (s : State) (value : Byte) (hcan : s.canon) : ((State.rmcResetKey s value)).canon := by
  unfold State.rmcResetKey
  repeat' (first
    | exact hcan | assumption | dsimp only
    | simp (maxDischargeDepth := 12) only [State.moduleReset_canon, *]
    | refine State.canon_of_eq (by assumption) ?_ | refine State.canon_of_eq3 (by assumption) ?_
    | refine State.canon_foldl _ _ (fun _ _ _ => ?_) _ ?_ | refine State.canon_foldl_snd _ _ (fun _ _ _ => ?_) _ ?_
    | refine State.canon_foldl3 _ _ (fun _ _ _ => ?_) _ ?_ | split)

theorem State.powerOff_canon (s : State) (cause : BitVec 4) (hcan : s.canon) : ((State.powerOff s cause)).canon := by
  unfold State.powerOff
  repeat' (first
    | with_reducible (first
      | assumption | apply State.modPower_canon | apply State.mark_canon | apply State.endCmd_canon | apply State.freeCoreMail_canon
      | apply State.clearMain_canon
      | refine State.canon_foldl _ _ (fun _ _ _ => ?_) _ ?_)
    | simp only [State.canon_update] | split)

theorem State.writeCoord_canon (s : State) (v : Reg) (hcan : s.canon) : ((State.writeCoord s v)).canon := by
  unfold State.writeCoord
  repeat' (first
    | exact hcan | assumption | dsimp only
    | simp (maxDischargeDepth := 12) only [State.record_canon, State.startLink_canon, State.modPower_canon, State.canon_update, *]
    | refine State.canon_of_eq (by assumption) ?_ | refine State.canon_of_eq3 (by assumption) ?_
    | refine State.canon_foldl _ _ (fun _ _ _ => ?_) _ ?_ | refine State.canon_foldl_snd _ _ (fun _ _ _ => ?_) _ ?_
    | refine State.canon_foldl3 _ _ (fun _ _ _ => ?_) _ ?_ | split)

theorem State.mainOnWrite_canon (s : State) (milliVolts : Nat) (refOk : Bool) (hcan : s.canon) : ((State.mainOnWrite s milliVolts refOk)).canon := by
  unfold State.mainOnWrite
  dsimp only
  repeat' split
  all_goals simp (maxDischargeDepth := 12) only [State.clearLevels_canon, State.modPower_canon, State.setThermTrip_canon, hcan]

theorem State.mainOffWrite_canon (s : State) (hcan : s.canon) : ((State.mainOffWrite s)).canon := by
  simp (maxDischargeDepth := 12) only [State.mainOffWrite, State.modPower_canon, State.powerOff_canon, hcan]

theorem State.startupFailed_canon (s : State) (hcan : s.canon) : ((State.startupFailed s)).canon := by
  simp (maxDischargeDepth := 12) only [State.startupFailed, State.modPower_canon, State.powerOff_canon, hcan]

theorem State.noSeal_canon (s : State) (hcan : s.canon) : (State.noSeal s).canon := hcan

theorem State.flushRecords_canon (n : Nat) (s : State) (l : List CairnEntry) (hcan : s.canon) : (State.flushRecords n s l).2.canon := by
  induction l generalizing s n with
  | nil => exact hcan
  | cons e r ih =>
    unfold State.flushRecords
    split
    · exact ih _ _ hcan
    · exact ih _ _ (State.noSeal_canon _ (State.writeRecord_canon _ _ hcan))

theorem State.cairnLoss_canon (s : State) (hcan : s.canon) : ((State.cairnLoss s)).canon := by
  unfold State.cairnLoss
  refine State.writeRecord_canon _ _ ?_
  exact State.flushRecords_canon _ _ _ (State.noSeal_canon _ hcan)

theorem State.thermalRecord_canon (s : State) (i : Nat) (trip : Bool) (t : BitVec 12) (hcan : s.canon) : ((State.thermalRecord s i trip t)).canon
    := by
  simp (maxDischargeDepth := 12) only [State.thermalRecord, State.record_canon, hcan]

theorem State.readSource_canon (s : State) (i : Fin 12) (t : BitVec 12) (hcan : s.canon) : ((State.readSource s i t)).canon := by
  unfold State.readSource
  dsimp only
  repeat' split
  all_goals simp (maxDischargeDepth := 12) only [State.pmSet_canon, State.thermalRecord_canon, hcan, State.canon_update]

theorem State.resetEndpoint_canon (s : State) (hcan : s.canon) : ((State.resetEndpoint s)).canon := hcan

theorem State.writeScrub_canon (s : State) (v : Reg) (hcan : s.canon) : ((State.writeScrub s v)).canon := by
  unfold State.writeScrub
  repeat' (first
    | exact hcan | assumption | dsimp only
    | simp (maxDischargeDepth := 12) only [hcan, State.canon_update, State.canon_mem, State.core_canon, *]
    | refine State.canon_of_eq (by assumption) ?_ | refine State.canon_of_eq3 (by assumption) ?_
    | refine State.canon_foldl _ _ (fun _ _ _ => ?_) _ ?_ | refine State.canon_foldl_snd _ _ (fun _ _ _ => ?_) _ ?_
    | refine State.canon_foldl3 _ _ (fun _ _ _ => ?_) _ ?_ | split)

/-! Operations of Machine/Registers.lean. -/

theorem State.coreWindow_canon (s : State) (p : Nat) (f : Core → Core) (hf : ∀ x, x.canon → (f x).canon) (hcan : s.canon) : ((State.coreWindow s
    p f)).canon := by
  unfold State.coreWindow
  split
  · exact State.setCore_canon _ _ _ hcan (hf _ (State.core_canon _ _ hcan))
  · exact hcan

theorem State.writeQstep_canon (s : State) (q : Fin 8) (v : Reg) (hcan : s.canon) : ((State.writeQstep s q v)).canon := by
  unfold State.writeQstep
  dsimp only
  repeat' split
  all_goals simp (maxDischargeDepth := 12) only [State.modQueue_canon, hcan, State.canon_update]

theorem State.writePortEn_canon (s : State) (v : BitVec 16) (hcan : s.canon) : ((State.writePortEn s v)).canon := by
  unfold State.writePortEn
  repeat' (first
    | exact hcan | assumption | dsimp only
    | simp (maxDischargeDepth := 12) only [State.setLink_canon, State.startLink_canon, *]
    | refine State.canon_of_eq (by assumption) ?_ | refine State.canon_of_eq3 (by assumption) ?_
    | refine State.canon_foldl _ _ (fun _ _ _ => ?_) _ ?_ | refine State.canon_foldl_snd _ _ (fun _ _ _ => ?_) _ ?_
    | refine State.canon_foldl3 _ _ (fun _ _ _ => ?_) _ ?_ | split)

theorem State.retrain_canon (s : State) (p : Fin 16) (hcan : s.canon) : ((State.retrain s p)).canon := by
  unfold State.retrain
  dsimp only
  repeat' split
  all_goals simp (maxDischargeDepth := 12) only [State.startLink_canon, hcan]

theorem State.forceDown_canon (s : State) (p : Fin 16) (hold : Bool) (hcan : s.canon) : ((State.forceDown s p hold)).canon := by
  unfold State.forceDown
  repeat' (first | with_reducible (first | assumption | apply State.modPort_canon | apply State.setLink_canon) | split | dsimp only)

theorem State.clearErgCounts_canon (s : State) (hcan : s.canon) : ((State.clearErgCounts s)).canon := hcan

theorem State.clearCollCounts_canon (s : State) (hcan : s.canon) : ((State.clearCollCounts s)).canon := hcan

theorem State.clearHcCounts_canon (s : State) (hcan : s.canon) : ((State.clearHcCounts s)).canon := hcan

theorem State.clearSource_canon (s : State) (src : Nat) (hcan : s.canon) : ((State.clearSource s src)).canon := hcan

theorem State.clearPeaks_canon (s : State) (hcan : s.canon) : ((State.clearPeaks s)).canon := hcan

theorem State.writeIdent_canon (s : State) (o v : Nat) (hcan : s.canon) : ((State.writeIdent s o v)).canon := by
  unfold State.writeIdent
  dsimp only
  repeat' split
  all_goals simp (maxDischargeDepth := 12) only [State.hostResetKey_canon, State.writeQstep_canon, State.clearHcCounts_canon, hcan,
      State.canon_update]

theorem State.writeQueue_canon (s : State) (q : Fin 8) (o v : Nat) (hcan : s.canon) : ((State.writeQueue s q o v)).canon := by
  unfold State.writeQueue
  dsimp only
  repeat' split
  all_goals simp (maxDischargeDepth := 12) only [State.modQueue_canon, State.writeQctrl_canon, hcan]

theorem State.clearPm_canon (s : State) (v : Nat) (hcan : s.canon) : ((State.clearPm s v)).canon := hcan

theorem State.writePower_canon (s : State) (o v : Nat) (hcan : s.canon) : ((State.writePower s o v)).canon := by
  unfold State.writePower
  repeat' (first
    | exact hcan | assumption | dsimp only
    | simp (maxDischargeDepth := 12) only [State.modPower_canon, State.clearPeaks_canon, State.clearPm_canon, Core.swap_canon, hcan,
        State.canon_update, State.canon_mem, State.core_canon, *]
    | refine State.canon_of_eq (by assumption) ?_ | refine State.canon_of_eq3 (by assumption) ?_
    | refine State.canon_foldl _ _ (fun _ _ _ => ?_) _ ?_ | refine State.canon_foldl_snd _ _ (fun _ _ _ => ?_) _ ?_
    | refine State.canon_foldl3 _ _ (fun _ _ _ => ?_) _ ?_ | split)

theorem State.writeShadow_canon (s : State) (rank : Bool) (i v : Nat) (hcan : s.canon) : ((State.writeShadow s rank i v)).canon := by
  unfold State.writeShadow
  dsimp only
  repeat' split
  all_goals simp (maxDischargeDepth := 12) only [hcan, State.canon_update]

theorem State.writeFabric_canon (s : State) (o v : Nat) (hcan : s.canon) : ((State.writeFabric s o v)).canon := by
  unfold State.writeFabric
  dsimp only
  repeat' split
  all_goals simp (maxDischargeDepth := 12) only [State.writePortEn_canon, State.retrain_canon, State.forceDown_canon, State.clearErgCounts_canon,
      State.writeShadow_canon, hcan, State.canon_update]

theorem State.writeColl_canon (s : State) (o v : Nat) (hcan : s.canon) : ((State.writeColl s o v)).canon := by
  unfold State.writeColl
  dsimp only
  repeat' split
  all_goals simp (maxDischargeDepth := 12) only [State.clearCollCounts_canon, hcan, State.canon_update]

theorem State.writeMem_canon (s : State) (o v : Nat) (hcan : s.canon) : ((State.writeMem s o v)).canon := by
  unfold State.writeMem
  dsimp only
  repeat' split
  all_goals simp (maxDischargeDepth := 12) only [State.modLog_canon, State.writeScrub_canon, State.clearSource_canon, hcan, State.canon_mem]

theorem State.writeSel_canon (s : State) (side : Side) (o v : Nat) (hcan : s.canon) : ((State.writeSel s side o v)).canon := by
  unfold State.writeSel
  dsimp only
  repeat' split
  all_goals simp (maxDischargeDepth := 12) only [hcan, State.canon_update]

theorem State.writeBar0_canon (s : State) (o v : Nat) (hcan : s.canon) : ((State.writeBar0 s o v)).canon := by
  unfold State.writeBar0
  repeat' (first
    | with_reducible (first
      | assumption | apply State.coreWindow_canon | apply State.writeIdent_canon | apply State.writeQueue_canon
      | apply State.writePower_canon | apply State.writeFabric_canon | apply State.writeColl_canon | apply State.writeMem_canon
      | apply State.writeSel_canon | apply Core.writeReg_canon)
    | intro _ | split)

theorem State.writeMail_canon (s : State) (m : Fin 16) (a : Agent) (o v : Nat) (hcan : s.canon) : ((State.writeMail s m a o v)).canon := by
  unfold State.writeMail
  dsimp only
  repeat' split
  all_goals simp (maxDischargeDepth := 12) only [State.modMail_canon, State.mailRefused_canon, State.mailClaim_canon, State.mailGo_canon,
      State.mailRelease_canon, State.mailCode_canon, hcan]

theorem State.writeMsix_canon (s : State) (o v : Nat) (hcan : s.canon) : ((State.writeMsix s o v)).canon := by
  unfold State.writeMsix
  repeat' (first
    | exact hcan | assumption | dsimp only
    | simp (maxDischargeDepth := 12) only [State.send_canon, State.msix_canon, State.doorbell_canon, hcan, State.canon_update, State.canon_mem,
        State.core_canon, *]
    | refine State.canon_of_eq (by assumption) ?_ | refine State.canon_of_eq3 (by assumption) ?_
    | refine State.canon_foldl _ _ (fun _ _ _ => ?_) _ ?_ | refine State.canon_foldl_snd _ _ (fun _ _ _ => ?_) _ ?_
    | refine State.canon_foldl3 _ _ (fun _ _ _ => ?_) _ ?_ | split)

theorem State.doorbell_canon (s : State) (q : Fin 8) (cpl : Bool) (v : Reg) (hcan : s.canon) : ((State.doorbell s q cpl v)).canon := by
  have key : ∀ t, (if cpl then execCplHeadDoorbell q v s else execCmdTailDoorbell q v s) = .next t → t.canon := by
    intro t h
    split at h
    · cases h
      (repeat' split) <;> first
        | exact hcan | exact State.modQueue_canon _ _ _ hcan
        | exact State.releaseHeld_canon _ _ _ (State.modQueue_canon _ _ _ hcan)
    · cases h
      (repeat' split) <;> first | exact hcan
  unfold State.doorbell
  generalize (if cpl then execCplHeadDoorbell q v s else execCmdTailDoorbell q v s) = o at key
  cases o with
  | next t => exact key t rfl
  | fault _ => exact hcan
  | refused _ => exact hcan

theorem State.writeConfig_canon (s : State) (off v : Nat) (hcan : s.canon) : (State.writeConfig s off v).canon := by
  unfold State.writeConfig
  dsimp only
  split
  · exact hcan
  · refine State.canon_foldl _ _ (fun x n h => ?_) _ (State.modPower_canon _ _ hcan)
    split
    · exact State.send_canon _ _ h
    · exact h

theorem State.writeAgent_canon (s : State) (a : Agent) (o v : Nat) (hcan : s.canon) : (State.writeAgent s a o v).canon := by
  unfold State.writeAgent
  dsimp only
  split
  · exact State.writeMail_canon _ _ _ _ _ hcan
  · exact hcan

theorem State.writeBar4_canon (s : State) (o v : Nat) (hcan : s.canon) : ((State.writeBar4 s o v)).canon := by
  unfold State.writeBar4
  repeat' (first
    | exact hcan | assumption | dsimp only
    | simp (maxDischargeDepth := 12) only [State.writeMail_canon, State.writeMsix_canon, State.doorbell_canon, *]
    | refine State.canon_of_eq (by assumption) ?_ | refine State.canon_of_eq3 (by assumption) ?_
    | refine State.canon_foldl _ _ (fun _ _ _ => ?_) _ ?_ | refine State.canon_foldl_snd _ _ (fun _ _ _ => ?_) _ ?_
    | refine State.canon_foldl3 _ _ (fun _ _ _ => ?_) _ ?_ | split)

/-! Operations of Machine/I3c.lean. -/

theorem State.writeRmcCtrl_canon (s : State) (v : Nat) (hcan : s.canon) : ((State.writeRmcCtrl s v)).canon := by
  unfold State.writeRmcCtrl
  dsimp only
  repeat' split
  all_goals simp (maxDischargeDepth := 12) only [State.rmcResetKey_canon, State.mainOnWrite_canon, State.mainOffWrite_canon, hcan, State.canon_update]

theorem State.writeRmc_canon (s : State) (o v : Nat) (hcan : s.canon) : ((State.writeRmc s o v)).canon := by
  unfold State.writeRmc
  repeat' (first
    | with_reducible (first
      | assumption | apply State.modNotar_canon | apply State.txGo_canon | apply State.rxDone_canon | apply State.modPower_canon
      | apply State.writeCoord_canon | apply State.clearPm_canon | apply State.writeSel_canon | apply State.writeMail_canon
      | apply State.mainOnWrite_canon | apply State.writeRmcCtrl_canon)
    | split | dsimp only)

theorem State.i3cBytes_canon (n : Nat) (s : State) (off : Nat) (l : List Byte) (hcan : s.canon) : ((State.i3cBytes n s off l)).canon := by
  induction n generalizing s off l with
  | zero => exact hcan
  | succ k ih =>
    unfold State.i3cBytes
    repeat' (first | with_reducible (first | assumption | apply State.modPower_canon | apply State.writeRmc_canon | apply ih) | split)

theorem State.i3cIgnored_canon (s : State) (hcan : s.canon) : (State.i3cIgnored s).canon := hcan

theorem State.i3cWrite_canon (s : State) (bytes : List Byte) (hcan : s.canon) : (State.i3cWrite s bytes).canon := by
  unfold State.i3cWrite
  dsimp only
  split
  · exact hcan
  · exact State.i3cBytes_canon _ _ _ _ (State.modPower_canon _ _ hcan)

theorem State.i3cRegs_canon (n : Nat) (s : State) (hcan : s.canon) : (State.i3cRegs n s).2.canon := by
  induction n generalizing s with
  | zero => exact hcan
  | succ k ih =>
    unfold State.i3cRegs
    exact ih _ (State.modPower_canon _ _ hcan)

theorem State.i3cRead_canon (s : State) (n : Nat) (hcan : s.canon) : (State.i3cRead s n).canon := by
  unfold State.i3cRead
  split
  · exact hcan
  · split
    · exact hcan
    · exact State.i3cRegs_canon _ _ hcan

theorem State.i3cAnswer_canon (s : State) (l : List Byte) (t : State) (hcan : s.canon) (h : s.i3cAnswer l = .next t) : t.canon := by
  cases h
  split <;> exact hcan

/-! Operations of Machine/QanatGroup.lean. -/

end Sys2Proof.Machine
end

