-- ==== Sys2Proof/Laws/CanonExec.lean ====
section
/-! SUPPORT. For each command: its next state has the memories in canonical form where the state before it has (`State.canon`,
Laws/Canon.lean). -/

namespace Sys2Proof.Machine

theorem execNop_canon (c : CoreId) (k : StreamId) (s : State) (t' : State) (hcan : s.canon) (h : execNop c k s = .next t') : t'.canon := by
  cases h
  repeat' with_reducible (first | assumption | apply State.issue_canon | apply bodyNop_canon)

theorem execHalt_canon (c : CoreId) (k : StreamId) (s : State) (t' : State) (hcan : s.canon) (h : execHalt c k s = .next t') : t'.canon := by
  cases h
  repeat' with_reducible (first | assumption | apply State.issue_canon | apply bodyHalt_canon)

theorem execEvent_canon (c : CoreId) (k : StreamId) (s : State) (t' : State) (hcan : s.canon) (h : execEvent c k s = .next t') : t'.canon := by
  cases h
  repeat' with_reducible (first | assumption | apply State.issue_canon | apply bodyStream_canon)

theorem execCset_canon (c : CoreId) (k : StreamId) (s : State) (t' : State) (hcan : s.canon) (h : execCset c k s = .next t') : t'.canon := by
  cases h
  repeat' with_reducible (first | assumption | apply State.issue_canon | apply bodyStream_canon)

theorem execCinc_canon (c : CoreId) (k : StreamId) (s : State) (t' : State) (hcan : s.canon) (h : execCinc c k s = .next t') : t'.canon := by
  cases h
  repeat' with_reducible (first | assumption | apply State.issue_canon | apply bodyStream_canon)

theorem execCmpset_canon (c : CoreId) (k : StreamId) (s : State) (t' : State) (hcan : s.canon) (h : execCmpset c k s = .next t') : t'.canon := by
  cases h
  repeat' with_reducible (first | assumption | apply State.issue_canon | apply bodyStream_canon)

theorem execBr_canon (c : CoreId) (k : StreamId) (s : State) (t' : State) (hcan : s.canon) (h : execBr c k s = .next t') : t'.canon := by
  cases h
  repeat' with_reducible (first | assumption | apply State.issue_canon | apply bodyBranch_canon)

theorem execBrc_canon (c : CoreId) (k : StreamId) (s : State) (t' : State) (hcan : s.canon) (h : execBrc c k s = .next t') : t'.canon := by
  cases h
  repeat' with_reducible (first | assumption | apply State.issue_canon | apply bodyBranch_canon)

theorem execBrn_canon (c : CoreId) (k : StreamId) (s : State) (t' : State) (hcan : s.canon) (h : execBrn c k s = .next t') : t'.canon := by
  cases h
  repeat' with_reducible (first | assumption | apply State.issue_canon | apply bodyBranch_canon)

theorem execHswitch_canon (c : CoreId) (k : StreamId) (s : State) (t' : State) (hcan : s.canon) (h : execHswitch c k s = .next t') : t'.canon := by
  cases h
  repeat' with_reducible (first | assumption | apply State.issue_canon | apply bodyHswitch_canon)

theorem execTwait_canon (c : CoreId) (k : StreamId) (s : State) (t' : State) (hcan : s.canon) (h : execTwait c k s = .next t') : t'.canon := by
  cases h
  repeat' with_reducible (first | assumption | apply State.issue_canon | apply bodyTwait_canon)

theorem execTwaitGrant_canon (c : CoreId) (k : StreamId) (s : State) (t' : State) (hcan : s.canon) (h : execTwaitGrant c k s = .next t') :
    t'.canon := by
  cases h
  repeat' (first | with_reducible (first | assumption | apply State.atCore_canon | apply Core.twaitGrant_canon) | intro _)

theorem execTpost_canon (c : CoreId) (k : StreamId) (s : State) (t' : State) (hcan : s.canon) (h : execTpost c k s = .next t') : t'.canon := by
  cases h
  repeat' with_reducible (first | assumption | apply State.issue_canon | apply bodyTpost_canon)

theorem execTokenPost_canon (c : CoreId) (i : Nat) (s : State) (t' : State) (hcan : s.canon) (h : execTokenPost c i s = .next t') : t'.canon := by
  cases h
  repeat' (first | with_reducible (first | assumption | apply State.atCore_canon | apply Core.tokenArrives_canon) | intro _)

theorem execQpush_canon (c : CoreId) (k : StreamId) (s : State) (t' : State) (hcan : s.canon) (h : execQpush c k s = .next t') : t'.canon := by
  cases h
  repeat' with_reducible (first | assumption | apply State.issue_canon | apply bodyQpush_canon)

theorem execLctx_canon (c : CoreId) (k : StreamId) (s : State) (t' : State) (hcan : s.canon) (h : execLctx c k s = .next t') : t'.canon := by
  cases h
  repeat' with_reducible (first | assumption | apply State.issue_canon | apply bodyStream_canon)

theorem execMatmul_canon (c : CoreId) (k : StreamId) (s : State) (t' : State) (hcan : s.canon) (h : execMatmul c k s = .next t') : t'.canon := by
  cases h
  repeat' with_reducible (first | assumption | apply State.issue_canon | apply bodyMatmul_canon)

theorem execP96Accumulate_canon (c : CoreId) (s : State) (t' : State) (hcan : s.canon) (h : execP96Accumulate c s = .next t') : t'.canon := by
  cases h
  repeat' with_reducible (first | assumption | apply State.atCore_canon | apply Core.p96Accumulate_canon)

theorem execWload_canon (c : CoreId) (k : StreamId) (s : State) (t' : State) (hcan : s.canon) (h : execWload c k s = .next t') : t'.canon := by
  cases h
  repeat' with_reducible (first | assumption | apply State.issue_canon | apply bodyWload_canon)

theorem execWloadComplete_canon (c : CoreId) (s : State) (t' : State) (hcan : s.canon) (h : execWloadComplete c s = .next t') : t'.canon := by
  cases h
  repeat' with_reducible (first | assumption | apply State.atCore_canon | apply Core.wloadComplete_canon)

theorem execWswap_canon (c : CoreId) (k : StreamId) (s : State) (t' : State) (hcan : s.canon) (h : execWswap c k s = .next t') : t'.canon := by
  cases h
  repeat' with_reducible (first | assumption | apply State.issue_canon | apply bodyWswap_canon)

theorem execDrain_canon (c : CoreId) (k : StreamId) (s : State) (t' : State) (hcan : s.canon) (h : execDrain c k s = .next t') : t'.canon := by
  cases h
  repeat' with_reducible (first | assumption | apply State.issue_canon | apply bodyDrain_canon)

theorem execBankTailEnd_canon (c : CoreId) (s : State) (t' : State) (hcan : s.canon) (h : execBankTailEnd c s = .next t') : t'.canon := by
  cases h
  repeat' with_reducible (first | assumption | apply State.atCore_canon | apply Core.bankTailEnd_canon)

theorem execBankDrainEnd_canon (c : CoreId) (s : State) (t' : State) (hcan : s.canon) (h : execBankDrainEnd c s = .next t') : t'.canon := by
  cases h
  repeat' with_reducible (first | assumption | apply State.atCore_canon | apply Core.bankDrainEnd_canon)

theorem execBfill_canon (c : CoreId) (k : StreamId) (s : State) (t' : State) (hcan : s.canon) (h : execBfill c k s = .next t') : t'.canon := by
  cases h
  repeat' with_reducible (first | assumption | apply State.issue_canon | apply bodyBfill_canon)

theorem execBfillComplete_canon (c : CoreId) (s : State) (t' : State) (hcan : s.canon) (h : execBfillComplete c s = .next t') : t'.canon := by
  cases h
  repeat' with_reducible (first | assumption | apply State.atCore_canon | apply Core.bfillComplete_canon)

theorem execVfp_canon (c : CoreId) (k : StreamId) (s : State) (t' : State) (hcan : s.canon) (h : execVfp c k s = .next t') : t'.canon := by
  cases h
  repeat' with_reducible (first | assumption | apply State.issue_canon | apply bodyVfp_canon)

theorem execVint_canon (c : CoreId) (k : StreamId) (s : State) (t' : State) (hcan : s.canon) (h : execVint c k s = .next t') : t'.canon := by
  cases h
  repeat' with_reducible (first | assumption | apply State.issue_canon | apply bodyVint_canon)

theorem execVxl_canon (c : CoreId) (k : StreamId) (s : State) (t' : State) (hcan : s.canon) (h : execVxl c k s = .next t') : t'.canon := by
  cases h
  repeat' with_reducible (first | assumption | apply State.issue_canon | apply bodyVxl_canon)

theorem execVcvt_canon (c : CoreId) (k : StreamId) (s : State) (t' : State) (hcan : s.canon) (h : execVcvt c k s = .next t') : t'.canon := by
  cases h
  repeat' with_reducible (first | assumption | apply State.issue_canon | apply bodyVcvt_canon)

theorem execNopen_canon (c : CoreId) (k : StreamId) (s : State) (t' : State) (hcan : s.canon) (h : execNopen c k s = .next t') : t'.canon := by
  cases h
  repeat' with_reducible (first | assumption | apply State.issue_canon | apply bodyNopen_canon)

theorem execNacc_canon (c : CoreId) (k : StreamId) (s : State) (t' : State) (hcan : s.canon) (h : execNacc c k s = .next t') : t'.canon := by
  cases h
  repeat' with_reducible (first | assumption | apply State.issue_canon | apply bodyNacc_canon)

theorem execNsq_canon (c : CoreId) (k : StreamId) (s : State) (t' : State) (hcan : s.canon) (h : execNsq c k s = .next t') : t'.canon := by
  cases h
  repeat' with_reducible (first | assumption | apply State.issue_canon | apply bodyNsq_canon)

theorem execNdot_canon (c : CoreId) (k : StreamId) (s : State) (t' : State) (hcan : s.canon) (h : execNdot c k s = .next t') : t'.canon := by
  cases h
  repeat' with_reducible (first | assumption | apply State.issue_canon | apply bodyNdot_canon)

theorem execNread_canon (c : CoreId) (k : StreamId) (s : State) (t' : State) (hcan : s.canon) (h : execNread c k s = .next t') : t'.canon := by
  cases h
  repeat' with_reducible (first | assumption | apply State.issue_canon | apply bodyNread_canon)

theorem execMwadd_canon (c : CoreId) (k : StreamId) (s : State) (t' : State) (hcan : s.canon) (h : execMwadd c k s = .next t') : t'.canon := by
  cases h
  repeat' with_reducible (first | assumption | apply State.issue_canon | apply bodyMwadd_canon)

theorem execMwaddn_canon (c : CoreId) (k : StreamId) (s : State) (t' : State) (hcan : s.canon) (h : execMwaddn c k s = .next t') : t'.canon := by
  cases h
  repeat' with_reducible (first | assumption | apply State.issue_canon | apply bodyMwaddn_canon)

theorem execMwrite_canon (c : CoreId) (k : StreamId) (s : State) (t' : State) (hcan : s.canon) (h : execMwrite c k s = .next t') : t'.canon := by
  cases h
  repeat' with_reducible (first | assumption | apply State.issue_canon | apply bodyMwrite_canon)

theorem execMread_canon (c : CoreId) (k : StreamId) (s : State) (t' : State) (hcan : s.canon) (h : execMread c k s = .next t') : t'.canon := by
  cases h
  repeat' with_reducible (first | assumption | apply State.issue_canon | apply bodyMread_canon)

theorem execDrop_canon (c : CoreId) (k : StreamId) (s : State) (t' : State) (hcan : s.canon) (h : execDrop c k s = .next t') : t'.canon := by
  cases h
  repeat' with_reducible (first | assumption | apply State.issue_canon | apply bodyDrop_canon)

theorem execVld_canon (c : CoreId) (k : StreamId) (s : State) (t' : State) (hcan : s.canon) (h : execVld c k s = .next t') : t'.canon := by
  cases h
  repeat' with_reducible (first | assumption | apply State.issue_canon | apply bodyVld_canon)

theorem execVst_canon (c : CoreId) (k : StreamId) (s : State) (t' : State) (hcan : s.canon) (h : execVst c k s = .next t') : t'.canon := by
  cases h
  repeat' with_reducible (first | assumption | apply State.issue_canon | apply bodyVst_canon)

theorem execScratchpadWriteEffect_canon (c : CoreId) (s : State) (t' : State) (hcan : s.canon) (h : execScratchpadWriteEffect c s = .next t') :
    t'.canon := by
  cases h
  repeat' with_reducible (first | assumption | apply State.atCore_canon | apply Core.writeEffect_canon)

theorem execVuResultWriteback_canon (c : CoreId) (s : State) (t' : State) (hcan : s.canon) (h : execVuResultWriteback c s = .next t') : t'.canon := by
  cases h
  repeat' with_reducible (first | assumption | apply State.atCore_canon | apply Core.writeback_canon)

theorem execProgressWatchdogExpiry_canon (c : CoreId) (k : StreamId) (s : State) (t' : State) (hcan : s.canon) (h : execProgressWatchdogExpiry c
    k s = .next t') : t'.canon := by
  cases h
  repeat' (first | with_reducible (first | assumption | apply State.atCore_canon | apply Core.watchdog_canon) | intro _)

theorem execEventCompletionPost_canon (c : CoreId) (k : StreamId) (s : State) (t' : State) (hcan : s.canon) (h : execEventCompletionPost c k s =
    .next t') : t'.canon := by
  cases h
  repeat' (first
    | with_reducible (first
      | assumption | apply State.reportLaunch_canon | apply State.setCore_canon | apply Core.modStream_canon | apply State.core_canon)
    | split)

theorem execHalfLoaded_canon (c : CoreId) (k : StreamId) (half : Bool) (s : State) (t' : State) (hcan : s.canon) (h : execHalfLoaded c k half s =
    .next t') : t'.canon := by
  cases h
  repeat' (first
    | with_reducible (first
      | assumption | apply State.post_canon | apply State.endCmd_canon | apply State.keepCmd_canon | apply State.setCore_canon
      | apply Core.modStream_canon | apply State.core_canon)
    | split | dsimp only)

theorem execLaunchComplete_canon (src : CmdSrc) (s : State) (t' : State) (hcan : s.canon) (h : execLaunchComplete src s = .next t') : t'.canon := by
  cases h
  repeat' (first
    | with_reducible (first
      | assumption | apply State.onCore_canon | apply State.endCmd_canon | apply State.launchStep_canon | apply Core.finishWork_canon
      | refine State.canon_foldl _ _ (fun _ _ _ => ?_) _ ?_)
    | simp only [State.canon_update] | intro _ | split)

theorem execQanatDescriptorStart_canon (c : CoreId) (ch : Fin 4) (s : State) (t' : State) (hcan : s.canon) (h : execQanatDescriptorStart c ch s =
    .next t') : t'.canon := by
  cases h
  repeat' (first | with_reducible (first | assumption | apply State.qStart_canon) | split)

theorem execQanatReadDone_canon (c : CoreId) (ch : Fin 4) (s : State) (t' : State) (hcan : s.canon) (h : execQanatReadDone c ch s = .next t') :
    t'.canon := by
  cases h
  repeat' (first | with_reducible (first | assumption | apply State.qReadDone_canon) | split)

theorem execQanatDescriptorRetire_canon (c : CoreId) (ch : Fin 4) (s : State) (t' : State) (hcan : s.canon) (h : execQanatDescriptorRetire c ch s
    = .next t') : t'.canon := by
  cases h
  repeat' (first | with_reducible (first | assumption | apply State.qRetire_canon) | split)

theorem execPatrolScrubRead_canon (k : ScrubClass) (s : State) (t' : State) (hcan : s.canon) (h : execPatrolScrubRead k s = .next t') : t'.canon := by
  unfold execPatrolScrubRead at h
  generalize s.mem.scrub k = x at h
  obtain ⟨pos, ovr, period⟩ := x
  injection h with h
  rw [← h]
  split
  · exact hcan
  · split
    rename_i w u hw
    have hu : u.canon := by
      refine State.canon_of_eq hw ?_
      cases k <;> exact State.readDram_canon _ _ _ _ hcan
    dsimp only
    split
    · exact State.canon_passDone _ _ (State.canon_setScrub _ _ _ _ hu)
    · exact State.canon_setScrub _ _ _ _ hu

theorem execScrubPeriodExpiry_canon (k : ScrubClass) (s : State) (t' : State) (hcan : s.canon) (h : execScrubPeriodExpiry k s = .next t') :
    t'.canon := by
  unfold execScrubPeriodExpiry at h
  generalize s.mem.scrub k = x at h
  obtain ⟨pos, ovr, period⟩ := x
  injection h with h
  rw [← h]
  (repeat' split) <;> first | exact hcan | exact State.canon_setScrub _ _ _ _ hcan

theorem execFillComplete_canon (s : State) (t' : State) (hcan : s.canon) (h : execFillComplete s = .next t') : t'.canon := by
  cases h
  split
  · exact hcan
  · dsimp only
    split
    · rename_i hx
      have := State.canon_of_eq hx (State.loadMicrocode_canon _ ⟨hcan.1, hcan.2.1, rfl⟩)
      exact State.startupFailed_canon _ this
    · rename_i hx
      have := State.canon_of_eq hx (State.loadMicrocode_canon _ ⟨hcan.1, hcan.2.1, rfl⟩)
      have := State.draw_canon _ 11 this
      refine State.oneCycle_canon _ _ ?_
      repeat' (first
        | with_reducible (first
          | assumption | apply State.setState_canon | apply State.freeMail_canon | apply State.clearLevels_canon
          | apply State.modPower_canon | apply State.record_canon)
        | split)

theorem execLinkFrame_canon (p : Fin 16) (seq : BitVec 12) (check : FrameCheck) (s : State) (t' : State) (hcan : s.canon) (h : execLinkFrame p seq
    check s = .next t') : t'.canon := by
  cases h
  repeat' (first | with_reducible (first | assumption | apply State.send_canon | apply State.modPort_canon) | split)

theorem execLinkNak_canon (p : Fin 16) (seq : BitVec 12) (s : State) (t' : State) (hcan : s.canon) (h : execLinkNak p seq s = .next t') :
    t'.canon := by
  cases h
  repeat' (first
    | with_reducible (first
      | assumption | apply State.modPort_canon | apply State.setLink_canon | apply State.resendFrames_canon)
    | split)

theorem execLinkTrainingComplete_canon (p : Fin 16) (s : State) (t' : State) (hcan : s.canon) (h : execLinkTrainingComplete p s = .next t') :
    t'.canon := by
  cases h
  repeat' (first
    | with_reducible (first
      | assumption | apply State.setLink_canon | apply State.resendFrames_canon | apply State.transmit_canon)
    | split)

theorem execRetrainBudgetExpiry_canon (p : Fin 16) (s : State) (t' : State) (hcan : s.canon) (h : execRetrainBudgetExpiry p s = .next t') :
    t'.canon := by
  cases h
  repeat' (first | with_reducible (first | assumption | apply State.setLink_canon) | split)

theorem execWrite_canon (p : Fin 16) (pkt : ErgPacket) (s : State) (t' : State) (hcan : s.canon) (h : execWrite p pkt s = .next t') : t'.canon := by
  cases h
  repeat' (first | with_reducible (first | assumption | apply State.arrives_canon | apply State.consumes_canon | apply State.sequenceRequest_canon) | intro _)

theorem execRead_canon (p : Fin 16) (pkt : ErgPacket) (s : State) (t' : State) (hcan : s.canon) (h : execRead p pkt s = .next t') : t'.canon := by
  cases h
  repeat' (first | with_reducible (first | assumption | apply State.arrives_canon | apply State.consumes_canon | apply State.sequenceRequest_canon) | intro _)

theorem execReadData_canon (p : Fin 16) (pkt : ErgPacket) (s : State) (t' : State) (hcan : s.canon) (h : execReadData p pkt s = .next t') :
    t'.canon := by
  cases h
  repeat' (first
    | with_reducible (first
      | assumption | apply State.crossing_canon | refine State.canon_foldl _ _ (fun _ _ _ => ?_) _ ?_ | apply State.arrives_canon | apply State.consumes_canon | apply State.takePayload_canon | apply State.deliver_canon)
    | simp only [State.canon_update] | intro _ | split)

theorem execStatus_canon (p : Fin 16) (pkt : ErgPacket) (s : State) (t' : State) (hcan : s.canon) (h : execStatus p pkt s = .next t') : t'.canon := by
  cases h
  repeat' (first
    | with_reducible (first
      | assumption | apply State.park_canon | apply State.arrives_canon | apply State.consumes_canon | apply State.deliver_canon)
    | simp only [State.canon_update] | intro _ | split)

theorem execAck_canon (p : Fin 16) (pkt : ErgPacket) (s : State) (t' : State) (hcan : s.canon) (h : execAck p pkt s = .next t') : t'.canon := by
  cases h
  repeat' (first
    | with_reducible (first
      | assumption | apply State.arrives_canon | apply State.consumes_canon | apply State.ackStream_canon | apply State.deliver_canon
      | apply State.checkQuiet_canon)
    | intro _)

theorem execQuiet_canon (p : Fin 16) (pkt : ErgPacket) (s : State) (t' : State) (hcan : s.canon) (h : execQuiet p pkt s = .next t') : t'.canon := by
  cases h
  repeat' (first
    | with_reducible (first
      | assumption | apply State.arrives_canon | apply State.consumes_canon | apply State.checkQuiet_canon)
    | simp only [State.canon_update] | intro _ | split)

theorem execBounce_canon (p : Fin 16) (pkt : ErgPacket) (s : State) (t' : State) (hcan : s.canon) (h : execBounce p pkt s = .next t') : t'.canon := by
  cases h
  repeat' (first
    | with_reducible (first
      | assumption | apply State.respond_canon | apply State.arrives_canon | apply State.consumes_canon | apply State.applyRequest_canon
      | apply State.resend_canon | apply State.deliver_canon)
    | simp only [State.canon_update] | intro _ | split)

theorem execAckTimerExpiry_canon (src : BitVec 12) (sid : BitVec 16) (s : State) (t' : State) (hcan : s.canon) (h : execAckTimerExpiry src sid s
    = .next t') : t'.canon := by
  cases h
  repeat' (first | with_reducible (first | assumption | apply State.sendAck_canon) | split)

theorem execResendTimerExpiry_canon (dst : BitVec 12) (sid : BitVec 16) (seq : BitVec 32) (s : State) (t' : State) (hcan : s.canon) (h :
    execResendTimerExpiry dst sid seq s = .next t') : t'.canon := by
  cases h
  repeat' with_reducible (first | assumption | apply State.resend_canon | apply State.deliver_canon | apply State.checkQuiet_canon)

theorem execNrHoldExpiry_canon (i : Nat) (s : State) (t' : State) (hcan : s.canon) (h : execNrHoldExpiry i s = .next t') : t'.canon := by
  cases h
  repeat' (first
    | with_reducible (first
      | assumption | apply State.deliver_canon)
    | simp only [State.canon_update] | split)

theorem execQuietToExpiry_canon (s : State) (t' : State) (hcan : s.canon) (h : execQuietToExpiry s = .next t') : t'.canon := by
  cases h
  repeat' (first
    | with_reducible (first
      | assumption | apply State.endTimeout_canon)
    | simp only [State.canon_update] | split)

theorem execContribution_canon (s : State) (t' : State) (hcan : s.canon) (h : execContribution s = .next t') : t'.canon := by
  cases h
  repeat' (first
    | with_reducible (first
      | assumption | apply State.takeContribution_canon | apply State.contributed_canon | refine State.canon_of_eq (by assumption) ?_)
    | split)

theorem execInstanceAdmit_canon (i : InstId) (s : State) (t' : State) (hcan : s.canon) (h : execInstanceAdmit i s = .next t') : t'.canon := by
  cases h
  repeat' with_reducible (first | assumption | apply State.admitInst_canon)

theorem execUpData_canon (p : Fin 16) (pkt : ErgPacket) (s : State) (t' : State) (hcan : s.canon) (h : execUpData p pkt s = .next t') : t'.canon := by
  cases h
  repeat' with_reducible (first | assumption | apply State.collArrives_canon)

theorem execUpMeta_canon (p : Fin 16) (pkt : ErgPacket) (s : State) (t' : State) (hcan : s.canon) (h : execUpMeta p pkt s = .next t') : t'.canon := by
  cases h
  repeat' with_reducible (first | assumption | apply State.collArrives_canon)

theorem execNodeOutput_canon (r : NodeRun) (s : State) (t' : State) (hcan : s.canon) (h : execNodeOutput r s = .next t') : t'.canon := by
  cases h
  repeat' with_reducible (first | assumption | apply State.nodeOutput_canon)

theorem execDownData_canon (p : Fin 16) (pkt : ErgPacket) (s : State) (t' : State) (hcan : s.canon) (h : execDownData p pkt s = .next t') :
    t'.canon := by
  cases h
  repeat' with_reducible (first | assumption | apply State.collArrives_canon)

theorem execDownMeta_canon (p : Fin 16) (pkt : ErgPacket) (s : State) (t' : State) (hcan : s.canon) (h : execDownMeta p pkt s = .next t') :
    t'.canon := by
  cases h
  repeat' with_reducible (first | assumption | apply State.collArrives_canon)

theorem execBack_canon (p : Fin 16) (pkt : ErgPacket) (s : State) (t' : State) (hcan : s.canon) (h : execBack p pkt s = .next t') : t'.canon := by
  cases h
  repeat' with_reducible (first | assumption | apply State.collArrives_canon)

theorem execResendReq_canon (p : Fin 16) (pkt : ErgPacket) (s : State) (t' : State) (hcan : s.canon) (h : execResendReq p pkt s = .next t') :
    t'.canon := by
  cases h
  repeat' with_reducible (first | assumption | apply State.collArrives_canon)

theorem execRedo_canon (p : Fin 16) (pkt : ErgPacket) (s : State) (t' : State) (hcan : s.canon) (h : execRedo p pkt s = .next t') : t'.canon := by
  cases h
  repeat' with_reducible (first | assumption | apply State.collArrives_canon)

theorem execArriveData_canon (p : Fin 16) (pkt : ErgPacket) (s : State) (t' : State) (hcan : s.canon) (h : execArriveData p pkt s = .next t') :
    t'.canon := by
  cases h
  repeat' with_reducible (first | assumption | apply State.collArrives_canon)

theorem execArriveMeta_canon (p : Fin 16) (pkt : ErgPacket) (s : State) (t' : State) (hcan : s.canon) (h : execArriveMeta p pkt s = .next t') :
    t'.canon := by
  cases h
  repeat' with_reducible (first | assumption | apply State.collArrives_canon)

theorem execBucketTimeout_canon (i : InstId) (s : State) (t' : State) (hcan : s.canon) (h : execBucketTimeout i s = .next t') : t'.canon := by
  cases h
  repeat' with_reducible (first | assumption | apply State.bucketTimeout_canon)

theorem execHostWindowRead_canon (off len : Nat) (s : State) (t' : State) (hcan : s.canon) (h : execHostWindowRead off len s = .next t') :
    t'.canon := by
  cases h
  repeat' (first
    | with_reducible (first
      | assumption | apply State.send_canon | apply State.ownRefused_canon | apply State.unsupported_canon
      | apply State.hostWords_canon)
    | split)

theorem execHostWindowWrite_canon (off : Nat) (bytes : List Byte) (ep : Bool) (s : State) (t' : State) (hcan : s.canon) (h : execHostWindowWrite
    off bytes ep s = .next t') : t'.canon := by
  cases h
  repeat' (first
    | with_reducible (first
      | assumption | apply State.send_canon | apply State.ownRefused_canon | apply State.unsupported_canon
      | apply State.hostBytes_canon)
    | split)

theorem execCmdTailDoorbell_canon (q : Fin 8) (value : Reg) (s : State) (t' : State) (hcan : s.canon) (h : execCmdTailDoorbell q value s = .next
    t') : t'.canon := by
  cases h
  repeat' (first | with_reducible (first | assumption | apply State.modQueue_canon) | split)

theorem execCplHeadDoorbell_canon (q : Fin 8) (value : Reg) (s : State) (t' : State) (hcan : s.canon) (h : execCplHeadDoorbell q value s = .next
    t') : t'.canon := by
  cases h
  repeat' (first | with_reducible (first | assumption | apply State.modQueue_canon | apply State.releaseHeld_canon) | split)

theorem execCommandFetch_canon (q : Fin 8) (s : State) (t' : State) (hcan : s.canon) (h : execCommandFetch q s = .next t') : t'.canon := by
  cases h
  repeat' (first
    | with_reducible (first
      | assumption | apply State.draw_canon | apply State.readWord_canon | apply State.modQueue_canon | apply State.fetchedStep_canon
      | apply State.takePacket_canon)
    | split | dsimp only)

theorem execCommandTimeout_canon (src : CmdSrc) (i : Nat) (s : State) (t' : State) (hcan : s.canon) (h : execCommandTimeout src i s = .next t') :
    t'.canon := by
  cases h
  repeat' (first
    | with_reducible (first
      | assumption | apply State.replyTo_canon | apply State.timeOut_canon)
    | simp only [State.canon_update] | split)

theorem execQueueEnable_canon (q : Fin 8) (value : Reg) (s : State) (t' : State) (hcan : s.canon) (h : execQueueEnable q value s = .next t') :
    t'.canon := by
  cases h
  repeat' (first | with_reducible (first | assumption | apply State.writeQctrl_canon) | split)

theorem execQueueDisable_canon (q : Fin 8) (value : Reg) (s : State) (t' : State) (hcan : s.canon) (h : execQueueDisable q value s = .next t') :
    t'.canon := by
  cases h
  repeat' (first | with_reducible (first | assumption | apply State.writeQctrl_canon) | split)

theorem execNopEcho_canon (src : CmdSrc) (s : State) (t' : State) (hcan : s.canon) (h : execNopEcho src s = .next t') : t'.canon := by
  cases h
  repeat' (first | with_reducible (first | assumption | apply State.endCmd_canon | apply State.startCmd_canon) | intro _)

theorem execModuleInfo_canon (src : CmdSrc) (s : State) (t' : State) (hcan : s.canon) (h : execModuleInfo src s = .next t') : t'.canon := by
  cases h
  repeat' (first
    | with_reducible (first
      | assumption | apply State.dma_canon | apply State.send_canon | apply State.modMail_canon | apply State.endCmd_canon | apply State.startCmd_canon)
    | intro _ | split)

theorem execMemCopy_canon (src : CmdSrc) (s : State) (t' : State) (hcan : s.canon) (h : execMemCopy src s = .next t') : t'.canon := by
  cases h
  repeat' (first | with_reducible (first | assumption | apply State.startCmd_canon | apply State.copyGo_canon) | intro _)

theorem execMemFill_canon (src : CmdSrc) (s : State) (t' : State) (hcan : s.canon) (h : execMemFill src s = .next t') : t'.canon := by
  cases h
  repeat' (first | with_reducible (first | assumption | apply State.startCmd_canon | apply State.fillGo_canon) | intro _)

theorem execPageMap_canon (src : CmdSrc) (s : State) (t' : State) (hcan : s.canon) (h : execPageMap src s = .next t') : t'.canon := by
  cases h
  repeat' (first
    | with_reducible (first
      | assumption | apply State.endCmd_canon | apply State.startCmd_canon | apply State.modPages_canon)
    | intro _)

theorem execPageUnmap_canon (src : CmdSrc) (s : State) (t' : State) (hcan : s.canon) (h : execPageUnmap src s = .next t') : t'.canon := by
  cases h
  repeat' (first
    | with_reducible (first
      | assumption | apply State.endCmd_canon | apply State.startCmd_canon | apply State.modPages_canon)
    | intro _)

theorem execPageResident_canon (src : CmdSrc) (s : State) (t' : State) (hcan : s.canon) (h : execPageResident src s = .next t') : t'.canon := by
  cases h
  repeat' (first
    | with_reducible (first
      | assumption | apply State.endCmd_canon | apply State.startCmd_canon | apply State.modPages_canon)
    | intro _)

theorem execWindowOwn_canon (src : CmdSrc) (s : State) (t' : State) (hcan : s.canon) (h : execWindowOwn src s = .next t') : t'.canon := by
  cases h
  repeat' (first
    | with_reducible (first
      | assumption | apply State.endCmd_canon | apply State.startCmd_canon)
    | simp only [State.canon_update] | intro _)

theorem execImemLoad_canon (src : CmdSrc) (s : State) (t' : State) (hcan : s.canon) (h : execImemLoad src s = .next t') : t'.canon := by
  cases h
  repeat' (first
    | with_reducible (first
      | assumption | apply State.startCmd_canon | apply State.cmdRead_canon | apply State.modHalves_canon | apply State.imemGo_canon)
    | intro _)

theorem execLaunch_canon (src : CmdSrc) (s : State) (t' : State) (hcan : s.canon) (h : execLaunch src s = .next t') : t'.canon := by
  cases h
  repeat' (first
    | with_reducible (first
      | assumption | apply State.modStep_canon | apply State.startCmd_canon | apply State.setCore_canon | apply Core.modStream_canon
      | apply State.core_canon | apply State.keepEnd_canon | refine State.canon_foldl _ _ (fun _ _ _ => ?_) _ ?_)
    | simp only [State.canon_update] | intro _)

theorem execStreamResume_canon (src : CmdSrc) (s : State) (t' : State) (hcan : s.canon) (h : execStreamResume src s = .next t') : t'.canon := by
  cases h
  repeat' with_reducible (first | assumption | apply State.startCmd_canon | apply State.resumeGo_canon)

theorem execStreamResumeDiscardHead_canon (src : CmdSrc) (s : State) (t' : State) (hcan : s.canon) (h : execStreamResumeDiscardHead src s = .next
    t') : t'.canon := by
  cases h
  repeat' with_reducible (first | assumption | apply State.startCmd_canon | apply State.resumeGo_canon)

theorem execStreamResumeDiscardAll_canon (src : CmdSrc) (s : State) (t' : State) (hcan : s.canon) (h : execStreamResumeDiscardAll src s = .next
    t') : t'.canon := by
  cases h
  repeat' with_reducible (first | assumption | apply State.startCmd_canon | apply State.resumeGo_canon)

theorem execCoreHalt_canon (src : CmdSrc) (s : State) (t' : State) (hcan : s.canon) (h : execCoreHalt src s = .next t') : t'.canon := by
  cases h
  repeat' (first
    | with_reducible (first
      | assumption | apply State.endCmd_canon | apply State.startCmd_canon | apply State.haltStreams_canon)
    | intro _)

theorem execCollSetup_canon (src : CmdSrc) (s : State) (t' : State) (hcan : s.canon) (h : execCollSetup src s = .next t') : t'.canon := by
  cases h
  repeat' (first
    | with_reducible (first
      | assumption | apply State.endCmd_canon | apply State.startCmd_canon)
    | simp only [State.canon_update] | intro _)

theorem execExchange_canon (src : CmdSrc) (s : State) (t' : State) (hcan : s.canon) (h : execExchange src s = .next t') : t'.canon := by
  cases h
  repeat' (first | with_reducible (first | assumption | apply State.startCmd_canon | apply State.exchangeGo_canon) | intro _)

theorem execScaleSet_canon (src : CmdSrc) (s : State) (t' : State) (hcan : s.canon) (h : execScaleSet src s = .next t') : t'.canon := by
  cases h
  repeat' (first
    | with_reducible (first
      | assumption | apply State.xscaleWrite_canon | apply State.endCmd_canon | apply State.startCmd_canon
      | refine State.canon_foldl _ _ (fun _ _ _ => ?_) _ ?_)
    | intro _)

theorem execJobOpen_canon (src : CmdSrc) (s : State) (t' : State) (hcan : s.canon) (h : execJobOpen src s = .next t') : t'.canon := by
  cases h
  repeat' (first
    | with_reducible (first
      | assumption | apply State.endCmd_canon | apply State.startCmd_canon | apply State.engineWords_canon
      | apply State.judgeRanks_canon | apply State.jobOpenGo_canon | apply State.cmdRead_canon | apply State.keepCmd_canon | refine State.canon_of_eq (by assumption) ?_)
    | intro _ | split | dsimp only)

theorem execJobClose_canon (src : CmdSrc) (s : State) (t' : State) (hcan : s.canon) (h : execJobClose src s = .next t') : t'.canon := by
  cases h
  repeat' (first
    | with_reducible (first
      | assumption | apply State.startCmd_canon | apply State.waitQuiet_canon | apply State.closeWork_canon)
    | intro _)

theorem execTeardownToExpiry_canon (s : State) (t' : State) (hcan : s.canon) (h : execTeardownToExpiry s = .next t') : t'.canon := by
  cases h
  repeat' (first
    | with_reducible (first
      | assumption | apply State.closeScrub_canon)
    | simp only [State.canon_update] | split)

theorem execJobCloseScrubDone_canon (s : State) (t' : State) (hcan : s.canon) (h : execJobCloseScrubDone s = .next t') : t'.canon := by
  cases h
  repeat' (first
    | with_reducible (first
      | assumption | apply State.oneCycle_canon | apply State.record_canon | apply State.endCmd_canon | apply State.closeEnd_canon)
    | split)

theorem execModeSet_canon (src : CmdSrc) (s : State) (t' : State) (hcan : s.canon) (h : execModeSet src s = .next t') : t'.canon := by
  cases h
  repeat' (first
    | with_reducible (first
      | assumption | apply State.endCmd_canon | apply State.startCmd_canon)
    | simp only [State.canon_update] | intro _)

theorem execStepCloseRequest_canon (src : CmdSrc) (s : State) (t' : State) (hcan : s.canon) (h : execStepCloseRequest src s = .next t') :
    t'.canon := by
  cases h
  repeat' (first
    | with_reducible (first
      | assumption | apply State.modStep_canon | apply State.endCmd_canon | apply State.startCmd_canon)
    | simp only [State.canon_update] | intro _)

theorem execStepClose_canon (step : BitVec 32) (s : State) (t' : State) (hcan : s.canon) (h : execStepClose step s = .next t') : t'.canon := by
  cases h
  repeat' (first | with_reducible (first | assumption | apply State.closeStep_canon) | split)

theorem execStepCommit_canon (src : CmdSrc) (s : State) (t' : State) (hcan : s.canon) (h : execStepCommit src s = .next t') : t'.canon := by
  cases h
  repeat' (first
    | with_reducible (first
      | assumption | apply State.scaleCommit_canon | apply State.endCmd_canon | apply State.startCmd_canon
      | apply State.pendingCurrent_canon | apply State.setCommitted_canon)
    | simp only [State.canon_update] | intro _ | split)

theorem execStepAbort_canon (src : CmdSrc) (s : State) (t' : State) (hcan : s.canon) (h : execStepAbort src s = .next t') : t'.canon := by
  cases h
  repeat' (first
    | with_reducible (first
      | assumption | apply State.startCmd_canon | apply State.waitQuiet_canon | apply State.abortWork_canon)
    | intro _)

theorem execStepAbortFenceClear_canon (src : CmdSrc) (s : State) (t' : State) (hcan : s.canon) (h : execStepAbortFenceClear src s = .next t') :
    t'.canon := by
  cases h
  repeat' (first
    | with_reducible (first
      | assumption | apply State.endCmd_canon | apply State.startCmd_canon)
    | simp only [State.canon_update] | intro _)

theorem execCheckpoint_canon (src : CmdSrc) (s : State) (t' : State) (hcan : s.canon) (h : execCheckpoint src s = .next t') : t'.canon := by
  cases h
  repeat' (first | with_reducible (first | assumption | apply State.startCmd_canon | apply State.checkpointGo_canon) | intro _)

theorem execRestore_canon (src : CmdSrc) (s : State) (t' : State) (hcan : s.canon) (h : execRestore src s = .next t') : t'.canon := by
  cases h
  repeat' (first
    | with_reducible (first
      | assumption | apply State.startCmd_canon | apply State.cmdRead_canon | apply State.restoreGo_canon)
    | intro _)

theorem execRankRemap_canon (src : CmdSrc) (s : State) (t' : State) (hcan : s.canon) (h : execRankRemap src s = .next t') : t'.canon := by
  cases h
  repeat' (first
    | with_reducible (first
      | assumption | apply State.endCmd_canon | apply State.startCmd_canon)
    | simp only [State.canon_update] | intro _)

theorem execRouteSwap_canon (src : CmdSrc) (s : State) (t' : State) (hcan : s.canon) (h : execRouteSwap src s = .next t') : t'.canon := by
  cases h
  repeat' (first
    | with_reducible (first
      | assumption | apply State.startCmd_canon | apply State.waitQuiet_canon)
    | simp only [State.canon_update] | intro _)

theorem execDiagPatrol_canon (src : CmdSrc) (s : State) (t' : State) (hcan : s.canon) (h : execDiagPatrol src s = .next t') : t'.canon := by
  cases h
  repeat' (first
    | with_reducible (first
      | assumption | apply State.startCmd_canon)
    | simp only [State.canon_update] | intro _)

theorem execDiagPatrolEnd_canon (s : State) (t' : State) (hcan : s.canon) (h : execDiagPatrolEnd s = .next t') : t'.canon := by
  cases h
  repeat' (first
    | with_reducible (first
      | assumption | apply State.patrolRecords_canon | apply State.endCmd_canon | apply State.setCore_canon | apply Core.resetKept_canon
      | refine State.canon_foldl _ _ (fun _ _ _ => ?_) _ ?_)
    | simp only [State.canon_update] | split)

theorem execReplay_canon (src : CmdSrc) (s : State) (t' : State) (hcan : s.canon) (h : execReplay src s = .next t') : t'.canon := by
  cases h
  repeat' (first
    | with_reducible (first
      | assumption | apply State.startCmd_canon | apply State.cmdRead_canon | apply State.replayGo_canon)
    | intro _)

theorem execReplayDisarm_canon (src : CmdSrc) (s : State) (t' : State) (hcan : s.canon) (h : execReplayDisarm src s = .next t') : t'.canon := by
  cases h
  repeat' (first
    | with_reducible (first
      | assumption | apply State.endCmd_canon | apply State.startCmd_canon | apply State.disarm_canon)
    | intro _)

theorem execMarginSet_canon (src : CmdSrc) (s : State) (t' : State) (hcan : s.canon) (h : execMarginSet src s = .next t') : t'.canon := by
  cases h
  repeat' (first
    | with_reducible (first
      | assumption | apply State.startCmd_canon | apply State.keepCmd_canon | apply State.setClock_canon
      | apply State.marginEnd_canon)
    | simp only [State.canon_update] | intro _ | split)

theorem execMarginRailSettled_canon (die : Fin 4) (s : State) (t' : State) (hcan : s.canon) (h : execMarginRailSettled die s = .next t') :
    t'.canon := by
  cases h
  repeat' (first
    | with_reducible (first
      | assumption | apply State.marginEnd_canon)
    | simp only [State.canon_update] | split)

theorem execLinkPattern_canon (src : CmdSrc) (s : State) (t' : State) (hcan : s.canon) (h : execLinkPattern src s = .next t') : t'.canon := by
  cases h
  repeat' (first
    | with_reducible (first
      | assumption | apply State.startCmd_canon)
    | simp only [State.canon_update] | intro _ | split)

theorem execLinkPatternEnd_canon (bits : BitVec 64) (errors : BitVec 32) (lanes : BitVec 8) (s : State) (t' : State) (hcan : s.canon) (h :
    execLinkPatternEnd bits errors lanes s = .next t') : t'.canon := by
  cases h
  repeat' (first
    | with_reducible (first
      | assumption | apply State.endCmd_canon)
    | simp only [State.canon_update] | split)

theorem execComputeReset_canon (src : CmdSrc) (s : State) (t' : State) (hcan : s.canon) (h : execComputeReset src s = .next t') : t'.canon := by
  cases h
  repeat' (first
    | with_reducible (first
      | assumption | apply State.oneCycle_canon | apply State.setState_canon | apply State.endCmd_canon | apply State.startCmd_canon
      | apply State.haltAll_canon
      | apply State.endLaunches_canon | apply State.freeCoreMail_canon | apply State.qFlagsHeads_canon | apply State.setCore_canon | apply Core.resetKept_canon
      | refine State.canon_foldl _ _ (fun _ _ _ => ?_) _ ?_)
    | intro _)

theorem execDumpSample_canon (src : CmdSrc) (s : State) (t' : State) (hcan : s.canon) (h : execDumpSample src s = .next t') : t'.canon := by
  cases h
  repeat' (first
    | with_reducible (first
      | assumption | apply State.writeOut_canon | apply State.modCmd_canon | apply State.startCmd_canon | apply State.dumpWords_canon
      | refine State.canon_foldl _ _ (fun _ _ _ => ?_) _ ?_)
    | simp only [State.canon_update] | intro _ | split)

theorem execDumpAccessTimeout_canon (c : CoreId) (b : Fin 16) (j : Fin 128) (s : State) (t' : State) (hcan : s.canon) (h : execDumpAccessTimeout
    c b j s = .next t') : t'.canon := by
  cases h
  repeat' (first
    | with_reducible (first
      | assumption | apply State.writeOut_canon)
    | simp only [State.canon_update] | split)

theorem execAttest_canon (src : CmdSrc) (s : State) (t' : State) (hcan : s.canon) (h : execAttest src s = .next t') : t'.canon := by
  cases h
  repeat' (first
    | with_reducible (first
      | assumption | apply State.dma_canon | apply State.send_canon | apply State.endCmd_canon | apply State.startCmd_canon | apply State.sign_canon)
    | intro _)

theorem execFwUpdateStage_canon (src : CmdSrc) (s : State) (t' : State) (hcan : s.canon) (h : execFwUpdateStage src s = .next t') : t'.canon := by
  cases h
  repeat' (first
    | with_reducible (first
      | assumption | apply State.startCmd_canon | apply State.keepCmd_canon | apply State.cmdRead_canon | apply State.modNotar_canon
      | apply State.stageGo_canon)
    | intro _)

theorem execFwUpdateChunk_canon (src : CmdSrc) (s : State) (t' : State) (hcan : s.canon) (h : execFwUpdateChunk src s = .next t') : t'.canon := by
  cases h
  repeat' (first
    | with_reducible (first
      | assumption | apply State.endCmd_canon | apply State.startCmd_canon | apply State.modNotar_canon)
    | intro _)

theorem execFwUpdateVerify_canon (src : CmdSrc) (s : State) (t' : State) (hcan : s.canon) (h : execFwUpdateVerify src s = .next t') : t'.canon := by
  cases h
  repeat' (first
    | with_reducible (first
      | assumption | apply State.endCmd_canon | apply State.startCmd_canon | apply State.verifySlot_canon)
    | intro _)

theorem State.startRecorded_canon (s : State) (src : CmdSrc) (op : Nat) (bankOf : State → Nat → Bool)
    (checks : State → Cmd → List (Bool × BitVec 16)) (body : State → Cmd → State) (hbody : ∀ s c, s.canon → (body s c).canon) (hcan : s.canon) :
    (State.startRecorded s src op bankOf checks body).canon := by
  refine State.startCmd_canon _ _ _ _ _ (fun x c h => ?_) hcan
  split
  · exact State.endCmd_canon _ _ _ _ _ (State.imageRecord_canon _ _ _ _ _ h)
  · exact hbody _ _ h

theorem execFwUpdateActivate_canon (src : CmdSrc) (s : State) (t' : State) (hcan : s.canon) (h : execFwUpdateActivate src s = .next t') :
    t'.canon := by
  cases h
  repeat' (first
    | with_reducible (first
      | assumption | apply State.endCmd_canon | apply State.startRecorded_canon | apply State.modNotar_canon
      | apply State.imageRecord_canon | apply State.verifySlot_canon | apply State.restartFirmware_canon)
    | intro _ | split | dsimp only)

theorem execFwUpdateBurn_canon (src : CmdSrc) (s : State) (t' : State) (hcan : s.canon) (h : execFwUpdateBurn src s = .next t') : t'.canon := by
  cases h
  repeat' (first
    | with_reducible (first
      | assumption | apply State.endCmd_canon | apply State.startRecorded_canon | apply State.modNotar_canon
      | apply State.imageRecord_canon)
    | intro _)

theorem execCairnRead_canon (src : CmdSrc) (s : State) (t' : State) (hcan : s.canon) (h : execCairnRead src s = .next t') : t'.canon := by
  cases h
  repeat' (first
    | with_reducible (first
      | assumption | apply State.dma_canon | apply State.send_canon | apply State.endCmd_canon | apply State.startCmd_canon
      | refine State.canon_foldl _ _ (fun _ _ _ => ?_) _ ?_)
    | intro _)

theorem execCairnReadStatus_canon (src : CmdSrc) (s : State) (t' : State) (hcan : s.canon) (h : execCairnReadStatus src s = .next t') : t'.canon := by
  cases h
  repeat' (first | with_reducible (first | assumption | apply State.endCmd_canon | apply State.startCmd_canon) | intro _)

theorem execClaim_canon (m : Fin 16) (by_ : Agent) (s : State) (t' : State) (hcan : s.canon) (h : execClaim m by_ s = .next t') : t'.canon := by
  cases h
  repeat' (first | with_reducible (first | assumption | apply State.mailClaim_canon) | split)

theorem execGo_canon (m : Fin 16) (by_ : Agent) (s : State) (t' : State) (hcan : s.canon) (h : execGo m by_ s = .next t') : t'.canon := by
  cases h
  repeat' (first | with_reducible (first | assumption | apply State.mailGo_canon) | split)

theorem execRelease_canon (m : Fin 16) (by_ : Releaser) (s : State) (t' : State) (hcan : s.canon) (h : execRelease m by_ s = .next t') : t'.canon := by
  cases h
  repeat' (first | with_reducible (first | assumption | apply State.mailRelease_canon) | split)

theorem execCode_canon (m : Fin 16) (by_ : Agent) (value : BitVec 16) (s : State) (t' : State) (hcan : s.canon) (h : execCode m by_ value s =
    .next t') : t'.canon := by
  cases h
  repeat' (first | with_reducible (first | assumption | apply State.mailCode_canon) | split)

theorem execMailboxDelivery_canon (m : Fin 16) (s : State) (t' : State) (hcan : s.canon) (h : execMailboxDelivery m s = .next t') : t'.canon := by
  cases h
  repeat' (first
    | with_reducible (first
      | assumption | apply State.modMail_canon | apply State.replyTo_canon | apply State.takePacket_canon)
    | split | dsimp only)

theorem execTokenSet_canon (c : CoreId) (value : Reg) (s : State) (t' : State) (hcan : s.canon) (h : execTokenSet c value s = .next t') :
    t'.canon := by
  cases h
  repeat' (first | with_reducible (first | assumption | apply State.coreWindow_canon | apply Core.writeToken_canon) | intro _ | split)

theorem execQstepWrite_canon (q : Fin 8) (value : Reg) (s : State) (t' : State) (hcan : s.canon) (h : execQstepWrite q value s = .next t') :
    t'.canon := by
  cases h
  repeat' (first | with_reducible (first | assumption | apply State.writeQstep_canon) | split)

theorem execResetKey_canon (value : Reg) (s : State) (t' : State) (hcan : s.canon) (h : execResetKey value s = .next t') : t'.canon := by
  cases h
  repeat' (first | with_reducible (first | assumption | apply State.hostResetKey_canon) | split)

theorem execRmcResetKey_canon (value : Byte) (s : State) (t' : State) (hcan : s.canon) (h : execRmcResetKey value s = .next t') : t'.canon := by
  cases h
  repeat' (first | with_reducible (first | assumption | apply State.rmcResetKey_canon) | split)

theorem execLock_canon (value : Reg) (s : State) (t' : State) (hcan : s.canon) (h : execLock value s = .next t') : t'.canon := by
  cases h
  repeat' (first | with_reducible (first | assumption | apply State.writeCoord_canon) | split)

theorem execMainOn_canon (milliVolts : Nat) (refPpm : Option Nat) (s : State) (t' : State) (hcan : s.canon) (h : execMainOn milliVolts refPpm s =
    .next t') : t'.canon := by
  cases h
  repeat' (first | with_reducible (first | assumption | apply State.mainOnWrite_canon) | split)

theorem execOrderlyPowerOff_canon (s : State) (t' : State) (hcan : s.canon) (h : execOrderlyPowerOff s = .next t') : t'.canon := by
  cases h
  repeat' (first | with_reducible (first | assumption | apply State.mainOffWrite_canon) | split)

theorem execMainPowerOffComplete_canon (s : State) (t' : State) (hcan : s.canon) (h : execMainPowerOffComplete s = .next t') : t'.canon := by
  cases h
  repeat' (first
    | with_reducible (first
      | assumption | apply State.setState_canon | apply State.record_canon | apply State.modNotar_canon | apply State.modPower_canon
      | apply State.setPwrGood_canon)
    | split)

theorem execPortEn_canon (value : BitVec 16) (s : State) (t' : State) (hcan : s.canon) (h : execPortEn value s = .next t') : t'.canon := by
  cases h
  repeat' (first | with_reducible (first | assumption | apply State.writePortEn_canon) | split)

theorem execRetrain_canon (p : Fin 16) (s : State) (t' : State) (hcan : s.canon) (h : execRetrain p s = .next t') : t'.canon := by
  cases h
  repeat' (first | with_reducible (first | assumption | apply State.retrain_canon) | split)

theorem execForceDown_canon (p : Fin 16) (hold : Bool) (s : State) (t' : State) (hcan : s.canon) (h : execForceDown p hold s = .next t') :
    t'.canon := by
  cases h
  repeat' (first | with_reducible (first | assumption | apply State.forceDown_canon) | split)

theorem execErgCntClr_canon (s : State) (t' : State) (hcan : s.canon) (h : execErgCntClr s = .next t') : t'.canon := by
  cases h
  repeat' (first | with_reducible (first | assumption | apply State.clearErgCounts_canon) | split)

theorem execCollCntClr_canon (s : State) (t' : State) (hcan : s.canon) (h : execCollCntClr s = .next t') : t'.canon := by
  cases h
  repeat' (first | with_reducible (first | assumption | apply State.clearCollCounts_canon) | split)

theorem execHcCntClr_canon (s : State) (t' : State) (hcan : s.canon) (h : execHcCntClr s = .next t') : t'.canon := by
  cases h
  repeat' (first | with_reducible (first | assumption | apply State.clearHcCounts_canon) | split)

theorem execCodeClrCounts_canon (src : Fin 20) (s : State) (t' : State) (hcan : s.canon) (h : execCodeClrCounts src s = .next t') : t'.canon := by
  cases h
  repeat' (first | with_reducible (first | assumption | apply State.clearSource_canon) | split)

theorem execSpClrCounts_canon (c : CoreId) (s : State) (t' : State) (hcan : s.canon) (h : execSpClrCounts c s = .next t') : t'.canon := by
  cases h
  repeat' (first | with_reducible (first | assumption | apply State.coreWindow_canon | apply Core.writeReg_canon) | intro _ | split)

theorem execPeakClr_canon (s : State) (t' : State) (hcan : s.canon) (h : execPeakClr s = .next t') : t'.canon := by
  cases h
  repeat' (first | with_reducible (first | assumption | apply State.clearPeaks_canon) | split)

theorem execScrubCtrlWrite_canon (value : Reg) (s : State) (t' : State) (hcan : s.canon) (h : execScrubCtrlWrite value s = .next t') : t'.canon := by
  cases h
  repeat' (first | with_reducible (first | assumption | apply State.writeScrub_canon) | split)

theorem execBudgetLoRead_canon (c : CoreId) (b : Bool) (s : State) (t' : State) (hcan : s.canon) (h : execBudgetLoRead c b s = .next t') :
    t'.canon := by
  cases h
  repeat' (first
    | with_reducible (first
      | assumption | apply State.send_canon | apply State.unsupported_canon | apply State.setCore_canon | apply State.core_canon)
    | simp only [Core.canon_update] | split)

theorem execEnergyLoRead_canon (s : State) (t' : State) (hcan : s.canon) (h : execEnergyLoRead s = .next t') : t'.canon := by
  cases h
  repeat' (first | with_reducible (first | assumption | apply State.send_canon | apply State.modPower_canon) | split)

theorem execSelLoad_canon (side : Side) (high : Reg) (s : State) (t' : State) (hcan : s.canon) (h : execSelLoad side high s = .next t') :
    t'.canon := by
  cases h
  repeat' (first | with_reducible assumption | simp only [State.canon_update] | split)

theorem execTxGo_canon (len : Byte) (s : State) (t' : State) (hcan : s.canon) (h : execTxGo len s = .next t') : t'.canon := by
  cases h
  repeat' with_reducible (first | assumption | apply State.txGo_canon)

theorem execRxDone_canon (s : State) (t' : State) (hcan : s.canon) (h : execRxDone s = .next t') : t'.canon := by
  cases h
  repeat' with_reducible (first | assumption | apply State.rxDone_canon)

theorem execRegisterWrite_canon (bar : Bar) (off : Nat) (width : Nat) (value : BitVec 64) (s : State) (t' : State) (hcan : s.canon) (h :
    execRegisterWrite bar off width value s = .next t') : t'.canon := by
  cases h
  repeat' (first
    | with_reducible (first
      | apply State.send_canon
      | assumption | apply State.writeMsix_canon | apply State.writeConfig_canon | apply State.writeAgent_canon | apply State.unsupported_canon | apply State.writeBar0_canon | apply State.writeBar4_canon)
    | split)

theorem execI3cPrivateWrite_canon (x : I3cTransfer) (s : State) (t' : State) (hcan : s.canon) (h : execI3cPrivateWrite x s = .next t') :
    t'.canon := by
  cases h
  repeat' (first | with_reducible (first | assumption | apply State.i3cRead_canon | apply State.i3cWrite_canon | apply State.send_canon | apply State.modPower_canon | apply State.i3cBytes_canon) | split)

theorem execEntdaa_canon (addr : BitVec 7) (s : State) (t' : State) (hcan : s.canon) (h : execEntdaa addr s = .next t') : t'.canon := by
  cases h
  repeat' (first | with_reducible (first | assumption | apply State.send_canon | apply State.modPower_canon) | split)

theorem execRstdaa_canon (s : State) (t' : State) (hcan : s.canon) (h : execRstdaa s = .next t') : t'.canon := by
  cases h
  repeat' (first | with_reducible (first | assumption | apply State.modPower_canon) | split)

theorem execEnec_canon (mask : Byte) (s : State) (t' : State) (hcan : s.canon) (h : execEnec mask s = .next t') : t'.canon := by
  cases h
  repeat' (first | with_reducible (first | assumption | apply State.modPower_canon) | split)

theorem execDisec_canon (mask : Byte) (s : State) (t' : State) (hcan : s.canon) (h : execDisec mask s = .next t') : t'.canon := by
  cases h
  repeat' (first | with_reducible (first | assumption | apply State.modPower_canon) | split)

theorem execSetmwl_canon (value : BitVec 16) (s : State) (t' : State) (hcan : s.canon) (h : execSetmwl value s = .next t') : t'.canon := by
  cases h
  repeat' (first | with_reducible (first | assumption | apply State.modPower_canon) | split)

theorem execSetmrl_canon (value : BitVec 16) (s : State) (t' : State) (hcan : s.canon) (h : execSetmrl value s = .next t') : t'.canon := by
  cases h
  repeat' (first | with_reducible (first | assumption | apply State.modPower_canon) | split)

theorem execGetmwl_canon (s : State) (t' : State) (hcan : s.canon) (h : execGetmwl s = .next t') : t'.canon := State.i3cAnswer_canon _ _ _ hcan h

theorem execGetmrl_canon (s : State) (t' : State) (hcan : s.canon) (h : execGetmrl s = .next t') : t'.canon := by
  cases h
  repeat' (first
    | with_reducible (first
      | assumption | apply State.send_canon)
    | simp only [State.canon_update] | split)

theorem execGetpid_canon (s : State) (t' : State) (hcan : s.canon) (h : execGetpid s = .next t') : t'.canon := State.i3cAnswer_canon _ _ _ hcan h

theorem execGetbcr_canon (s : State) (t' : State) (hcan : s.canon) (h : execGetbcr s = .next t') : t'.canon := State.i3cAnswer_canon _ _ _ hcan h

theorem execGetdcr_canon (s : State) (t' : State) (hcan : s.canon) (h : execGetdcr s = .next t') : t'.canon := State.i3cAnswer_canon _ _ _ hcan h

theorem execGetstatus_canon (s : State) (t' : State) (hcan : s.canon) (h : execGetstatus s = .next t') : t'.canon := by
  cases h
  repeat' (first
    | with_reducible (first
      | assumption | apply State.send_canon)
    | simp only [State.canon_update] | split)

theorem execAuxPowerOn_canon (_straps : BitVec 6) (s : State) (t' : State) (hcan : s.canon) (h : execAuxPowerOn _straps s = .next t') : t'.canon := by
  cases h
  repeat' (first
    | with_reducible (first
      | assumption | apply State.modNotar_canon | apply State.modPower_canon | apply State.modPower_canon)
    | simp only [State.canon_update] | split)

theorem execOscStable_canon (straps : BitVec 6) (s : State) (t' : State) (hcan : s.canon) (h : execOscStable straps s = .next t') : t'.canon := by
  cases h
  repeat' (first
    | with_reducible (first
      | assumption | apply State.modNotar_canon | apply State.record_canon | apply State.loadFirmware_canon | apply State.modPower_canon)
    | split)

theorem execFirmwareReady_canon (s : State) (t' : State) (hcan : s.canon) (h : execFirmwareReady s = .next t') : t'.canon := by
  cases h
  repeat' (first | with_reducible (first | assumption | apply State.send_canon | apply State.modPower_canon) | split | dsimp only)

theorem execAuxLost_canon (s : State) (t' : State) (hcan : s.canon) (h : execAuxLost s = .next t') : t'.canon := by
  cases h
  repeat' (first
    | with_reducible (first
      | assumption | apply State.setPwrGood_canon | apply State.setThermTrip_canon | apply State.clearMain_canon
      | apply State.cairnLoss_canon)
    | simp only [State.canon_update] | split)

theorem execMainRailsGood_canon (s : State) (t' : State) (hcan : s.canon) (h : execMainRailsGood s = .next t') : t'.canon := by
  cases h
  repeat' (first
    | with_reducible (first
      | assumption | apply State.setState_canon | apply State.modPower_canon | apply State.setPwrGood_canon)
    | split)

theorem execMemoryTrainingDone_canon (s : State) (t' : State) (hcan : s.canon) (h : execMemoryTrainingDone s = .next t') : t'.canon := by
  cases h
  repeat' (first
    | with_reducible (first
      | assumption | apply State.modPower_canon)
    | simp only [State.canon_mem] | split)

theorem execStartupStepFailed_canon (_unit : Nat) (s : State) (t' : State) (hcan : s.canon) (h : execStartupStepFailed _unit s = .next t') :
    t'.canon := by
  cases h
  repeat' (first | with_reducible (first | assumption | apply State.startupFailed_canon) | split)

theorem execInputUndervoltage_canon (milliVolts : Nat) (s : State) (t' : State) (hcan : s.canon) (h : execInputUndervoltage milliVolts s = .next
    t') : t'.canon := by
  cases h
  repeat' (first | with_reducible (first | assumption | apply State.powerOff_canon) | split)

theorem execInputOvervoltage_canon (milliVolts : Nat) (s : State) (t' : State) (hcan : s.canon) (h : execInputOvervoltage milliVolts s = .next
    t') : t'.canon := by
  unfold execInputOvervoltage at h
  (repeat' split at h) <;> cases h
  all_goals repeat' (first | with_reducible (first | assumption | apply State.powerOff_canon))

theorem execOverCurrent_canon (milliAmps : Nat) (s : State) (t' : State) (hcan : s.canon) (h : execOverCurrent milliAmps s = .next t') : t'.canon
    := by
  cases h
  repeat' (first | with_reducible (first | assumption | apply State.powerOff_canon) | split)

theorem execRefclkLost_canon (s : State) (t' : State) (hcan : s.canon) (h : execRefclkLost s = .next t') : t'.canon := by
  cases h
  repeat' (first | with_reducible (first | assumption | apply State.modPower_canon | apply State.powerOff_canon) | split)

theorem execSensorRead_canon (r : Readings) (s : State) (t' : State) (hcan : s.canon) (h : execSensorRead r s = .next t') : t'.canon := by
  cases h
  repeat' (first
    | with_reducible (first
      | assumption | apply State.oneCycle_canon | apply State.clocksRun_canon | apply State.modPower_canon | apply State.setThermTrip_canon
      | apply State.pmSet_canon
      | apply State.powerOff_canon | apply State.thermalRecord_canon | apply State.readSource_canon
      | refine State.canon_foldl _ _ (fun _ _ _ => ?_) _ ?_)
    | split | dsimp only)

theorem execThrottleEvaluation_canon (s : State) (t' : State) (hcan : s.canon) (h : execThrottleEvaluation s = .next t') : t'.canon := by
  cases h
  repeat' (first | with_reducible (first | assumption | apply State.modPower_canon | apply State.setLevels_canon) | split)

theorem execPowerFastPath_canon (s : State) (t' : State) (hcan : s.canon) (h : execPowerFastPath s = .next t') : t'.canon := by
  cases h
  repeat' (first
    | with_reducible (first
      | assumption | apply State.modPower_canon | apply State.pmSet_canon | apply State.setLevels_canon)
    | split)

theorem State.brakeLow_canon (s : State) (hcan : s.canon) : (State.brakeLow s).canon := by
  unfold State.brakeLow
  repeat' (first
    | with_reducible (first
      | assumption | apply State.modPower_canon | apply State.pmSet_canon | apply State.setLevels_canon)
    | split | dsimp only)

theorem State.brakeHigh_canon (s : State) (hcan : s.canon) : (State.brakeHigh s).canon := hcan

theorem State.filtered_canon (s : State) (ns : Nat) (hcan : s.canon) : (State.filtered s ns).2.canon := by
  unfold State.filtered
  (repeat' split) <;> exact hcan

theorem execPwrBrakeAssert_canon (s : State) (t' : State) (hcan : s.canon) (h : execPwrBrakeAssert s = .next t') : t'.canon := by
  cases h
  exact State.brakeLow_canon _ hcan

theorem execPwrBrakeRelease_canon (s : State) (t' : State) (hcan : s.canon) (h : execPwrBrakeRelease s = .next t') : t'.canon := by
  cases h
  exact State.brakeHigh_canon _ hcan

theorem execPerstNAssert_canon (x : Pulse) (s : State) (t' : State) (hcan : s.canon) (h : execPerstNAssert x s = .next t') : t'.canon := by
  have hf := State.filtered_canon s x.ns hcan
  unfold execPerstNAssert at h
  generalize s.filtered x.ns = y at h hf
  obtain ⟨taken, u⟩ := y
  cases h
  repeat' (first
    | with_reducible (first
      | assumption | apply State.brakeHigh_canon | apply State.brakeLow_canon | apply State.resetEndpoint_canon
      | apply State.modPower_canon)
    | split)

theorem execPerstNHoldExpiry_canon (s : State) (t' : State) (hcan : s.canon) (h : execPerstNHoldExpiry s = .next t') : t'.canon := by
  cases h
  repeat' (first | with_reducible (first | assumption | apply State.modPower_canon | apply State.moduleReset_canon) | split)

theorem execPerstNRelease_canon (s : State) (t' : State) (hcan : s.canon) (h : execPerstNRelease s = .next t') : t'.canon := by
  cases h
  repeat' (first | with_reducible (first | assumption | apply State.modPower_canon) | split)

theorem execDoeDiscovery_canon (index : Byte) (s : State) (t' : State) (hcan : s.canon) (h : execDoeDiscovery index s = .next t') : t'.canon := by
  cases h
  repeat' (first | with_reducible (first | assumption | apply State.send_canon) | split)

theorem execGetVersion_canon (r : SpdmAsk) (s : State) (t' : State) (hcan : s.canon) (h : execGetVersion r s = .next t') : t'.canon := by
  unfold execGetVersion at h
  refine State.spdmServe_canon _ _ _ _ _ (fun s hcan => ?_) hcan h
  repeat' (first | with_reducible (first | assumption | apply State.modConn_canon | apply State.spdmSend_canon) | split)

theorem execGetCapabilities_canon (t : Transport) (s : State) (t' : State) (hcan : s.canon) (h : execGetCapabilities t s = .next t') : t'.canon := by
  refine State.spdmServe_canon _ _ _ _ _ (fun s hcan => ?_) hcan h
  repeat' with_reducible (first | assumption | apply State.draw_canon | apply State.modConn_canon | apply State.spdmSend_canon)

theorem execNegotiateAlgorithms_canon (t : Transport) (req : List Byte) (s : State) (t' : State) (hcan : s.canon) (h : execNegotiateAlgorithms t
    req s = .next t') : t'.canon := by
  refine State.spdmServe_canon _ _ _ _ _ (fun s hcan => ?_) hcan h
  repeat' (first | with_reducible (first | assumption | apply State.modConn_canon | apply State.spdmSend_canon) | split)

theorem execGetDigests_canon (t : Transport) (s : State) (t' : State) (hcan : s.canon) (h : execGetDigests t s = .next t') : t'.canon := by
  refine State.spdmServe_canon _ _ _ _ _ (fun s hcan => ?_) hcan h
  repeat' with_reducible (first | assumption | apply State.spdmSend_canon)

theorem execGetCertificate_canon (t : Transport) (slot off len : Nat) (s : State) (t' : State) (hcan : s.canon) (h : execGetCertificate t slot
    off len s = .next t') : t'.canon := by
  refine State.spdmServe_canon _ _ _ _ _ (fun s hcan => ?_) hcan h
  repeat' (first | with_reducible (first | assumption | apply State.spdmSend_canon) | split | dsimp only)

theorem execChallenge_canon (t : Transport) (slot : Nat) (req : List Byte) (s : State) (t' : State) (hcan : s.canon) (h : execChallenge t slot
    req s = .next t') : t'.canon := by
  refine State.spdmServe_canon _ _ _ _ _ (fun s hcan => ?_) hcan h
  repeat' (first
    | with_reducible (first
      | assumption | apply State.spdmSend_canon | apply State.spdmMaybeLater_canon | apply State.signed_canon)
    | split)

theorem execGetMeasurements_canon (t : Transport) (index : Nat) (req : List Byte) (s : State) (t' : State) (hcan : s.canon) (h :
    execGetMeasurements t index req s = .next t') : t'.canon := by
  refine State.spdmServe_canon _ _ _ _ _ (fun s hcan => ?_) hcan h
  repeat' (first
    | with_reducible (first
      | assumption | apply State.spdmSend_canon | apply State.spdmMaybeLater_canon | apply State.signed_canon)
    | split | dsimp only)

theorem execKeyExchange_canon (t : Transport) (slot : Nat) (req : List Byte) (s : State) (t' : State) (hcan : s.canon) (h : execKeyExchange t
    slot req s = .next t') : t'.canon := by
  refine State.spdmServe_canon _ _ _ _ _ (fun s hcan => ?_) hcan h
  repeat' (first
    | with_reducible (first
      | assumption | apply State.modConn_canon | apply State.spdmSend_canon | apply State.spdmMaybeLater_canon
      | apply State.signed_canon)
    | split)

theorem execFinish_canon (t : Transport) (req : List Byte) (s : State) (t' : State) (hcan : s.canon) (h : execFinish t req s = .next t') :
    t'.canon := by
  refine State.spdmServe_canon _ _ _ _ _ (fun s hcan => ?_) hcan h
  repeat' with_reducible (first | assumption | apply State.modConn_canon | apply State.spdmSend_canon)

theorem execHeartbeat_canon (t : Transport) (s : State) (t' : State) (hcan : s.canon) (h : execHeartbeat t s = .next t') : t'.canon := by
  cases h
  repeat' (first | with_reducible (first | assumption | apply State.spdmSend_canon) | split)

theorem execKeyUpdate_canon (t : Transport) (op : Byte) (s : State) (t' : State) (hcan : s.canon) (h : execKeyUpdate t op s = .next t') :
    t'.canon := by
  cases h
  repeat' (first | with_reducible (first | assumption | apply State.modConn_canon | apply State.spdmSend_canon) | split)

theorem execEndSession_canon (t : Transport) (s : State) (t' : State) (hcan : s.canon) (h : execEndSession t s = .next t') : t'.canon := by
  cases h
  repeat' (first | with_reducible (first | assumption | apply State.modConn_canon | apply State.spdmSend_canon) | split)

theorem execRespondIfReady_canon (t : Transport) (token : Byte) (s : State) (t' : State) (hcan : s.canon) (h : execRespondIfReady t token s =
    .next t') : t'.canon := by
  cases h
  repeat' (first | with_reducible (first | assumption | apply State.modConn_canon | apply State.spdmSend_canon) | split)

theorem execSetEndpointId_canon (eid : Byte) (s : State) (t' : State) (hcan : s.canon) (h : execSetEndpointId eid s = .next t') : t'.canon := by
  cases h
  repeat' (first
    | with_reducible (first
      | assumption | apply State.mctpReply_canon)
    | simp only [State.canon_update] | split)

theorem execGetEndpointId_canon (s : State) (t' : State) (hcan : s.canon) (h : execGetEndpointId s = .next t') : t'.canon := by
  cases h
  repeat' (first | with_reducible (first | assumption | apply State.mctpReply_canon) | split)

theorem execGetMctpVersionSupport_canon (s : State) (t' : State) (hcan : s.canon) (h : execGetMctpVersionSupport s = .next t') : t'.canon := by
  cases h
  repeat' (first
    | with_reducible (first
      | assumption | apply State.mctpReply_canon)
    | simp only [State.canon_update] | split)

theorem execGetMessageTypeSupport_canon (s : State) (t' : State) (hcan : s.canon) (h : execGetMessageTypeSupport s = .next t') : t'.canon := by
  cases h
  repeat' (first | with_reducible (first | assumption | apply State.mctpReply_canon) | split)

theorem execCairnRecordWrite_canon (s : State) (t' : State) (hcan : s.canon) (h : execCairnRecordWrite s = .next t') : t'.canon := by
  cases h
  repeat' (first | with_reducible (first | assumption | apply State.takeEntry_canon) | split)

theorem execSealTimerExpiry_canon (s : State) (t' : State) (hcan : s.canon) (h : execSealTimerExpiry s = .next t') : t'.canon := by
  cases h
  repeat' (first | with_reducible (first | assumption | apply State.startSeal_canon) | split)

theorem execSealSigned_canon (s : State) (t' : State) (hcan : s.canon) (h : execSealSigned s = .next t') : t'.canon := by
  cases h
  repeat' (first
    | with_reducible (first
      | assumption | apply State.sign_canon)
    | simp only [State.canon_update] | split)

theorem execSuppressionSecondEnd_canon (s : State) (t' : State) (hcan : s.canon) (h : execSuppressionSecondEnd s = .next t') : t'.canon := by
  cases h
  repeat' (first
    | with_reducible (first
      | assumption | apply State.record_canon | apply State.passTime_canon)
    | simp only [State.canon_update] | split)

theorem execMatmulFeedEnd_canon (c : CoreId) (s : State) (t' : State) (hcan : s.canon) (h : execMatmulFeedEnd c s = .next t') : t'.canon := by
  cases h
  repeat' with_reducible (first | assumption | apply State.atCore_canon | apply Core.feedEnd_canon)

theorem execInternalFault_canon (status : BitVec 16) (unit : BitVec 16) (info : List Byte) (s : State) (t' : State) (hcan : s.canon) (h :
    execInternalFault status unit info s = .next t') : t'.canon := by
  cases h
  repeat' (first | with_reducible (first | assumption | apply State.setState_canon | apply State.record_canon) | split)

theorem execBadPkt_canon (p : Fin 16) (pkt : ErgPacket) (s : State) (t' : State) (hcan : s.canon) (h : execBadPkt p pkt s = .next t') : t'.canon := by
  cases h
  repeat' (first | with_reducible (first | assumption | apply State.returnCredits_canon | apply State.ergCount_canon) | split)

theorem execHdrUe_canon (p : Fin 16) (syndrome : BitVec 32) (s : State) (t' : State) (hcan : s.canon) (h : execHdrUe p syndrome s = .next t') :
    t'.canon := by
  cases h
  repeat' (first
    | with_reducible (first
      | assumption | apply State.ueRecord_canon | apply State.latchUe_canon | apply State.ergCount_canon)
    | split)

theorem execRailLeavesRegulation_canon (s : State) (t' : State) (hcan : s.canon) (h : execRailLeavesRegulation s = .next t') : t'.canon := by
  cases h
  repeat' (first | with_reducible (first | assumption | apply State.modPower_canon | apply State.setPwrGood_canon) | split)

theorem execEndpointReady_canon (s : State) (t' : State) (hcan : s.canon) (h : execEndpointReady s = .next t') : t'.canon := by
  cases h
  repeat' (first | with_reducible (first | assumption | apply State.modPower_canon) | split)

end Sys2Proof.Machine
end

