-- ==== Sys2Proof/Laws/Lasting.lean ====
section
/-! SUPPORT. What no command but a Cairn write changes: the waiting commands, the fuses, the record store. One view of the state, and
the lemmas that let every operation's frame be read off it. -/

namespace Sys2Proof.Machine

/-- An update of other fields leaves the view as it is. -/
@[simp] theorem lasting_update (s : State) (c : Sparse Core) (m : Mem) (e : Fabric) (co : Coll) (h : HostIf) (j : JobRegs) (si : Silent) (po : Power)
    (n : Notar) (o : List Out) (f : Nat) :
    State.lasting ⟨s.pending, s.ident, c, m, e, co, h, j, si, po, n,
      s.cairn, o, f, s.cycle⟩ = s.lasting := rfl

/-- So does one of the identity beside its fuses. -/
@[simp] theorem lasting_ident (s : State) (c : Sparse Core) (m : Mem) (e : Fabric) (co : Coll) (h : HostIf) (j : JobRegs) (si : Silent) (po : Power)
    (n : Notar) (o : List Out) (f : Nat)
    (i1 i2 : BitVec 6) (i3 : Byte) (i4 : Bool) (i5 : BitVec 12) (i6 : BitVec 4) (i7 : Byte) (i8 : Bool) :
    State.lasting ⟨s.pending, ⟨s.ident.enabled, s.ident.lpddrGib, s.ident.stepping, s.ident.serial, i1, i2, i3, i4, i5, i6, i7, i8⟩, c, m, e, co, h, j, si, po, n,
      s.cairn, o, f, s.cycle⟩ = s.lasting := rfl

/-- So does one of Cairn beside its store. -/
@[simp] theorem lasting_cairn (s : State) (c : Sparse Core) (m : Mem) (e : Fabric) (co : Coll) (h : HostIf) (j : JobRegs) (si : Silent) (po : Power)
    (n : Notar) (o : List Out) (f : Nat)
    (k1 : BitVec 64) (k2 : BitVec 16) (k3 : List CairnEntry) (k4 k5 : Sparse Nat) (k6 : Nat) (k7 : BitVec 64)
    (k8 : Option Sealing) (k9 : BitVec 32) (k10 : BitVec 64) (k11 k12 : CairnSel) :
    State.lasting ⟨s.pending, s.ident, c, m, e, co, h, j, si, po, n,
      ⟨s.cairn.slots, s.cairn.next, k1, k2, k3, k4, k5, k6, k7, k8, k9, k10, k11, k12⟩, o, f, s.cycle⟩ = s.lasting := rfl

/-- So does one of both. -/
@[simp] theorem lasting_both (s : State) (c : Sparse Core) (m : Mem) (e : Fabric) (co : Coll) (h : HostIf) (j : JobRegs) (si : Silent) (po : Power)
    (n : Notar) (o : List Out) (f : Nat)
    (i1 i2 : BitVec 6) (i3 : Byte) (i4 : Bool) (i5 : BitVec 12) (i6 : BitVec 4) (i7 : Byte) (i8 : Bool)
    (k1 : BitVec 64) (k2 : BitVec 16) (k3 : List CairnEntry) (k4 k5 : Sparse Nat) (k6 : Nat) (k7 : BitVec 64)
    (k8 : Option Sealing) (k9 : BitVec 32) (k10 : BitVec 64) (k11 k12 : CairnSel) :
    State.lasting ⟨s.pending, ⟨s.ident.enabled, s.ident.lpddrGib, s.ident.stepping, s.ident.serial, i1, i2, i3, i4, i5, i6, i7, i8⟩, c, m, e, co, h, j, si, po, n,
      ⟨s.cairn.slots, s.cairn.next, k1, k2, k3, k4, k5, k6, k7, k8, k9, k10, k11, k12⟩, o, f, s.cycle⟩ = s.lasting := rfl

@[simp] theorem lasting_ite (c : Prop) [Decidable c] (a b : State) :
    (if c then a else b).lasting = if c then a.lasting else b.lasting := apply_ite State.lasting c a b

@[simp] theorem lasting_foldl {α : Type} (g : State → α → State) (l : List α) (h : ∀ s x, (g s x).lasting = s.lasting) (s : State) :
    (l.foldl g s).lasting = s.lasting := by
  induction l generalizing s with
  | nil => rfl
  | cons x r ih => simp [List.foldl_cons, ih, h]

@[simp] theorem lasting_foldl_snd {α β : Type} (g : β × State → α → β × State) (l : List α)
    (h : ∀ s x, (g s x).2.lasting = s.2.lasting) (s : β × State) : (l.foldl g s).2.lasting = s.2.lasting := by
  induction l generalizing s with
  | nil => rfl
  | cons x r ih => simp [List.foldl_cons, ih, h]

theorem lasting_foldl3 {α β γ : Type} (g : β × γ × State → α → β × γ × State) (l : List α)
    (h : ∀ s x, (g s x).2.2.lasting = s.2.2.lasting) (s : β × γ × State) : (l.foldl g s).2.2.lasting = s.2.2.lasting := by
  induction l generalizing s with
  | nil => rfl
  | cons x r ih => simp [List.foldl_cons, ih, h]

/-- The view of a state that comes out of an operation with another result. -/
theorem lasting_of_eq {α : Type} {p : α × State} {a : α} {t : State} (h : p = (a, t)) : t.lasting = p.2.lasting := by rw [h]

theorem lasting_of_eq3 {α β : Type} {p : α × β × State} {a : α} {b : β} {t : State} (h : p = (a, b, t)) :
    t.lasting = p.2.2.lasting := by rw [h]

end Sys2Proof.Machine
end

