-- ==== Sys2Proof/Laws/LastingOps.lean ====
section
/-! SUPPORT. For each operation of the shared operations, Erg and the collectives: it leaves the waiting commands, the fuses and Cairn's record
    store as they are
(`State.lasting`, Laws/Lasting.lean). -/

namespace Sys2Proof.Machine

/-! Operations of Machine/Ops.lean. -/

@[simp] theorem State.send_lasting (s : State) (o : Out) : (State.send s o).lasting = s.lasting := rfl

@[simp] theorem State.mark_lasting (s : State) (f : CycleMarks → CycleMarks) : (State.mark s f).lasting = s.lasting := by
  simp [State.mark, State.lasting]

@[simp] theorem State.draw_lasting (s : State) (place : Nat) : (State.draw s place).2.lasting = s.lasting := rfl

@[simp] theorem State.dma_lasting (s : State) (addr : Nat) (bytes : List Byte) : (State.dma s addr bytes).lasting = s.lasting := by
  unfold State.dma
  split <;> rfl

@[simp] theorem State.oneCycle_lasting (t s : State) : (State.oneCycle t s).lasting = t.lasting := rfl

@[simp] theorem State.msix_lasting (s : State) (v : Nat) : (State.msix s v).lasting = s.lasting := by
  simp only [State.msix, State.send_lasting, lasting_update, lasting_ite, ite_self]

@[simp] theorem State.ibi_lasting (s : State) (b : Byte) : (State.ibi s b).lasting = s.lasting := by
  simp only [State.ibi, State.send_lasting, lasting_ite, ite_self]

@[simp] theorem State.setState_lasting (s : State) (v : BitVec 4) : (State.setState s v).lasting = s.lasting := by
  simp [State.setState]

@[simp] theorem State.record_lasting (s : State) (type : BitVec 16) (origin : Byte) (payload : List Byte) : (State.record s type origin
    payload).lasting = s.lasting := by
  simp only [State.record, lasting_cairn, lasting_ite, ite_self, State.mark_lasting]

@[simp] theorem State.setCore_lasting (s : State) (p : Nat) (c : Core) : (State.setCore s p c).lasting = s.lasting := rfl

@[simp] theorem State.ueRecord_lasting (s : State) (src : Nat) (patrol rmw : Bool) (lane : Byte) (addr : BitVec 64) (syn : BitVec 32) :
    (State.ueRecord s src patrol rmw lane addr syn).lasting = s.lasting := by
  simp only [State.ueRecord, State.msix_lasting, State.record_lasting]

@[simp] theorem State.coreUe_lasting (s : State) (p : Nat) (u : FoundUe) : (State.coreUe s p u).lasting = s.lasting := by
  simp [State.coreUe]

@[simp] theorem State.post_lasting (s : State) (core : Nat) (token : BitVec 5) (count : BitVec 8) : (State.post s core token count).lasting =
    s.lasting := by
  unfold State.post
  dsimp only
  repeat' split
  all_goals simp only [State.setCore_lasting]

@[simp] theorem State.tap_lasting (s : State) (t : Tap) : (State.tap s t).lasting = s.lasting := by
  simp only [State.tap, lasting_update, lasting_ite, ite_self]

@[simp] theorem State.onCore_lasting (s : State) (p : Nat) (f : CoreEnv → Core → Core) : (State.onCore s p f).lasting = s.lasting := by
  simp [State.onCore]

@[simp] theorem State.atCore_lasting (s : State) (p : Nat) (f : CoreEnv → Core → Core) : (State.atCore s p f).lasting = s.lasting := by
  simp only [State.atCore, State.onCore_lasting, lasting_ite, ite_self]

@[simp] theorem State.issue_lasting (s : State) (p : CoreId) (st : StreamId) (want : Insn → Bool) (body : CoreEnv → Core → StreamId → Decoded →
    Core) : (State.issue s p st want body).lasting = s.lasting := by
  simp only [State.issue, State.atCore_lasting]

@[simp] theorem State.modLog_lasting (s : State) (src : Nat) (f : SrcLog → SrcLog) : (State.modLog s src f).lasting = s.lasting := rfl

@[simp] theorem State.crossing_lasting (s : State) (a b : Site) (poison : Bool) : (State.crossing s a b poison).lasting = s.lasting := by
  unfold State.crossing
  split
  · exact (lasting_foldl _ _ (fun _ _ => State.modLog_lasting ..) _).trans rfl
  · rfl

@[simp] theorem State.latchUe_lasting (s : State) (src : Nat) (patrol rmw : Bool) (lane : Byte) (addr : BitVec 64) (syn : BitVec 32) :
    (State.latchUe s src patrol rmw lane addr syn).lasting = s.lasting := by
  unfold State.latchUe
  dsimp only
  split
  · exact State.mark_lasting ..
  · rfl

@[simp] theorem State.logWord_lasting (s : State) (src : Nat) (o : DecodeOutcome) (raw : CodeWord) (addr : BitVec 64) (lane : Byte) (patrol rmw :
    Bool) : (State.logWord s src o raw addr lane patrol rmw).lasting = s.lasting := by
  unfold State.logWord
  dsimp only
  repeat' split
  all_goals simp only [State.ueRecord_lasting, State.latchUe_lasting, State.modLog_lasting]

@[simp] theorem State.readDram_lasting (s : State) (region off : Nat) (patrol : Bool) : (State.readDram s region off patrol).2.lasting =
    s.lasting := by
  simp only [State.readDram, State.logWord_lasting, lasting_update]

@[simp] theorem State.writeDram_lasting (s : State) (region off : Nat) (data : Data) (mask : BitVec 32) (poison : Bool) : (State.writeDram s
    region off data mask poison).lasting = s.lasting := by
  unfold State.writeDram
  dsimp only
  repeat' split
  all_goals simp only [State.logWord_lasting, lasting_update]

@[simp] theorem State.readWord_lasting (s : State) (to_ : Site) (region off : Nat) : (State.readWord s to_ region off).2.lasting = s.lasting := by
  unfold State.readWord
  dsimp only
  repeat' split
  all_goals simp only [State.onCore_lasting, State.crossing_lasting, State.readDram_lasting]

@[simp] theorem State.writeWord_lasting (s : State) (from_ : Site) (region off : Nat) (data : Data) (mask : BitVec 32) (poison : Bool) :
    (State.writeWord s from_ region off data mask poison).lasting = s.lasting := by
  unfold State.writeWord
  dsimp only
  repeat' split
  all_goals simp only [State.onCore_lasting, State.crossing_lasting, State.writeDram_lasting]

@[simp] theorem State.ownRefused_lasting (s : State) (write modSide : Bool) (page : Nat) : (State.ownRefused s write modSide page).lasting =
    s.lasting := by
  simp only [State.ownRefused, State.msix_lasting, lasting_update]

@[simp] theorem State.modStep_lasting (s : State) (step : BitVec 32) (f : StepInfo → StepInfo) : (State.modStep s step f).lasting = s.lasting := rfl

/-! Operations of Machine/HostOps.lean. -/

@[simp] theorem State.modQueue_lasting (s : State) (q : Fin 8) (f : Queue → Queue) : (State.modQueue s q f).lasting = s.lasting := rfl

@[simp] theorem State.writeEntry_lasting (s : State) (q : Fin 8) (h : HeldEntry) : (State.writeEntry s q h).lasting = s.lasting := by
  simp only [State.writeEntry, State.dma_lasting, State.msix_lasting, State.modQueue_lasting, lasting_ite, ite_self]

@[simp] theorem State.postEntry_lasting (s : State) (q : Fin 8) (entry : BitVec 256) (irq : Bool) : (State.postEntry s q entry irq).lasting =
    s.lasting := by
  simp only [State.postEntry, State.modQueue_lasting, State.writeEntry_lasting, lasting_ite, ite_self]

@[simp] theorem State.releaseHeld_lasting (n : Nat) (s : State) (q : Fin 8) : (State.releaseHeld n s q).lasting = s.lasting := by
  induction n generalizing s with
  | zero => rfl
  | succ k ih =>
    unfold State.releaseHeld
    repeat' (first
      | with_reducible rfl | dsimp only | simp only [State.modQueue_lasting, State.writeEntry_lasting, ih] | split)

@[simp] theorem State.reportLaunch_lasting (s : State) (launch : Option Nat) (type : Nat) (status : BitVec 16) (detail : Nat) :
    (State.reportLaunch s launch type status detail).lasting = s.lasting := by
  unfold State.reportLaunch
  split
  · rfl
  · exact State.postEntry_lasting ..

@[simp] theorem State.modMail_lasting (s : State) (m : Fin 16) (f : Mailbox → Mailbox) : (State.modMail s m f).lasting = s.lasting := rfl

@[simp] theorem State.notice_lasting (s : State) (to_ : BitVec 12) : (State.notice s to_).lasting = s.lasting := by
  simp only [State.notice, State.msix_lasting, State.ibi_lasting, lasting_ite, ite_self]

@[simp] theorem State.ackMail_lasting (s : State) (m : Fin 16) (code : BitVec 16) : (State.ackMail s m code).lasting = s.lasting := by
  simp only [State.ackMail, State.modMail_lasting, State.notice_lasting]

/-! Operations of Machine/Erg.lean. -/

@[simp] theorem State.refuses_lasting (s : State) (region off n : Nat) (write : Bool) : (State.refuses s region off n write).2.lasting =
    s.lasting := by
  unfold State.refuses
  repeat' (first | with_reducible rfl | dsimp only | simp only [State.ownRefused_lasting] | split)

@[simp] theorem State.readWords_lasting (s : State) (to_ : Site) (region off n : Nat) : (State.readWords s to_ region off n).2.lasting =
    s.lasting := by
  induction n generalizing s off with
  | zero => rfl
  | succ k ih =>
    unfold State.readWords
    dsimp only
    rw [ih, State.readWord_lasting]

@[simp] theorem State.writeWords_lasting (s : State) (from_ : Site) (region off n i fbyte lbyte : Nat) (ws : List RWord) : (State.writeWords s
    from_ region off n i fbyte lbyte ws).lasting = s.lasting := by
  induction ws generalizing s off i with
  | nil => rfl
  | cons w r ih =>
    unfold State.writeWords
    rw [ih, State.writeWord_lasting]

@[simp] theorem State.serve_lasting (s : State) (site : Site) (opc : BitVec 6) (a : BitVec 64) (rlen fbyte lbyte : Nat) (payload : List RWord) :
    (State.serve s site opc a rlen fbyte lbyte payload).2.lasting = s.lasting := by
  unfold State.serve
  repeat' (first
    | with_reducible rfl | dsimp only
    | simp only [State.refuses_lasting, State.readWords_lasting, State.writeWords_lasting]
    | refine (lasting_of_eq (by assumption)).trans ?_ | split)

@[simp] theorem State.modPort_lasting (s : State) (p : Fin 16) (f : Port → Port) : (State.modPort s p f).lasting = s.lasting := rfl

@[simp] theorem State.ergCount_lasting (s : State) (i : Fin 8) : (State.ergCount s i).lasting = s.lasting := rfl

@[simp] theorem State.transmit_lasting (n : Nat) (s : State) (p : Fin 16) : (State.transmit n s p).lasting = s.lasting := by
  induction n generalizing s with
  | zero => rfl
  | succ k ih =>
    unfold State.transmit
    dsimp only
    repeat' split
    all_goals first | rfl | (rw [ih]; rfl)

@[simp] theorem State.sendFrame_lasting (s : State) (p : Fin 16) (pkt : ErgPacket) : (State.sendFrame s p pkt).lasting = s.lasting :=
  (State.transmit_lasting ..).trans rfl

@[simp] theorem State.creditsBack_lasting (s : State) : (State.creditsBack s).lasting = s.lasting := by
  unfold State.creditsBack
  refine lasting_foldl _ _ (fun x p => ?_) _
  dsimp only
  rw [State.transmit_lasting, State.modPort_lasting]

@[simp] theorem State.respond_lasting (s : State) (plane : Nat) (pkt : ErgPacket) : (State.respond s plane pkt).lasting = s.lasting := by
  unfold State.respond
  repeat' (first | with_reducible rfl | dsimp only | simp only [State.sendFrame_lasting] | split)

@[simp] theorem State.handOver_lasting (s : State) (pkt : ErgPacket) : (State.handOver s pkt).lasting = s.lasting := by
  unfold State.handOver
  repeat' (first | with_reducible rfl | dsimp only | simp only [State.sendFrame_lasting, State.ergCount_lasting] | split)

@[simp] theorem State.pump_lasting (n : Nat) (s : State) (dst : BitVec 12) (sid : BitVec 16) : (State.pump n s dst sid).lasting = s.lasting := by
  induction n generalizing s with
  | zero => rfl
  | succ k ih =>
    unfold State.pump
    repeat' (first
      | with_reducible rfl | dsimp only | simp only [lasting_update, State.handOver_lasting, ih] | split)

@[simp] theorem State.sendSeq_lasting (s : State) (sid : BitVec 16) (pkt : ErgPacket) (access : Option ErgAccess) (step : Option (BitVec 32)) :
    (State.sendSeq s sid pkt access step).lasting = s.lasting := by
  simp [State.sendSeq]

@[simp] theorem State.park_lasting (s : State) (a : ErgAccess) : (State.park s a).lasting = s.lasting := rfl

@[simp] theorem State.serveOwn_lasting (s : State) (site : Site) (a : ErgAccess) : (State.serveOwn s site a).2.lasting = s.lasting := by
  unfold State.serveOwn
  split
  · rfl
  · exact State.serve_lasting ..

@[simp] theorem State.loopback_lasting (s : State) (site : Site) (a : ErgAccess) : (State.loopback s site a).2.lasting = s.lasting := by
  unfold State.loopback
  dsimp only
  split
  · exact State.sendSeq_lasting ..
  · exact (State.serveOwn_lasting ..).trans rfl

@[simp] theorem State.crossOut_lasting (s : State) (site : Site) (ws : List CodeWord) : (State.crossOut s site ws).lasting = s.lasting :=
  lasting_foldl _ _ (fun _ _ => State.crossing_lasting ..) _

@[simp] theorem State.route_lasting (s : State) (site : Site) (a : ErgAccess) : (State.route s site a).2.lasting = s.lasting := by
  unfold State.route
  dsimp only
  (repeat' split) <;> simp only [State.park_lasting, State.serveOwn_lasting, State.loopback_lasting, State.sendSeq_lasting,
    State.crossOut_lasting]

@[simp] theorem State.request_lasting (s : State) (site : Site) (a : ErgAccess) : (State.request s site a).2.2.lasting = s.lasting := by
  unfold State.request
  repeat' (first
    | with_reducible rfl | dsimp only | simp only [lasting_update, State.route_lasting]
    | refine (lasting_of_eq (by assumption)).trans ?_ | split)

@[simp] theorem State.returnCredits_lasting (s : State) (p : Fin 16) (pkt : ErgPacket) : (State.returnCredits s p pkt).lasting = s.lasting := rfl

@[simp] theorem State.arrives_lasting (s : State) (p : Fin 16) (pkt : ErgPacket) (ops : List Nat) (f : State → State) (hf : ∀ s, (f s).lasting =
    s.lasting) : (State.arrives s p pkt ops f).lasting = s.lasting := by
  unfold State.arrives
  repeat' (first | with_reducible rfl | dsimp only | simp only [State.ergCount_lasting, State.returnCredits_lasting, hf] | split)

@[simp] theorem State.consumes_lasting (s : State) (p : Fin 16) (pkt : ErgPacket) (ops : List Nat) (f : State → State)
    (hf : ∀ s, (f s).lasting = s.lasting) : (State.consumes s p pkt ops f).lasting = s.lasting := by
  unfold State.consumes
  split
  · exact hf s
  · exact State.arrives_lasting _ _ _ _ _ fun s => (hf _).trans (State.returnCredits_lasting ..)

@[simp] theorem State.logUnplaced_lasting (s : State) (src : Nat) (o : DecodeOutcome) (w : CodeWord) (lane : Byte) :
    (State.logUnplaced s src o w lane).lasting = s.lasting := by
  unfold State.logUnplaced
  split
  · exact (State.logWord_lasting ..).trans rfl
  · exact State.logWord_lasting ..

@[simp] theorem State.logReceived_lasting (s : State) (plane : Nat) (o : DecodeOutcome) (w : CodeWord) (base : Option (BitVec 64)) (i : Nat) :
    (State.logReceived s plane o w base i).lasting = s.lasting := by
  unfold State.logReceived
  split
  · exact State.logWord_lasting ..
  · exact State.logUnplaced_lasting ..

@[simp] theorem State.takePayload_lasting (s : State) (plane : Nat) (pkt : ErgPacket) : (State.takePayload s plane pkt).2.lasting = s.lasting := by
  unfold State.takePayload
  exact (lasting_foldl_snd _ _ (fun _ _ => State.logReceived_lasting ..) _).trans rfl

@[simp] theorem State.sendAck_lasting (s : State) (src : BitVec 12) (sid : BitVec 16) (plane : Nat) : (State.sendAck s src sid plane).lasting =
    s.lasting := by
  simp only [State.sendAck, State.respond_lasting, lasting_update]

@[simp] theorem State.applyRequest_lasting (s : State) (plane : Nat) (pkt : ErgPacket) (payload : List RWord) : (State.applyRequest s plane pkt
    payload).lasting = s.lasting := by
  unfold State.applyRequest
  dsimp only
  split
  · simp
  · split
    all_goals (try rw [State.respond_lasting])
    all_goals (refine (lasting_of_eq (by assumption)).trans ?_; simp)

@[simp] theorem State.applyHeld_lasting (n : Nat) (s : State) (src : BitVec 12) : (State.applyHeld n s src).lasting = s.lasting := by
  induction n generalizing s with
  | zero => rfl
  | succ k ih =>
    unfold State.applyHeld
    dsimp only
    split
    · rfl
    · rw [ih]; simp

@[simp] theorem State.ackDue_lasting (s : State) (src : BitVec 12) (sid : BitVec 16) (plane : Nat) : (State.ackDue s src sid plane).lasting =
    s.lasting := by
  simp only [State.ackDue, State.sendAck_lasting, lasting_ite, ite_self]

@[simp] theorem State.sequenceRequest_lasting (s : State) (p : Fin 16) (pkt : ErgPacket) : (State.sequenceRequest s p pkt).lasting = s.lasting := by
  simp only [State.sequenceRequest, State.ergCount_lasting, State.takePayload_lasting, State.sendAck_lasting, State.applyRequest_lasting,
      State.applyHeld_lasting, State.ackDue_lasting, lasting_update, lasting_ite, ite_self]

@[simp] theorem State.sequenceColl_lasting (s : State) (p : Fin 16) (pkt : ErgPacket) (f : State → List RWord → State) (hf : ∀ s c, (f s
    c).lasting = s.lasting) : (State.sequenceColl s p pkt f).lasting = s.lasting := by
  simp only [State.sequenceColl, State.ergCount_lasting, State.returnCredits_lasting, State.takePayload_lasting, State.sendAck_lasting, hf, lasting_update, lasting_ite, ite_self]

@[simp] theorem State.ackStream_lasting (s : State) (dst : BitVec 12) (sid : BitVec 16) (x : BitVec 32) (sack : BitVec 64) : (State.ackStream s
    dst sid x sack).2.lasting = s.lasting := by
  unfold State.ackStream
  dsimp only
  rw [State.pump_lasting, lasting_foldl]
  · split <;> simp
  · intro s x; rfl

@[simp] theorem State.resend_lasting (s : State) (dst : BitVec 12) (sid : BitVec 16) (seq : BitVec 32) (byTimer : Bool) : (State.resend s dst sid
    seq byTimer).2.lasting = s.lasting := by
  unfold State.resend
  dsimp only
  repeat' split
  all_goals simp only [State.ergCount_lasting, State.handOver_lasting, State.pump_lasting, lasting_update]

@[simp] theorem State.sendProbes_lasting (s : State) : (State.sendProbes s).lasting = s.lasting := by
  simp [State.sendProbes]

@[simp] theorem State.retryParked_lasting (s : State) : (State.retryParked s).2.lasting = s.lasting := by
  unfold State.retryParked
  refine (lasting_foldl_snd _ _ (fun x a => ?_) _).trans rfl
  split
  · rename_i ans t h
    exact (show State.lasting _ = t.lasting from rfl).trans ((lasting_of_eq h).trans (by simp))
  · rename_i t h
    exact (lasting_of_eq h).trans (by simp)

@[simp] theorem State.setLink_lasting (s : State) (p : Fin 16) (l : LinkState) : (State.setLink s p l).lasting = s.lasting := by
  simp only [State.setLink, State.draw_lasting, State.msix_lasting, State.mark_lasting, State.modPort_lasting, lasting_ite, ite_self]

@[simp] theorem State.startLink_lasting (s : State) (p : Fin 16) : (State.startLink s p).lasting = s.lasting := by
  simp [State.startLink]

/-! Operations of Machine/CollData.lean. -/

/-! Operations of Machine/Coll.lean. -/

@[simp] theorem State.writeOut_lasting (s : State) (i : Issuer) (step : Option (BitVec 32)) (addr : BitVec 64) (ws : List CodeWord) :
    (State.writeOut s i step addr ws).2.2.lasting = s.lasting := by
  unfold State.writeOut
  repeat' (first
    | with_reducible rfl | dsimp only | simp only [State.request_lasting]
    | refine (lasting_of_eq3 (by assumption)).trans ?_ | refine (lasting_foldl3 _ _ (fun _ _ => ?_) _).trans ?_ | split)

@[simp] theorem State.collCount_lasting (s : State) (i : Fin 12) : (State.collCount s i).lasting = s.lasting := rfl

@[simp] theorem State.xscale_lasting (s : State) (idx : Nat) : (State.xscale s idx).2.lasting = s.lasting := by
  unfold State.xscale
  repeat' (first
    | with_reducible rfl | dsimp only | simp only [State.serve_lasting] | refine (lasting_of_eq (by assumption)).trans ?_
    | split)

@[simp] theorem State.xscaleWrite_lasting (s : State) (idx : Nat) (q : Int) (set full : Bool) : (State.xscaleWrite s idx q set full).lasting =
    s.lasting := by
  simp only [State.xscaleWrite, State.serve_lasting]

@[simp] theorem State.handleOk_lasting (s : State) (handle : BitVec 64) (n fmt : Nat) : (State.handleOk s handle n fmt).2.lasting = s.lasting := by
  unfold State.handleOk
  repeat' (first
    | with_reducible rfl | dsimp only | simp only [State.xscale_lasting] | refine (lasting_of_eq (by assumption)).trans ?_
    | refine (lasting_foldl_snd _ _ (fun _ _ => ?_) _).trans ?_ | split)

@[simp] theorem State.putInst_lasting (s : State) (i : Inst) : (State.putInst s i).lasting = s.lasting := rfl

@[simp] theorem State.sendColl_lasting (s : State) (id : InstId) (dst : BitVec 12) (opc : BitVec 6) (k csum : Nat) (payload : List CodeWord) :
    (State.sendColl s id dst opc k csum payload).lasting = s.lasting := by
  simp only [State.sendColl, State.sendSeq_lasting]

@[simp] theorem State.sendPackets_lasting (s : State) (i : Inst) (dst : BitVec 12) (way : Way) (pkts : List (List LWord))
    (meta_ : List CodeWord) (csum : Nat) : (State.sendPackets s i dst way pkts meta_ csum).lasting = s.lasting := by
  simp [State.sendPackets]

@[simp] theorem State.sendBucket_lasting (s : State) (e : CollEntry) (i : Inst) (leaf : Bool) (dst : BitVec 12) (way : Way) (b : Bucket) :
    (State.sendBucket s e i leaf dst way b).lasting = s.lasting := State.sendPackets_lasting ..

@[simp] theorem State.readBuffers_lasting (s : State) (ws : List CodeWord) : (State.readBuffers s ws).lasting = s.lasting :=
  lasting_foldl _ _ (fun _ _ => State.logUnplaced_lasting ..) _

@[simp] theorem State.sendKept_lasting (s : State) (e : CollEntry) (i : Inst) (dst : BitVec 12) (n : NodeInput) :
    (State.sendKept s e i dst n).lasting = s.lasting := by
  unfold State.sendKept
  exact (State.sendPackets_lasting ..).trans (State.readBuffers_lasting ..)

@[simp] theorem State.sendBack_lasting (s : State) (id : InstId) (to_ : List (BitVec 12)) : (State.sendBack s id to_).lasting = s.lasting := by
  simp [State.sendBack]

@[simp] theorem State.latchColl_lasting (s : State) (i : Inst) (b : Bucket) (src : BitVec 12) : (State.latchColl s i b src).lasting = s.lasting := by
  simp only [State.latchColl, lasting_update, lasting_ite, ite_self]

@[simp] theorem State.settleToken_lasting (s : State) (id : InstId) : (State.settleToken s id).lasting = s.lasting := by
  unfold State.settleToken
  dsimp only
  repeat' split
  all_goals simp only [State.post_lasting, State.putInst_lasting, lasting_update]

@[simp] theorem State.scaleNext_lasting (s : State) (e : CollEntry) (i : Inst) (b : Bucket) : (State.scaleNext s e i b).lasting = s.lasting := by
  unfold State.scaleNext
  dsimp only
  repeat' split
  all_goals simp only [State.xscaleWrite_lasting]

@[simp] theorem State.localWord_lasting (s : State) (addr : BitVec 64) : (State.localWord s addr).2.lasting = s.lasting := by
  unfold State.localWord
  repeat' (first
    | with_reducible rfl | dsimp only | simp only [State.serve_lasting] | refine (lasting_of_eq (by assumption)).trans ?_
    | split)

@[simp] theorem State.putLocal_lasting (s : State) (addr : BitVec 64) (x : Nat) : (State.putLocal s addr x).lasting = s.lasting := by
  simp only [State.putLocal, State.serve_lasting]

@[simp] theorem State.scaleRecord_lasting (s : State) (i : Nat) : (State.scaleRecord s i).2.lasting = s.lasting := by
  unfold State.scaleRecord
  repeat' (first
    | with_reducible rfl | dsimp only | simp only [State.localWord_lasting]
    | refine (lasting_of_eq (by assumption)).trans ?_ | split)

@[simp] theorem State.putScaleRecord_lasting (s : State) (i x : Nat) : (State.putScaleRecord s i x).lasting = s.lasting := by
  simp only [State.putScaleRecord, State.putLocal_lasting]

@[simp] theorem State.observe_lasting (s : State) (id : InstId) (elems : Sparse Int) : (State.observe s id elems).lasting = s.lasting := by
  unfold State.observe
  refine lasting_foldl _ _ (fun s i => ?_) _
  dsimp only
  split
  · rfl
  · split
    · rfl
    · split
      · rename_i h
        exact (lasting_of_eq h).trans (State.scaleRecord_lasting ..)
      · rename_i h
        refine Eq.trans ?_ ((lasting_of_eq h).trans (State.scaleRecord_lasting ..))
        split
        · rfl
        · split
          · exact (State.putScaleRecord_lasting ..).trans rfl
          · rfl

@[simp] theorem State.scaleCommit_lasting (s : State) (step : BitVec 32) : (State.scaleCommit s step).lasting = s.lasting := by
  unfold State.scaleCommit
  repeat' (first
    | with_reducible rfl | dsimp only | simp only [State.scaleRecord_lasting, State.putScaleRecord_lasting]
    | refine (lasting_of_eq (by assumption)).trans ?_ | refine (lasting_foldl _ _ (fun _ _ => ?_) _).trans ?_ | split)

@[simp] theorem State.finishInst_lasting (s : State) (e : CollEntry) (i : Inst) (b : Bucket) (deliver : Bool) (src : BitVec 12) :
    (State.finishInst s e i b deliver src).lasting = s.lasting := by
  unfold State.finishInst
  extract_lets b' s1 s2 s3 s4 s5 s6 s7 i' base ws step n npkt hdrAt
  have h7 : s7.lasting = s.lasting := by
    have h1 : s1.lasting = s.lasting := State.collCount_lasting ..
    have h2 : s2.lasting = s.lasting := by
      refine Eq.trans ?_ h1
      show State.lasting (if _ then _ else _) = _
      simp only [lasting_ite, State.collCount_lasting, ite_self]
    have h3 : s3.lasting = s.lasting := by
      refine Eq.trans ?_ h2
      show State.lasting (if _ then _ else _) = _
      simp only [lasting_ite, State.collCount_lasting, ite_self]
    have h4 : s4.lasting = s.lasting := (State.latchColl_lasting ..).trans h3
    have h5 : s5.lasting = s.lasting := (State.modStep_lasting ..).trans h4
    have h6 : s6.lasting = s.lasting := (State.scaleNext_lasting ..).trans h5
    refine Eq.trans ?_ h6
    show State.lasting (if _ then _ else _) = _
    simp only [lasting_ite, State.observe_lasting, ite_self]
  clear_value s7 hdrAt npkt ws base b'
  split
  · have g1 := (State.writeOut_lasting s7 (.result i'.id) step (adrAdd e.result (n * e.stride (s7.hallArrival e) : Nat)) ws).trans h7
    generalize s7.writeOut (.result i'.id) step (adrAdd e.result (n * e.stride (s7.hallArrival e) : Nat)) ws = x at g1 ⊢
    obtain ⟨t1, o1, t⟩ := x
    dsimp only at g1 ⊢
    generalize encodeWord (b'.header e.kind i'.attempt npkt i'.id.step) = hw
    have g2 := (State.writeOut_lasting t (.result i'.id) step hdrAt [hw]).trans g1
    generalize t.writeOut (.result i'.id) step hdrAt [hw] = y at g2 ⊢
    obtain ⟨t2, o2, u⟩ := y
    dsimp only at g2 ⊢
    generalize [if b'.bstat ≠ 0 then poisonWord else b'.signWord.code] = sw
    generalize adrAdd hdrAt 1048576 = at_
    have g3 : (if e.kind = 2 then u.writeOut (.result i'.id) step at_ sw else ([], none, u)).2.2.lasting = s.lasting := by
      split
      · exact (State.writeOut_lasting ..).trans g2
      · exact g2
    generalize (if e.kind = 2 then u.writeOut (.result i'.id) step at_ sw else ([], none, u)) = z at g3 ⊢
    obtain ⟨t3, o3, v⟩ := z
    dsimp only at g3 ⊢
    exact (State.settleToken_lasting ..).trans ((State.putInst_lasting ..).trans g3)
  · exact (State.settleToken_lasting ..).trans ((State.putInst_lasting ..).trans h7)

@[simp] theorem State.treeMeta_lasting (s : State) (e : CollEntry) (i : Inst) (t : Topo) (b : Bucket) : (State.treeMeta s e i t b).lasting =
    s.lasting := by
  simp [State.treeMeta]

@[simp] theorem State.startRedo_lasting (s : State) (e : CollEntry) (i : Inst) (t : Topo) (q : Int) : (State.startRedo s e i t q).lasting =
    s.lasting := by
  simp [State.startRedo]

@[simp] theorem State.rootDone_lasting (s : State) (e : CollEntry) (i : Inst) (t : Topo) (b : Bucket) : (State.rootDone s e i t b).lasting =
    s.lasting := by
  simp [State.rootDone]

@[simp] theorem State.noteArrived_lasting (s : State) (id : InstId) (src : BitVec 12) : (State.noteArrived s id src).lasting = s.lasting :=
  State.mark_lasting ..

@[simp] theorem State.putReady_lasting (s : State) (e : CollEntry) (i : Inst) : (State.putReady s e i).lasting = s.lasting := by
  unfold State.putReady
  dsimp only
  split
  · exact State.mark_lasting ..
  · rfl

@[simp] theorem State.nodeSum_lasting (s : State) (e : CollEntry) (i : Inst) (raw : List CodeWord) (ins : List (BitVec 12 × Bucket))
    (first again : Sparse Int) : (State.nodeSum s e i raw ins first again).2.2.lasting = s.lasting := by
  unfold State.nodeSum
  dsimp only
  split
  · simp only [State.collCount_lasting, State.readBuffers_lasting]
  · exact State.readBuffers_lasting ..

@[simp] theorem State.rackOutput_lasting (s : State) (e : CollEntry) (i : Inst) (t : Topo) (own : Contrib) (kids : List Bucket) (first again : Sparse Int) :
    (State.rackOutput s e i t own kids first again).lasting = s.lasting := by
  unfold State.rackOutput
  dsimp only
  repeat' split
  all_goals simp only [State.putInst_lasting, State.sendBucket_lasting, State.sendBack_lasting, State.startRedo_lasting, State.rootDone_lasting,
      State.nodeSum_lasting, State.noteArrived_lasting]

@[simp] theorem State.hallOutput_lasting (s : State) (e : CollEntry) (i : Inst) (t : Topo) (rack : NodeInput) (first again : Sparse Int) :
    (State.hallOutput s e i t rack first again).lasting = s.lasting := by
  unfold State.hallOutput
  dsimp only
  repeat' split
  all_goals simp only [State.putInst_lasting, State.sendBucket_lasting, State.sendBack_lasting, State.startRedo_lasting, State.rootDone_lasting,
      State.nodeSum_lasting, State.readBuffers_lasting]

@[simp] theorem State.nodeOutput_lasting (s : State) (id : InstId) (first again : Sparse Int) : (State.nodeOutput s id first again).lasting = s.lasting := by
  unfold State.nodeOutput
  dsimp only
  repeat' split
  all_goals simp only [State.rackOutput_lasting, State.hallOutput_lasting]

@[simp] theorem State.downDone_lasting (s : State) (e : CollEntry) (i : Inst) (t : Topo) (n : NodeInput) : (State.downDone s e i t n).lasting =
    s.lasting := by
  simp [State.downDone]

@[simp] theorem State.takeDown_lasting (s : State) (e : CollEntry) (i : Inst) (t : Topo) (h : ErgHdr) (ws : List RWord) : (State.takeDown s e i t
    h ws).lasting = s.lasting := by
  simp only [State.takeDown, State.putInst_lasting, State.downDone_lasting, lasting_ite, ite_self]

@[simp] theorem State.takeTreeMeta_lasting (s : State) (e : CollEntry) (i : Inst) (t : Topo) (src : BitVec 12) (ws : List RWord) :
    (State.takeTreeMeta s e i t src ws).lasting = s.lasting := by
  simp only [State.takeTreeMeta, State.putInst_lasting, State.finishInst_lasting, State.treeMeta_lasting, lasting_ite, ite_self]

@[simp] theorem State.instPacket_lasting (s : State) (e : CollEntry) (i : Inst) (h : ErgHdr) (ws : List RWord) : (State.instPacket s e i h
    ws).lasting = s.lasting := by
  unfold State.instPacket
  repeat' (first
    | with_reducible rfl | dsimp only
    | simp only [lasting_ite, ite_self, State.collCount_lasting, State.putInst_lasting, State.putReady_lasting, State.noteArrived_lasting, State.sendKept_lasting, State.startRedo_lasting, State.takeDown_lasting,
         State.takeTreeMeta_lasting]
    | split)

@[simp] theorem State.offer_lasting (s : State) (p : Fin 16) (pkt : ErgPacket) (ws : List RWord) : (State.offer s p pkt ws).lasting = s.lasting := by
  unfold State.offer
  dsimp only
  repeat' split
  all_goals simp only [State.collCount_lasting, State.instPacket_lasting, State.returnCredits_lasting, lasting_update]

@[simp] theorem State.offerWaiting_lasting (s : State) : (State.offerWaiting s).lasting = s.lasting := by
  simp [State.offerWaiting]

@[simp] theorem State.admitInst_lasting (s : State) (id : InstId) : (State.admitInst s id).lasting = s.lasting := by
  unfold State.admitInst
  dsimp only
  repeat' split
  all_goals simp only [State.xscale_lasting, State.putInst_lasting, State.offerWaiting_lasting, lasting_update]

@[simp] theorem State.takeContribution_lasting (s : State) : (State.takeContribution s).2.lasting = s.lasting := by
  unfold State.takeContribution
  repeat' (first
    | with_reducible rfl | dsimp only | simp only [lasting_update, State.handleOk_lasting, State.putReady_lasting]
    | refine (lasting_of_eq (by assumption)).trans ?_ | split)

@[simp] theorem State.bucketTimeout_lasting (s : State) (id : InstId) : (State.bucketTimeout s id).lasting = s.lasting := by
  unfold State.bucketTimeout
  dsimp only
  repeat' split
  all_goals simp only [State.finishInst_lasting]

@[simp] theorem State.discardWaiting_lasting (s : State) (step : BitVec 32) : (State.discardWaiting s step).lasting = s.lasting :=
  (lasting_foldl _ _ (fun _ _ => State.returnCredits_lasting ..) _).trans rfl

@[simp] theorem State.resultAnswered_lasting (s : State) (id : InstId) (tag : Nat) : (State.resultAnswered s id tag).lasting = s.lasting := by
  unfold State.resultAnswered
  repeat' (first
    | with_reducible rfl | dsimp only | simp only [State.putInst_lasting, State.settleToken_lasting] | split)

end Sys2Proof.Machine
end

