-- ==== Sys2Proof/Laws/LastingWork.lean ====
section
/-! SUPPORT. For each operation of Qanat, the host commands, jobs, silent-error checks, Cairn and Notar: it leaves the waiting commands, the
    fuses and Cairn's record store as they are
(`State.lasting`, Laws/Lasting.lean). -/

namespace Sys2Proof.Machine

/-! Operations of Machine/Qanat.lean. -/

@[simp] theorem State.descOk_lasting (s : State) (f : QF) (ctx : EvalCtx) : (State.descOk s f ctx).2.lasting = s.lasting := by
  unfold State.descOk
  dsimp only
  repeat' split
  all_goals simp only [State.handleOk_lasting]

@[simp] theorem State.modChan_lasting (s : State) (p : Nat) (ch : Fin 4) (f : Channel → Channel) : (State.modChan s p ch f).lasting = s.lasting := rfl

@[simp] theorem State.qAccess_lasting (s : State) (p : Nat) (ch : Fin 4) (row : Nat) (a : ErgAccess) : (State.qAccess s p ch row a).lasting =
    s.lasting := by
  unfold State.qAccess
  repeat' (first
    | with_reducible rfl | dsimp only | simp only [State.request_lasting, State.modChan_lasting]
    | refine (lasting_of_eq3 (by assumption)).trans ?_ | split)

@[simp] theorem State.qReads_lasting (s : State) (p : Nat) (ch : Fin 4) (row : Nat) (step : BitVec 32) (addr : BitVec 64) (n : Nat) :
    (State.qReads s p ch row step addr n).lasting = s.lasting := by
  induction n generalizing s with
  | zero => rfl
  | succ k ih =>
    unfold State.qReads
    repeat' (first
      | with_reducible rfl | dsimp only | simp only [State.qAccess_lasting]
      | refine (lasting_foldl _ _ (fun _ _ => ?_) _).trans ?_)

@[simp] theorem State.qFetch_lasting (n : Nat) (s : State) (p : Nat) (ch : Fin 4) (f : QF) (step : BitVec 32) (r : Nat) (seen : Option (BitVec
    64)) : (State.qFetch n s p ch f step r seen).lasting = s.lasting := by
  induction n generalizing s p ch f step r seen with
  | zero => rfl
  | succ k ih =>
    unfold State.qFetch
    repeat' (first | with_reducible rfl | dsimp only | simp only [State.qReads_lasting, ih] | split)

@[simp] theorem State.qWords_lasting (s : State) (p : Nat) (ch : Fin 4) (x : QSide) (a : BitVec 64) (n : Nat) : (State.qWords s p ch x a
    n).2.lasting = s.lasting := by
  induction n generalizing s with
  | zero => rfl
  | succ k ih =>
    unfold State.qWords
    repeat' (first
      | with_reducible rfl | dsimp only | simp only [State.onCore_lasting]
      | refine (lasting_foldl_snd _ _ (fun _ _ => ?_) _).trans ?_ | split)

@[simp] theorem State.qBytes_lasting (s : State) (p : Nat) (ch : Fin 4) (x : QSide) (a : BitVec 64) (n : Nat) : (State.qBytes s p ch x a
    n).2.lasting = s.lasting := by
  unfold State.qBytes
  dsimp only
  repeat' split
  all_goals simp only [State.qWords_lasting]

@[simp] theorem State.qRow_lasting (s : State) (p : Nat) (ch : Fin 4) (f : QF) (r : Nat) : (State.qRow s p ch f r).2.lasting = s.lasting := by
  simp only [State.qRow, State.qWords_lasting, State.qBytes_lasting]

@[simp] theorem State.qWrite_lasting (s : State) (p : Nat) (ch : Fin 4) (row : Nat) (step : BitVec 32) (x : QSide) (a : BitVec 64) (qs : List
    WriteReq) : (State.qWrite s p ch row step x a qs).lasting = s.lasting := by
  unfold State.qWrite
  repeat' (first
    | with_reducible rfl | dsimp only | simp only [State.onCore_lasting, State.modChan_lasting, State.qAccess_lasting]
    | refine (lasting_foldl _ _ (fun _ _ => ?_) _).trans ?_ | split)

@[simp] theorem State.qPut_lasting (s : State) (p : Nat) (ch : Fin 4) (f : QF) (step : BitVec 32) (r : Nat) (o : RowOut) : (State.qPut s p ch f
    step r o).lasting = s.lasting := by
  simp only [State.qPut, State.modChan_lasting, State.qWrite_lasting, lasting_ite, ite_self]

@[simp] theorem State.qMove_lasting (n : Nat) (s : State) (p : Nat) (ch : Fin 4) (f : QF) (d : QDesc) (r : Nat) (band : List RowIn) :
    (State.qMove n s p ch f d r band).lasting = s.lasting := by
  induction n generalizing s p ch f d r band with
  | zero => rfl
  | succ k ih =>
    unfold State.qMove
    repeat' (first
      | with_reducible rfl | dsimp only | simp only [State.qRow_lasting, State.qPut_lasting, ih]
      | refine (lasting_foldl_snd _ _ (fun _ _ => ?_) _).trans ?_ | split)

@[simp] theorem State.qExport_lasting (s : State) (p : Nat) (ch : Fin 4) (f : QF) (d : QDesc) (upto : Nat) :
    (State.qExport s p ch f d upto).lasting = s.lasting := by
  unfold State.qExport
  refine (lasting_foldl _ _ (fun x r => ?_) _).trans rfl
  dsimp only
  rw [State.modChan_lasting, State.crossOut_lasting, State.qRow_lasting]

@[simp] theorem State.qContribute_lasting (s : State) (p : Nat) (ch : Fin 4) (f : QF) (d : QDesc) (upto : Nat) : (State.qContribute s p ch f d
    upto).lasting = s.lasting := by
  unfold State.qContribute
  repeat' (first
    | with_reducible rfl | dsimp only
    | simp only [lasting_update, State.modChan_lasting, State.qBytes_lasting, State.qExport_lasting, State.crossOut_lasting]
    | refine (lasting_foldl3 _ _ (fun _ _ => ?_) _).trans ?_ | refine (lasting_foldl _ _ (fun _ _ => ?_) _).trans ?_
    | split)

@[simp] theorem State.qTap_lasting (s : State) (p : Nat) (ch : Fin 4) (d : QDesc) (upto : Nat) : (State.qTap s p ch d upto).lasting = s.lasting := by
  simp only [State.qTap, State.tap_lasting, State.modChan_lasting, lasting_ite, ite_self]

@[simp] theorem State.qFlags_lasting (s : State) (p : Nat) (d : QDesc) (fl : Byte) : (State.qFlags s p d fl).lasting = s.lasting := by
  unfold State.qFlags
  dsimp only
  split
  · rfl
  · rw [State.setCore_lasting, State.modStep_lasting]

@[simp] theorem State.qStop_lasting (s : State) (p : Nat) (ch : Fin 4) (f : QF) (d : QDesc) (row : Nat) (st : BitVec 16) (addr : BitVec 64) :
    (State.qStop s p ch f d row st addr).lasting = s.lasting := by
  unfold State.qStop
  dsimp only
  rw [State.reportLaunch_lasting]
  split <;> simp only [State.qFlags_lasting, State.modChan_lasting, State.setCore_lasting, State.qTap_lasting]

@[simp] theorem State.qGo_lasting (s : State) (p : Nat) (ch : Fin 4) (f : QF) (d : QDesc) (upto : Nat) :
    (State.qGo s p ch f d upto).lasting = s.lasting := by
  unfold State.qGo
  dsimp only
  split <;> simp only [State.qContribute_lasting, State.qMove_lasting, State.onCore_lasting, State.modChan_lasting]

@[simp] theorem State.qReadToken_lasting (s : State) (p : Nat) (ch : Fin 4) (d : QDesc) : (State.qReadToken s p ch d).lasting = s.lasting := by
  unfold State.qReadToken
  dsimp only
  split
  · exact State.post_lasting ..
  · rfl

@[simp] theorem State.qSettle_lasting (s : State) (p : Nat) (ch : Fin 4) : (State.qSettle s p ch).lasting = s.lasting := by
  unfold State.qSettle
  dsimp only
  repeat' split
  all_goals simp only [State.qGo_lasting, State.qReadToken_lasting, State.qStop_lasting]

@[simp] theorem State.qArrive_lasting (s : State) (p : Nat) (ch : Fin 4) : (State.qArrive s p ch).lasting = s.lasting := by
  unfold State.qArrive
  dsimp only
  repeat' split
  all_goals simp only [State.onCore_lasting]

@[simp] theorem State.qStart_lasting (s : State) (p : Nat) (ch : Fin 4) : (State.qStart s p ch).lasting = s.lasting := by
  unfold State.qStart
  dsimp only
  split
  · exact State.qArrive_lasting ..
  · split
    · exact State.qArrive_lasting ..
    · split
      · exact (State.qStop_lasting ..).trans (State.qArrive_lasting ..)
      · split
        · rename_i h
          exact (State.qStop_lasting ..).trans ((lasting_of_eq h).trans ((State.descOk_lasting ..).trans (State.qArrive_lasting ..)))
        · rename_i h
          refine Eq.trans ?_ ((lasting_of_eq h).trans ((State.descOk_lasting ..).trans (State.qArrive_lasting ..)))
          split
          · exact State.modChan_lasting ..
          · refine (State.qSettle_lasting ..).trans ?_
            split
            · split
              · refine (lasting_foldl _ _ (fun s i => State.qReads_lasting ..) _).trans ?_
                exact (State.qFetch_lasting ..).trans (State.modChan_lasting ..)
              · exact (State.qFetch_lasting ..).trans (State.modChan_lasting ..)
            · exact (State.qFetch_lasting ..).trans (State.modChan_lasting ..)

@[simp] theorem State.qReadDone_lasting (s : State) (p : Nat) (ch : Fin 4) : (State.qReadDone s p ch).lasting = s.lasting := by
  unfold State.qReadDone
  dsimp only
  repeat' split
  all_goals simp only [State.qGo_lasting, State.qSettle_lasting]

@[simp] theorem State.qRetire_lasting (s : State) (p : Nat) (ch : Fin 4) : (State.qRetire s p ch).lasting = s.lasting := by
  unfold State.qRetire
  dsimp only
  repeat' split
  all_goals simp only [State.post_lasting, State.qFlags_lasting, State.modChan_lasting, State.qTap_lasting]

@[simp] theorem State.qAnswered_lasting (s : State) (p : Nat) (ch : Fin 4) (a : ErgAccess) (ans : Answer) : (State.qAnswered s p ch a
    ans).lasting = s.lasting := by
  unfold State.qAnswered
  dsimp only
  repeat' split
  all_goals simp only [State.modChan_lasting, State.qSettle_lasting]

@[simp] theorem State.qFlagsHead_lasting (s : State) (p : Nat) (ch : Fin 4) : (State.qFlagsHead s p ch).lasting = s.lasting := by
  unfold State.qFlagsHead
  split
  · exact State.qFlags_lasting ..
  · rfl

@[simp] theorem State.qFlagsHeads_lasting (s : State) (p : Nat) (gone : QDesc → Bool) : (State.qFlagsHeads s p gone).lasting = s.lasting := by
  unfold State.qFlagsHeads
  refine lasting_foldl _ _ (fun s q => ?_) _
  split
  · exact State.qFlagsHead_lasting ..
  · rfl

@[simp] theorem State.qResume_lasting (s : State) (p : Nat) (ch : Fin 4) (mode : Nat) : (State.qResume s p ch mode).2.lasting = s.lasting := by
  unfold State.qResume
  dsimp only
  split
  · rfl
  · split
    · dsimp only
      rw [State.setCore_lasting]
      (repeat' split) <;> simp only [State.modChan_lasting, State.qFlagsHead_lasting]
    · rfl

/-! Operations of Machine/Commands.lean. -/

@[simp] theorem State.modCmd_lasting (s : State) (id : Nat) (f : Cmd → Cmd) : (State.modCmd s id f).lasting = s.lasting := rfl

@[simp] theorem State.settleQueues_lasting (s : State) : (State.settleQueues s).lasting = s.lasting := by
  unfold State.settleQueues
  refine (lasting_foldl _ _ (fun s q => ?_) _).trans rfl
  dsimp only
  split
  · exact State.modQueue_lasting ..
  · rfl

@[simp] theorem State.dropCmd_lasting (s : State) (id : Nat) : (State.dropCmd s id).lasting = s.lasting :=
  (State.settleQueues_lasting _).trans rfl

@[simp] theorem State.cmdOutcome_lasting (s : State) (c : Cmd) (status : BitVec 16) : (State.cmdOutcome s c status).lasting = s.lasting := by
  unfold State.cmdOutcome
  repeat' (first | with_reducible rfl | dsimp only | simp only [State.modStep_lasting] | split)

@[simp] theorem State.replyTo_lasting (s : State) (c : Cmd) (entry : BitVec 256) (status : BitVec 16) : (State.replyTo s c entry status).lasting
    = s.lasting := by
  unfold State.replyTo
  split
  · exact State.postEntry_lasting ..
  · split
    · exact State.modMail_lasting ..
    · exact (State.ackMail_lasting ..).trans (State.modMail_lasting ..)

@[simp] theorem State.endOne_lasting (s : State) (c : Cmd) (status : BitVec 16) (flags : Byte) (detail : Nat) : (State.endOne s c status flags
    detail).lasting = s.lasting := by
  simp only [State.endOne, State.draw_lasting, State.dropCmd_lasting, State.cmdOutcome_lasting, State.replyTo_lasting, lasting_update,
      lasting_ite, ite_self]

@[simp] theorem State.flushBad_lasting (n : Nat) (s : State) : (State.flushBad n s).lasting = s.lasting := by
  induction n generalizing s with
  | zero => rfl
  | succ k ih =>
    unfold State.flushBad
    repeat' (first | with_reducible rfl | dsimp only | simp only [State.endOne_lasting, ih] | split)

@[simp] theorem State.endCmd_lasting (s : State) (c : Cmd) (status : BitVec 16) (flags : Byte) (detail : Nat) : (State.endCmd s c status flags
    detail).lasting = s.lasting := by
  simp only [State.endCmd, State.endOne_lasting, State.flushBad_lasting]

@[simp] theorem State.startCmd_lasting (s : State) (src : CmdSrc) (want : Cmd → Bool) (checks : State → Cmd → List (Bool × BitVec 16)) (body :
    State → Cmd → State) (hbody : ∀ s c, (body s c).lasting = s.lasting) : (State.startCmd s src want checks body).lasting = s.lasting := by
  unfold State.startCmd
  dsimp only
  repeat' split
  all_goals simp only [State.modCmd_lasting, State.flushBad_lasting, State.endCmd_lasting, hbody]

@[simp] theorem State.keepCmd_lasting (s : State) (c : Cmd) : (State.keepCmd s c).lasting = s.lasting := rfl

@[simp] theorem State.cmdAccess_lasting (s : State) (id index : Nat) (a : ErgAccess) : (State.cmdAccess s id index a).lasting = s.lasting := by
  unfold State.cmdAccess
  repeat' (first
    | with_reducible rfl | dsimp only | simp only [State.request_lasting, State.modCmd_lasting]
    | refine (lasting_of_eq3 (by assumption)).trans ?_ | split)

@[simp] theorem State.cmdRead_lasting (s : State) (c : Cmd) (index : Nat) (addr : BitVec 64) (n : Nat) : (State.cmdRead s c index addr n).lasting
    = s.lasting := by
  induction n generalizing s with
  | zero => rfl
  | succ k ih =>
    unfold State.cmdRead
    repeat' (first
      | with_reducible rfl | dsimp only | simp only [State.cmdAccess_lasting]
      | refine (lasting_foldl _ _ (fun _ _ => ?_) _).trans ?_)

@[simp] theorem State.cmdWrite_lasting (s : State) (c : Cmd) (addr : BitVec 64) (ws : List CodeWord) : (State.cmdWrite s c addr ws).lasting =
    s.lasting := by
  unfold State.cmdWrite
  repeat' (first
    | with_reducible rfl | dsimp only | simp only [State.cmdAccess_lasting]
    | refine (lasting_foldl _ _ (fun _ _ => ?_) _).trans ?_)

/-! Operations of Machine/HostGroup.lean. -/

@[simp] theorem State.unsupported_lasting (s : State) : (State.unsupported s).lasting = s.lasting := rfl

@[simp] theorem State.hostWords_lasting (s : State) (region : Nat) (offs : List Nat) : (State.hostWords s region offs).2.lasting = s.lasting := by
  unfold State.hostWords
  repeat' (first
    | with_reducible rfl | dsimp only | simp only [State.readWord_lasting]
    | refine (lasting_foldl_snd _ _ (fun _ _ => ?_) _).trans ?_)

@[simp] theorem State.hostBytes_lasting (s : State) (region o : Nat) (bytes : List Byte) (ep : Bool) : (State.hostBytes s region o bytes
    ep).lasting = s.lasting := by
  unfold State.hostBytes
  repeat' (first
    | with_reducible rfl | dsimp only | simp only [State.writeWord_lasting]
    | refine (lasting_foldl _ _ (fun _ _ => ?_) _).trans ?_)

@[simp] theorem State.fetchedStep_lasting (s : State) (step : BitVec 32) (stepped : Bool) : (State.fetchedStep s step stepped).lasting =
    s.lasting := by
  unfold State.fetchedStep
  dsimp only
  repeat' split
  all_goals simp only [lasting_update]

@[simp] theorem State.takePacket_lasting (s : State) (c : Cmd) : (State.takePacket s c).lasting = s.lasting := by
  simp only [State.takePacket, State.flushBad_lasting, lasting_update]

@[simp] theorem State.writeQctrl_lasting (s : State) (q : Fin 8) (v : Nat) : (State.writeQctrl s q v).lasting = s.lasting := by
  unfold State.writeQctrl
  dsimp only
  split
  · split <;> exact State.modQueue_lasting ..
  · split
    · simp only [State.releaseHeld_lasting, State.modQueue_lasting]
    · exact State.modQueue_lasting ..

@[simp] theorem State.mailRefused_lasting (s : State) (m : Fin 16) : (State.mailRefused s m).lasting = s.lasting := rfl

@[simp] theorem State.mailClaim_lasting (s : State) (m : Fin 16) (a : Agent) : (State.mailClaim s m a).lasting = s.lasting := by
  simp only [State.mailClaim, State.modMail_lasting, State.mailRefused_lasting, lasting_ite, ite_self]

@[simp] theorem State.mailGo_lasting (s : State) (m : Fin 16) (a : Agent) : (State.mailGo s m a).lasting = s.lasting := by
  simp only [State.mailGo, State.modMail_lasting, State.notice_lasting, State.ackMail_lasting, State.mailRefused_lasting, lasting_ite, ite_self]

@[simp] theorem State.orphan_lasting (s : State) (m : Fin 16) : (State.orphan s m).lasting = s.lasting := rfl

@[simp] theorem State.mailRelease_lasting (s : State) (m : Fin 16) (a : Agent) : (State.mailRelease s m a).lasting = s.lasting := by
  simp only [State.mailRelease, State.modMail_lasting, State.mailRefused_lasting, State.orphan_lasting, lasting_ite, ite_self]

@[simp] theorem State.mailCode_lasting (s : State) (m : Fin 16) (a : Agent) (v : BitVec 16) : (State.mailCode s m a v).lasting = s.lasting := by
  simp only [State.mailCode, State.ackMail_lasting, State.mailRefused_lasting, State.orphan_lasting, lasting_ite, ite_self]

/-! Operations of Machine/DataPath.lean. -/

@[simp] theorem State.copyGo_lasting (n : Nat) (s : State) (id : Nat) : (State.copyGo n s id).lasting = s.lasting := by
  induction n generalizing s with
  | zero => unfold State.copyGo; rfl
  | succ k ih =>
    unfold State.copyGo
    split
    · rename_i k' c h1 h2
      cases h1
      dsimp only
      simp only [lasting_ite, ih, State.endCmd_lasting, State.cmdWrite_lasting, State.cmdRead_lasting, State.modCmd_lasting, ite_self]
    · rfl

@[simp] theorem State.fillGo_lasting (n : Nat) (s : State) (id : Nat) : (State.fillGo n s id).lasting = s.lasting := by
  induction n generalizing s with
  | zero => unfold State.fillGo; rfl
  | succ k ih =>
    unfold State.fillGo
    split
    · rename_i k' c h1 h2
      cases h1
      dsimp only
      simp only [lasting_ite, ih, State.endCmd_lasting, State.cmdWrite_lasting, State.modCmd_lasting, ite_self]
    · rfl

@[simp] theorem State.modPages_lasting (s : State) (page count : Nat) (f : Nat → BitVec 32 → BitVec 32) : (State.modPages s page count f).lasting
    = s.lasting := rfl

@[simp] theorem State.modHalves_lasting (s : State) (c : Cmd) (f : Half → Half) : (State.modHalves s c f).lasting = s.lasting := by
  unfold State.modHalves
  repeat' (first
    | with_reducible rfl | dsimp only | simp only [State.setCore_lasting]
    | refine (lasting_foldl _ _ (fun _ _ => ?_) _).trans ?_)

@[simp] theorem State.imemGo_lasting (s : State) (id : Nat) : (State.imemGo s id).lasting = s.lasting := by
  unfold State.imemGo
  repeat' (first
    | with_reducible rfl | dsimp only | simp only [State.modCmd_lasting, State.endCmd_lasting, State.modHalves_lasting]
    | split)

@[simp] theorem State.keepEnd_lasting (s : State) (p : Nat) (k : StreamId) : (State.keepEnd s p k).lasting = s.lasting := rfl

@[simp] theorem State.launchStep_lasting (s : State) (c : Cmd) : (State.launchStep s c).lasting = s.lasting := by
  unfold State.launchStep
  dsimp only
  repeat' split
  all_goals simp only [State.modStep_lasting]

@[simp] theorem State.resumeGo_lasting (s : State) (c : Cmd) : (State.resumeGo s c).lasting = s.lasting := by
  unfold State.resumeGo
  dsimp only
  repeat' split
  all_goals simp only [State.qResume_lasting, State.endCmd_lasting]

@[simp] theorem State.haltStreams_lasting (s : State) (l : List (Nat × StreamId)) : (State.haltStreams s l).lasting = s.lasting := by
  unfold State.haltStreams
  repeat' (first
    | with_reducible rfl | dsimp only | simp only [State.setCore_lasting]
    | refine (lasting_foldl _ _ (fun _ _ => ?_) _).trans ?_)

@[simp] theorem State.exchangeGo_lasting (n : Nat) (s : State) (id : Nat) : (State.exchangeGo n s id).lasting = s.lasting := by
  induction n generalizing s with
  | zero => unfold State.exchangeGo; rfl
  | succ k ih =>
    unfold State.exchangeGo
    split
    · rename_i k' c h1 h2
      cases h1
      repeat' split
      all_goals simp only [ih, State.endCmd_lasting, State.cmdRead_lasting, State.modCmd_lasting, lasting_update, lasting_ite, ite_self]
    · rfl

/-! Operations of Machine/Silent.lean. -/

@[simp] theorem State.replayOutcome_lasting (s : State) (r : Replay) (status : BitVec 16) (detail : Nat) : (State.replayOutcome s r status
    detail).lasting = s.lasting := by
  simp only [State.replayOutcome, State.draw_lasting, State.replyTo_lasting, lasting_update]

@[simp] theorem State.disarm_lasting (s : State) : (State.disarm s).lasting = s.lasting := by
  unfold State.disarm
  repeat' (first
    | with_reducible rfl | dsimp only | simp only [State.replayOutcome_lasting] | split)

@[simp] theorem State.abortReplay_lasting (s s0 : State) (step : BitVec 32) : (State.abortReplay s s0 step).lasting = s.lasting := by
  unfold State.abortReplay
  split
  · rfl
  · (repeat' split) <;> first | rfl | exact State.replayOutcome_lasting ..

@[simp] theorem State.modClosing_lasting (s : State) (step : BitVec 32) (f : Closing → Closing) :
    (State.modClosing s step f).lasting = s.lasting := rfl

@[simp] theorem State.reportStep_lasting (s : State) (k : Closing) : (State.reportStep s k).lasting = s.lasting := by
  unfold State.reportStep
  dsimp only
  repeat' split
  all_goals simp only [State.modStep_lasting, State.postEntry_lasting, State.replayOutcome_lasting, lasting_update]

@[simp] theorem State.reportReady_lasting (s : State) (step : BitVec 32) : (State.reportReady s step).lasting = s.lasting := by
  unfold State.reportReady
  split
  · exact State.reportStep_lasting ..
  · rfl

@[simp] theorem State.recordAnswered_lasting (s : State) (step : BitVec 32) (tag : Nat) : (State.recordAnswered s step tag).lasting =
    s.lasting := (State.reportReady_lasting ..).trans rfl

@[simp] theorem State.closeStep_lasting (s : State) (k : Closing) : (State.closeStep s k).lasting = s.lasting := by
  unfold State.closeStep
  dsimp only
  repeat' split
  all_goals simp only [State.modClosing_lasting, State.reportStep_lasting, State.reportReady_lasting, State.writeOut_lasting,
    State.mark_lasting]

@[simp] theorem State.replayGo_lasting (s : State) (id : Nat) : (State.replayGo s id).lasting = s.lasting := by
  unfold State.replayGo
  dsimp only
  repeat' split
  all_goals simp only [State.endCmd_lasting, lasting_update]

@[simp] theorem State.patrolRecords_lasting (s : State) (bad : List (Nat × Nat)) (ver det : Nat) :
    (State.patrolRecords s bad ver det).lasting = s.lasting := by
  unfold State.patrolRecords
  dsimp only
  rw [State.record_lasting]
  exact lasting_foldl _ _ (fun _ _ => State.record_lasting ..) _

@[simp] theorem State.setClock_lasting (s : State) (p clk : Nat) : (State.setClock s p clk).lasting = s.lasting := rfl

@[simp] theorem State.marginEnd_lasting (s : State) (c : Cmd) : (State.marginEnd s c).lasting = s.lasting := by
  simp only [State.marginEnd, State.record_lasting, State.endCmd_lasting, State.setClock_lasting, lasting_ite, ite_self]

/-! Operations of Machine/Cairn.lean. -/

@[simp] theorem State.passTime_lasting (s : State) : (State.passTime s).lasting = s.lasting := rfl

@[simp] theorem State.sign_lasting (s : State) (key : Nat) (bytes : List Byte) : (State.sign s key bytes).2.lasting = s.lasting := rfl

@[simp] theorem State.startSeal_lasting (s : State) : (State.startSeal s).lasting = s.lasting := by
  simp only [State.startSeal, lasting_cairn, lasting_ite, ite_self]

theorem Cairn.load_store (k : Cairn) (side : Side) (high : Reg) : (k.load side high).store = k.store := by
  unfold Cairn.load
  dsimp only
  split <;> cases side <;> rfl

/-! Operations of Machine/Jobs.lean. -/

@[simp] theorem State.engineWords_lasting (n : Nat) (s : State) (addr : BitVec 64) : (State.engineWords n s addr).2.lasting = s.lasting := by
  induction n generalizing s addr with
  | zero => rfl
  | succ k ih =>
    unfold State.engineWords
    repeat' (first
      | with_reducible rfl | dsimp only | simp only [State.serve_lasting, ih]
      | refine (lasting_of_eq (by assumption)).trans ?_ | split)

@[simp] theorem State.setQsteps_lasting (s : State) (v : Nat) : (State.setQsteps s v).lasting = s.lasting := by
  unfold State.setQsteps
  repeat' (first
    | with_reducible rfl | dsimp only | simp only [State.modQueue_lasting]
    | refine (lasting_foldl _ _ (fun _ _ => ?_) _).trans ?_)

@[simp] theorem State.clearTokens_lasting (s : State) : (State.clearTokens s).lasting = s.lasting := by
  unfold State.clearTokens
  repeat' (first
    | with_reducible rfl | dsimp only | simp only [State.setCore_lasting]
    | refine (lasting_foldl _ _ (fun _ _ => ?_) _).trans ?_)

@[simp] theorem State.openJob_lasting (s : State) (c : Cmd) (x : Nat) (ranks : List Nat) : (State.openJob s c x ranks).lasting = s.lasting := by
  simp only [State.openJob, State.oneCycle_lasting, State.setState_lasting, State.record_lasting, State.putLocal_lasting, State.endCmd_lasting,
      State.setQsteps_lasting, State.clearTokens_lasting, lasting_ident]

@[simp] theorem State.judgeRanks_lasting (s : State) (c : Cmd) (ws : List Nat) : (State.judgeRanks s c ws).lasting = s.lasting := by
  unfold State.judgeRanks
  dsimp only
  split
  · exact State.endCmd_lasting ..
  · exact State.openJob_lasting ..

@[simp] theorem State.jobOpenGo_lasting (s : State) (id : Nat) : (State.jobOpenGo s id).lasting = s.lasting := by
  unfold State.jobOpenGo
  dsimp only
  repeat' split
  all_goals simp only [State.endCmd_lasting, State.judgeRanks_lasting]

@[simp] theorem State.pendingCurrent_lasting (s : State) (step : BitVec 32) : (State.pendingCurrent s step).lasting = s.lasting := by
  simp only [State.pendingCurrent, lasting_update, lasting_ite, ite_self]

@[simp] theorem State.setCommitted_lasting (s : State) (step : BitVec 32) (begun : BitVec 32) (worked : Bool) : (State.setCommitted s step begun
    worked).lasting = s.lasting := by
  simp only [State.setCommitted, State.offerWaiting_lasting, lasting_update]

@[simp] theorem State.moveGo_lasting (n : Nat) (s : State) (id : Nat) (src dst : BitVec 64) (fin : State → Cmd → State) (hfin : ∀ s c, (fin s
    c).lasting = s.lasting) : (State.moveGo n s id src dst fin).lasting = s.lasting := by
  induction n generalizing s with
  | zero => unfold State.moveGo; rfl
  | succ k ih =>
    unfold State.moveGo
    split
    · rename_i k' c h1 h2
      cases h1
      dsimp only
      simp only [lasting_ite, ih, State.endCmd_lasting, State.cmdWrite_lasting, State.cmdRead_lasting, State.modCmd_lasting, hfin, ite_self]
    · rfl

@[simp] theorem State.checkpointGo_lasting (s : State) (id : Nat) : (State.checkpointGo s id).lasting = s.lasting := by
  unfold State.checkpointGo
  split
  · rfl
  · split
    · repeat' split
      all_goals first | rfl | exact State.endCmd_lasting ..
    · refine State.moveGo_lasting _ _ _ _ _ _ fun s c => ?_
      dsimp only
      split
      · repeat' split
        all_goals simp only [State.endCmd_lasting, State.cmdWrite_lasting, State.keepCmd_lasting]
      · simp only [State.cmdWrite_lasting, State.keepCmd_lasting]

@[simp] theorem State.restoreEnd_lasting (s : State) (c : Cmd) : (State.restoreEnd s c).lasting = s.lasting := by
  simp only [State.restoreEnd, State.endCmd_lasting, State.setQsteps_lasting, State.setCommitted_lasting, lasting_ite, ite_self]

@[simp] theorem State.restoreGo_lasting (s : State) (id : Nat) : (State.restoreGo s id).lasting = s.lasting := by
  unfold State.restoreGo
  split
  · rfl
  · dsimp only
    repeat' split
    all_goals first | rfl | exact State.endCmd_lasting .. | skip
    · exact (State.moveGo_lasting _ _ _ _ _ _ State.restoreEnd_lasting).trans (State.keepCmd_lasting ..)
    · exact State.moveGo_lasting _ _ _ _ _ _ State.restoreEnd_lasting

@[simp] theorem State.haltAll_lasting (s : State) (which : Stream → Bool) : (State.haltAll s which).lasting = s.lasting := by
  unfold State.haltAll
  repeat' (first
    | with_reducible rfl | dsimp only | simp only [State.onCore_lasting, State.haltStreams_lasting]
    | refine (lasting_foldl _ _ (fun _ _ => ?_) _).trans ?_ | split)

@[simp] theorem State.endLaunches_lasting (s : State) : (State.endLaunches s).lasting = s.lasting := by
  unfold State.endLaunches
  repeat' (first
    | with_reducible rfl | dsimp only | simp only [State.endCmd_lasting, State.launchStep_lasting]
    | refine (lasting_foldl _ _ (fun _ _ => ?_) _).trans ?_ | split)

@[simp] theorem State.freeMail_lasting (s : State) (which : Fin 16 → Mailbox → Bool) : (State.freeMail s which).lasting = s.lasting := by
  unfold State.freeMail
  refine (lasting_foldl _ _ (fun s q => ?_) _).trans rfl
  dsimp only
  split
  · exact (State.orphan_lasting ..).trans (State.modMail_lasting ..)
  · rfl

@[simp] theorem State.freeCoreMail_lasting (s : State) : (State.freeCoreMail s).lasting = s.lasting := State.freeMail_lasting ..

@[simp] theorem State.dumpWords_lasting (s : State) (p b slice : Nat) : (State.dumpWords s p b slice).2.lasting = s.lasting := by
  unfold State.dumpWords
  repeat' (first
    | with_reducible rfl | dsimp only | simp only [State.onCore_lasting]
    | refine (lasting_foldl_snd _ _ (fun _ _ => ?_) _).trans ?_)

@[simp] theorem State.dumpRecord_lasting (s : State) (r : DumpRun) : (State.dumpRecord s r).lasting = s.lasting := by
  unfold State.dumpRecord
  dsimp only
  rw [State.record_lasting]
  exact lasting_foldl _ _ (fun _ _ => State.writeOut_lasting ..) _

@[simp] theorem State.endDump_lasting (s : State) (r : DumpRun) : (State.endDump s r).lasting = s.lasting := by
  unfold State.endDump
  dsimp only
  repeat' split
  all_goals simp only [State.endCmd_lasting, State.dumpRecord_lasting, lasting_update]

/-! Operations of Machine/Notar.lean. -/

@[simp] theorem State.modNotar_lasting (s : State) (f : Notar → Notar) : (State.modNotar s f).lasting = s.lasting := rfl

@[simp] theorem State.imageRecord_lasting (s : State) (kind : Nat) (bank : Bool) (op : Nat) (status : BitVec 16) : (State.imageRecord s kind bank
    op status).lasting = s.lasting := by
  simp only [State.imageRecord, State.record_lasting]

@[simp] theorem State.verifySlot_lasting (s : State) (kind : Nat) (bank : Bool) (op : Nat) : (State.verifySlot s kind bank op).2.lasting =
    s.lasting := by
  simp only [State.verifySlot, State.modNotar_lasting, State.imageRecord_lasting]

@[simp] theorem State.freeOp_lasting (s : State) : (State.freeOp s).2.lasting = s.lasting := rfl

@[simp] theorem State.measureRecord_lasting (s : State) : (State.measureRecord s).lasting = s.lasting := by
  simp only [State.measureRecord, State.record_lasting]

@[simp] theorem State.loadMicrocode_lasting (s : State) : (State.loadMicrocode s).2.lasting = s.lasting := by
  unfold State.loadMicrocode
  dsimp only
  repeat' split
  all_goals simp only [State.modNotar_lasting, State.verifySlot_lasting, State.freeOp_lasting, State.measureRecord_lasting]

@[simp] theorem State.loadFirmware_lasting (s : State) : (State.loadFirmware s).lasting = s.lasting := by
  simp only [State.loadFirmware, State.modNotar_lasting, State.imageRecord_lasting, State.verifySlot_lasting, State.freeOp_lasting, lasting_ite,
      ite_self]

@[simp] theorem State.restartFirmware_lasting (s : State) : (State.restartFirmware s).lasting = s.lasting := by
  unfold State.restartFirmware
  repeat' (first
    | with_reducible rfl | dsimp only
    | simp only [State.endCmd_lasting, State.modNotar_lasting, State.measureRecord_lasting]
    | refine (lasting_foldl _ _ (fun _ _ => ?_) _).trans ?_)

@[simp] theorem State.stageGo_lasting (n : Nat) (s : State) (id : Nat) : (State.stageGo n s id).lasting = s.lasting := by
  induction n generalizing s with
  | zero => unfold State.stageGo; rfl
  | succ k ih =>
    unfold State.stageGo
    split
    · rename_i k' c h1 h2
      cases h1
      dsimp only
      simp only [lasting_ite, ih, State.endCmd_lasting, State.cmdRead_lasting, State.modCmd_lasting, State.modNotar_lasting,
          State.verifySlot_lasting, ite_self]
    · rfl

end Sys2Proof.Machine
end

