-- ==== Sys2Proof/Laws/LastingEnv.lean ====
section
/-! SUPPORT. For each operation of answers, links, SPDM, power, register writes and the management bus: it leaves the waiting commands, the fuses
    and Cairn's record store as they are
(`State.lasting`, Laws/Lasting.lean). -/

namespace Sys2Proof.Machine

/-! Operations of Machine/Waits.lean. -/

@[simp] theorem State.goOn_lasting (s : State) (id : Nat) : (State.goOn s id).lasting = s.lasting := by
  unfold State.goOn
  repeat' (first
    | with_reducible rfl | dsimp only
    | simp only [State.copyGo_lasting, State.fillGo_lasting, State.imemGo_lasting, State.exchangeGo_lasting,
        State.jobOpenGo_lasting, State.replayGo_lasting, State.checkpointGo_lasting, State.restoreGo_lasting, State.stageGo_lasting]
    | split)

@[simp] theorem State.cmdAnswered_lasting (s : State) (id tag : Nat) (ans : Answer) : (State.cmdAnswered s id tag ans).lasting = s.lasting := by
  unfold State.cmdAnswered
  split
  · rfl
  · split
    · rfl
    · exact (State.goOn_lasting ..).trans (State.keepCmd_lasting ..)

@[simp] theorem State.answer_lasting (s : State) (a : ErgAccess) (ans : Answer) : (State.answer s a ans).lasting = s.lasting := by
  unfold State.answer
  repeat' (first
    | with_reducible rfl | dsimp only
    | simp only [State.resultAnswered_lasting, State.recordAnswered_lasting, State.qAnswered_lasting, State.cmdAnswered_lasting] | split)

@[simp] theorem State.endTimeout_lasting (s : State) (c : Cmd) : (State.endTimeout s c).lasting = s.lasting := by
  simp only [State.endTimeout, State.endCmd_lasting]

@[simp] theorem State.abortEnd_lasting (s : State) (c : Cmd) : (State.abortEnd s c).lasting = s.lasting := by
  simp only [State.abortEnd, State.endCmd_lasting, lasting_update]

@[simp] theorem State.swapEnd_lasting (s : State) (c : Cmd) : (State.swapEnd s c).lasting = s.lasting := by
  unfold State.swapEnd
  refine (State.endCmd_lasting ..).trans ?_
  unfold State.deliver
  refine (lasting_foldl _ _ (fun s x => State.answer_lasting ..) _).trans ?_
  exact (State.retryParked_lasting ..).trans rfl

@[simp] theorem State.closeScrub_lasting (s : State) (c : Cmd) (notQuiet : Bool) : (State.closeScrub s c notQuiet).lasting = s.lasting := rfl

@[simp] theorem State.checkQuiet_lasting (s : State) : (State.checkQuiet s).lasting = s.lasting := by
  unfold State.checkQuiet
  dsimp only
  repeat' split
  all_goals simp only [State.abortEnd_lasting, State.swapEnd_lasting, State.closeScrub_lasting, lasting_update]

@[simp] theorem State.waitQuiet_lasting (s : State) (c : Cmd) (phase : Nat) (progress : Byte) : (State.waitQuiet s c phase progress).lasting =
    s.lasting := by
  simp only [State.waitQuiet, State.sendProbes_lasting, State.keepCmd_lasting, State.checkQuiet_lasting]

@[simp] theorem State.endStopped_lasting (s : State) (c : Cmd) : (State.endStopped s c).lasting = s.lasting := by
  simp only [State.endStopped, State.endCmd_lasting, State.launchStep_lasting, lasting_ite, ite_self]

@[simp] theorem State.abortWork_lasting (s : State) (step : BitVec 32) : (State.abortWork s step).lasting = s.lasting := by
  unfold State.abortWork
  repeat' (first
    | with_reducible rfl | dsimp only
    | simp only [lasting_update, State.setCore_lasting, State.abortReplay_lasting, State.qFlagsHeads_lasting, State.discardWaiting_lasting,
        State.haltAll_lasting, State.endStopped_lasting]
    | refine (lasting_foldl _ _ (fun _ _ => ?_) _).trans ?_ | split)

@[simp] theorem State.closeWork_lasting (s : State) (self : Nat) : (State.closeWork s self).lasting = s.lasting := by
  unfold State.closeWork
  repeat' (first
    | with_reducible rfl | dsimp only
    | simp only [State.setState_lasting, State.setCore_lasting, State.endCmd_lasting, State.disarm_lasting, State.qFlagsHeads_lasting, State.returnCredits_lasting,
        State.haltAll_lasting, State.endStopped_lasting]
    | refine (lasting_foldl _ _ (fun _ _ => ?_) _).trans ?_ | split)

@[simp] theorem State.closeEnd_lasting (s : State) : (State.closeEnd s).lasting = s.lasting := by
  unfold State.closeEnd
  repeat' (first
    | with_reducible rfl | dsimp only | simp only [State.setState_lasting, State.setCore_lasting, State.setQsteps_lasting]
    | refine (lasting_foldl _ _ (fun _ _ => ?_) _).trans ?_)

@[simp] theorem State.stopQuiet_lasting (s : State) (c : Cmd) : (State.stopQuiet s c).lasting = s.lasting := by
  simp only [State.stopQuiet, State.endCmd_lasting, lasting_update]

@[simp] theorem State.timeOut_lasting (s : State) (c : Cmd) : (State.timeOut s c).lasting = s.lasting := by
  unfold State.timeOut
  dsimp only
  repeat' split
  all_goals simp only [State.cmdOutcome_lasting, State.replyTo_lasting, State.keepCmd_lasting, State.haltStreams_lasting, State.launchStep_lasting,
      State.settleQueues_lasting, State.goOn_lasting,
      State.stopQuiet_lasting]

@[simp] theorem State.fillOn_lasting (s : State) : (State.fillOn s).lasting = s.lasting := by
  unfold State.fillOn
  dsimp only
  split <;> rfl

@[simp] theorem State.idle_lasting (s : State) : (State.idle s).lasting = s.lasting := by
  unfold State.idle
  dsimp only
  rw [lasting_update, State.fillOn_lasting, State.creditsBack_lasting, State.modNotar_lasting]
  split
  · exact State.endDump_lasting ..
  · rfl

@[simp] theorem State.deliver_lasting (x : List (ErgAccess × Answer) × State) : (State.deliver x).lasting = x.2.lasting := by
  unfold State.deliver
  exact lasting_foldl _ _ (fun _ _ => State.answer_lasting ..) _

/-! Operations of Machine/ErgGroup.lean. -/

@[simp] theorem State.resendFrames_lasting (s : State) (p : Fin 16) (l : List (BitVec 12 × ErgPacket)) : (State.resendFrames s p l).lasting =
    s.lasting := by
  unfold State.resendFrames
  repeat' (first
    | with_reducible rfl | dsimp only | simp only [State.send_lasting]
    | refine (lasting_foldl _ _ (fun _ _ => ?_) _).trans ?_)

@[simp] theorem State.contributed_lasting (s : State) (i : Issuer) (tag : Nat) (ans : Answer) : (State.contributed s i tag ans).lasting =
    s.lasting := by
  simp only [State.contributed, State.answer_lasting]

@[simp] theorem State.collArrives_lasting (s : State) (p : Fin 16) (pkt : ErgPacket) (ops : List Nat) : (State.collArrives s p pkt ops).lasting =
    s.lasting := by
  unfold State.collArrives
  exact State.arrives_lasting _ _ _ _ _ fun s => State.sequenceColl_lasting _ _ _ _ fun s ws => State.offer_lasting ..

/-! Operations of Machine/Spdm.lean. -/

@[simp] theorem State.modConn_lasting (s : State) (t : Transport) (f : SpdmConn → SpdmConn) : (State.modConn s t f).lasting = s.lasting := rfl

@[simp] theorem State.mctpReply_lasting (s : State) (l : List Byte) : (State.mctpReply s l).lasting = s.lasting := rfl

@[simp] theorem State.spdmSend_lasting (s : State) (t : Transport) (secure : Bool) (l : List Byte) : (State.spdmSend s t secure l).lasting =
    s.lasting := by
  unfold State.spdmSend
  dsimp only
  repeat' split
  all_goals simp only [State.send_lasting, State.mctpReply_lasting]

@[simp] theorem State.spdmMaybeLater_lasting (s : State) (t : Transport) (l : List Byte) : (State.spdmMaybeLater s t l).lasting = s.lasting := by
  simp only [State.spdmMaybeLater, State.draw_lasting, State.modConn_lasting, State.spdmSend_lasting, lasting_ite, ite_self]

@[simp] theorem State.signed_lasting (s : State) (slot : Nat) (l : List Byte) : (State.signed s slot l).2.lasting = s.lasting := rfl

@[simp] theorem State.txGo_lasting (s : State) (len : Byte) : (State.txGo s len).lasting = s.lasting := by
  simp only [State.txGo, State.modNotar_lasting, lasting_update, lasting_ite, ite_self]

@[simp] theorem State.rxDone_lasting (s : State) : (State.rxDone s).lasting = s.lasting := by
  simp only [State.rxDone, State.modNotar_lasting, lasting_ite, ite_self]

theorem State.spdmServe_lasting (s : State) (x : Transport) (ok : SpdmConn → Bool) (f : State → State) (t : State)
    (hf : ∀ s, (f s).lasting = s.lasting) (h : s.spdmServe x ok f = .next t) : t.lasting = s.lasting := by
  cases h
  simp only [lasting_ite, hf, State.spdmSend_lasting, ite_self]

/-! Operations of Machine/Power.lean. -/

@[simp] theorem State.modPower_lasting (s : State) (f : Power → Power) : (State.modPower s f).lasting = s.lasting := rfl

@[simp] theorem State.setPwrGood_lasting (s : State) (v : Bool) : (State.setPwrGood s v).lasting = s.lasting := by
  simp only [State.setPwrGood, State.send_lasting, State.modPower_lasting, lasting_ite, ite_self]

@[simp] theorem State.setThermTrip_lasting (s : State) (v : Bool) : (State.setThermTrip s v).lasting = s.lasting := by
  simp only [State.setThermTrip, State.send_lasting, State.modPower_lasting, lasting_ite, ite_self]

@[simp] theorem State.pmSet_lasting (s : State) (i : Fin 6) : (State.pmSet s i).lasting = s.lasting := by
  simp only [State.pmSet, State.msix_lasting, State.ibi_lasting, State.modPower_lasting, lasting_ite, ite_self]

@[simp] theorem State.setLevels_lasting (s : State) (l : Vector (BitVec 3) 4) : (State.setLevels s l).lasting = s.lasting := by
  simp only [State.setLevels, State.modPower_lasting, State.pmSet_lasting, lasting_ite, ite_self]

@[simp] theorem State.clearLevels_lasting (s : State) : (State.clearLevels s).lasting = s.lasting :=
  (State.setLevels_lasting ..).trans (State.modPower_lasting ..)

@[simp] theorem State.clocksRun_lasting (s : State) : (State.clocksRun s).lasting = s.lasting := rfl

@[simp] theorem State.clearMain_lasting (s : State) (endpoint : Bool) : (State.clearMain s endpoint).lasting = s.lasting := rfl

@[simp] theorem State.moduleReset_lasting (s : State) (source : Nat) : (State.moduleReset s source).lasting = s.lasting := by
  simp only [State.moduleReset, State.setState_lasting, State.record_lasting, State.clearMain_lasting, lasting_ident]

@[simp] theorem State.hostResetKey_lasting (s : State) (value : Reg) : (State.hostResetKey s value).lasting = s.lasting := by
  simp only [State.hostResetKey, State.moduleReset_lasting, lasting_ite, ite_self]

@[simp] theorem State.rmcResetKey_lasting (s : State) (value : Byte) : (State.rmcResetKey s value).lasting = s.lasting := by
  simp only [State.rmcResetKey, State.modPower_lasting, State.moduleReset_lasting, lasting_ite, ite_self]

@[simp] theorem State.powerOff_lasting (s : State) (cause : BitVec 4) : (State.powerOff s cause).lasting = s.lasting := by
  unfold State.powerOff
  repeat' (first
    | with_reducible rfl | dsimp only
    | simp only [lasting_update, State.modPower_lasting, State.mark_lasting, State.endCmd_lasting, State.freeCoreMail_lasting, State.clearMain_lasting]
    | refine (lasting_foldl _ _ (fun _ _ => ?_) _).trans ?_ | split)

@[simp] theorem State.writeCoord_lasting (s : State) (v : Reg) : (State.writeCoord s v).lasting = s.lasting := by
  unfold State.writeCoord
  repeat' (first
    | with_reducible rfl | dsimp only
    | simp only [lasting_ident, State.record_lasting, State.startLink_lasting, State.modPower_lasting]
    | refine (lasting_foldl _ _ (fun _ _ => ?_) _).trans ?_ | split)

@[simp] theorem State.mainOnWrite_lasting (s : State) (milliVolts : Nat) (refOk : Bool) : (State.mainOnWrite s milliVolts refOk).lasting =
    s.lasting := by
  simp only [State.mainOnWrite, State.clearLevels_lasting, State.modPower_lasting, State.setThermTrip_lasting, lasting_ite, ite_self]

@[simp] theorem State.mainOffWrite_lasting (s : State) : (State.mainOffWrite s).lasting = s.lasting := by
  simp only [State.mainOffWrite, State.modPower_lasting, State.powerOff_lasting]

@[simp] theorem State.startupFailed_lasting (s : State) : (State.startupFailed s).lasting = s.lasting := by
  simp only [State.startupFailed, State.modPower_lasting, State.powerOff_lasting]

@[simp] theorem State.thermalRecord_lasting (s : State) (i : Nat) (trip : Bool) (t : BitVec 12) : (State.thermalRecord s i trip t).lasting =
    s.lasting := by
  simp only [State.thermalRecord, State.record_lasting]

@[simp] theorem State.readSource_lasting (s : State) (i : Fin 12) (t : BitVec 12) : (State.readSource s i t).lasting = s.lasting := by
  simp only [State.readSource, State.pmSet_lasting, State.thermalRecord_lasting, lasting_update, lasting_ite, ite_self]

@[simp] theorem State.resetEndpoint_lasting (s : State) : (State.resetEndpoint s).lasting = s.lasting := rfl

@[simp] theorem State.writeScrub_lasting (s : State) (v : Reg) : (State.writeScrub s v).lasting = s.lasting := rfl

/-! Operations of Machine/Registers.lean. -/

@[simp] theorem State.coreWindow_lasting (s : State) (p : Nat) (f : Core → Core) : (State.coreWindow s p f).lasting = s.lasting := by
  simp only [State.coreWindow, State.setCore_lasting, State.unsupported_lasting, lasting_ite, ite_self]

@[simp] theorem State.writeQstep_lasting (s : State) (q : Fin 8) (v : Reg) : (State.writeQstep s q v).lasting = s.lasting := by
  simp only [State.writeQstep, State.modQueue_lasting, lasting_update, lasting_ite, ite_self]

@[simp] theorem State.writePortEn_lasting (s : State) (v : BitVec 16) : (State.writePortEn s v).lasting = s.lasting := by
  unfold State.writePortEn
  repeat' (first
    | with_reducible rfl | dsimp only | simp only [lasting_update, State.setLink_lasting, State.startLink_lasting]
    | refine (lasting_foldl _ _ (fun _ _ => ?_) _).trans ?_ | split)

@[simp] theorem State.retrain_lasting (s : State) (p : Fin 16) : (State.retrain s p).lasting = s.lasting := by
  simp only [State.retrain, State.startLink_lasting, lasting_ite, ite_self]

@[simp] theorem State.forceDown_lasting (s : State) (p : Fin 16) (hold : Bool) : (State.forceDown s p hold).lasting = s.lasting := by
  simp only [State.forceDown, State.modPort_lasting, State.setLink_lasting, lasting_ite, ite_self]

@[simp] theorem State.clearErgCounts_lasting (s : State) : (State.clearErgCounts s).lasting = s.lasting := rfl

@[simp] theorem State.clearCollCounts_lasting (s : State) : (State.clearCollCounts s).lasting = s.lasting := rfl

@[simp] theorem State.clearHcCounts_lasting (s : State) : (State.clearHcCounts s).lasting = s.lasting := rfl

@[simp] theorem State.clearSource_lasting (s : State) (src : Nat) : (State.clearSource s src).lasting = s.lasting := rfl

@[simp] theorem State.clearPeaks_lasting (s : State) : (State.clearPeaks s).lasting = s.lasting := rfl

@[simp] theorem State.writeIdent_lasting (s : State) (o v : Nat) : (State.writeIdent s o v).lasting = s.lasting := by
  simp only [State.writeIdent, State.hostResetKey_lasting, State.writeQstep_lasting, State.clearHcCounts_lasting, lasting_update, lasting_ite,
      ite_self]

@[simp] theorem State.writeQueue_lasting (s : State) (q : Fin 8) (o v : Nat) : (State.writeQueue s q o v).lasting = s.lasting := by
  simp only [State.writeQueue, State.modQueue_lasting, State.writeQctrl_lasting, lasting_ite, ite_self]

@[simp] theorem State.clearPm_lasting (s : State) (v : Nat) : (State.clearPm s v).lasting = s.lasting := rfl

@[simp] theorem State.writePower_lasting (s : State) (o v : Nat) : (State.writePower s o v).lasting = s.lasting := by
  simp only [State.writePower, State.modPower_lasting, State.clearPeaks_lasting, State.clearPm_lasting, lasting_ite, ite_self]

@[simp] theorem State.writeShadow_lasting (s : State) (rank : Bool) (i v : Nat) : (State.writeShadow s rank i v).lasting = s.lasting := by
  simp only [State.writeShadow, lasting_update, lasting_ite, ite_self]

@[simp] theorem State.writeFabric_lasting (s : State) (o v : Nat) : (State.writeFabric s o v).lasting = s.lasting := by
  simp only [State.writeFabric, State.writePortEn_lasting, State.retrain_lasting, State.forceDown_lasting, State.clearErgCounts_lasting,
      State.writeShadow_lasting, lasting_update, lasting_ite, ite_self]

@[simp] theorem State.writeColl_lasting (s : State) (o v : Nat) : (State.writeColl s o v).lasting = s.lasting := by
  simp only [State.writeColl, State.clearCollCounts_lasting, lasting_update, lasting_ite, ite_self]

@[simp] theorem State.writeMem_lasting (s : State) (o v : Nat) : (State.writeMem s o v).lasting = s.lasting := by
  simp only [State.writeMem, State.modLog_lasting, State.writeScrub_lasting, State.clearSource_lasting, lasting_update, lasting_ite, ite_self]

@[simp] theorem State.writeSel_lasting (s : State) (side : Side) (o v : Nat) : (State.writeSel s side o v).lasting = s.lasting := by
  unfold State.writeSel
  have h : ∀ (k : Cairn) (x : CairnSel), (k.setWindow side x).store = k.store := by intro k x; cases side <;> rfl
  have h2 : ∀ (v : BitVec 32), (s.cairn.load side v).store = s.cairn.store := by
    intro v; unfold Cairn.load; dsimp only; repeat' split
    all_goals exact h _ _
  split
  · simp only [State.lasting, h]
  · split
    · simp only [State.lasting, h2]
    · rfl

@[simp] theorem State.writeBar0_lasting (s : State) (o v : Nat) : (State.writeBar0 s o v).lasting = s.lasting := by
  simp only [State.writeBar0, State.coreWindow_lasting, State.writeIdent_lasting, State.writeQueue_lasting, State.writePower_lasting,
      State.writeFabric_lasting, State.writeColl_lasting, State.writeMem_lasting, State.writeSel_lasting, lasting_ite, ite_self]

@[simp] theorem State.writeMail_lasting (s : State) (m : Fin 16) (a : Agent) (o v : Nat) : (State.writeMail s m a o v).lasting = s.lasting := by
  unfold State.writeMail
  dsimp only
  repeat' split
  all_goals simp only [State.modMail_lasting, State.mailRefused_lasting, State.mailClaim_lasting, State.mailGo_lasting,
      State.mailRelease_lasting, State.mailCode_lasting]

@[simp] theorem State.writeMsix_lasting (s : State) (o v : Nat) : (State.writeMsix s o v).lasting = s.lasting := by
  unfold State.writeMsix
  extract_lets n e e' t
  split
  · exact (State.send_lasting ..).trans rfl
  · rfl

@[simp] theorem State.doorbell_lasting (s : State) (q : Fin 8) (cpl : Bool) (v : Reg) : (State.doorbell s q cpl v).lasting = s.lasting := by
  have key : ∀ t, (if cpl then execCplHeadDoorbell q v s else execCmdTailDoorbell q v s) = .next t → t.lasting = s.lasting := by
    intro t h
    split at h
    · unfold execCplHeadDoorbell at h
      injection h with h
      rw [← h]
      simp only [lasting_ite, State.releaseHeld_lasting, State.modQueue_lasting, ite_self]
    · unfold execCmdTailDoorbell at h
      injection h with h
      rw [← h]
      simp only [lasting_ite, State.modQueue_lasting, ite_self]
  unfold State.doorbell
  generalize (if cpl then execCplHeadDoorbell q v s else execCmdTailDoorbell q v s) = o at key
  cases o with
  | next t => exact key t rfl
  | fault _ => rfl
  | refused _ => rfl

@[simp] theorem State.writeConfig_lasting (s : State) (off v : Nat) : (State.writeConfig s off v).lasting = s.lasting := by
  unfold State.writeConfig
  dsimp only
  split
  · rfl
  · refine (lasting_foldl _ _ (fun x n => ?_) _).trans rfl
    split <;> rfl

@[simp] theorem State.writeAgent_lasting (s : State) (a : Agent) (o v : Nat) : (State.writeAgent s a o v).lasting = s.lasting := by
  unfold State.writeAgent
  dsimp only
  split
  · exact State.writeMail_lasting ..
  · rfl

@[simp] theorem State.writeBar4_lasting (s : State) (o v : Nat) : (State.writeBar4 s o v).lasting = s.lasting := by
  simp only [State.writeBar4, State.writeMail_lasting, State.writeMsix_lasting, State.doorbell_lasting, lasting_ite, ite_self]

/-! Operations of Machine/I3c.lean. -/

@[simp] theorem State.writeRmcCtrl_lasting (s : State) (v : Nat) : (State.writeRmcCtrl s v).lasting = s.lasting := by
  simp only [State.writeRmcCtrl, State.rmcResetKey_lasting, State.mainOnWrite_lasting, State.mainOffWrite_lasting, lasting_update, lasting_ite,
      ite_self]

@[simp] theorem State.writeRmc_lasting (s : State) (o v : Nat) : (State.writeRmc s o v).lasting = s.lasting := by
  simp only [State.writeRmc, State.modNotar_lasting, State.txGo_lasting, State.rxDone_lasting, State.modPower_lasting, State.writeCoord_lasting,
      State.clearPm_lasting, State.writeSel_lasting, State.writeMail_lasting,
      State.mainOnWrite_lasting, State.writeRmcCtrl_lasting, lasting_ite, ite_self]

@[simp] theorem State.i3cBytes_lasting (n : Nat) (s : State) (off : Nat) (l : List Byte) : (State.i3cBytes n s off l).lasting = s.lasting := by
  induction n generalizing s off l with
  | zero => rfl
  | succ k ih =>
    unfold State.i3cBytes
    repeat' (first
      | with_reducible rfl | dsimp only | simp only [State.modPower_lasting, State.writeRmc_lasting, ih] | split)

@[simp] theorem State.i3cIgnored_lasting (s : State) : (State.i3cIgnored s).lasting = s.lasting := rfl

@[simp] theorem State.i3cWrite_lasting (s : State) (bytes : List Byte) : (State.i3cWrite s bytes).lasting = s.lasting := by
  unfold State.i3cWrite
  dsimp only
  split
  · rfl
  · rw [State.i3cBytes_lasting, State.modPower_lasting]

@[simp] theorem State.i3cRegs_lasting (n : Nat) (s : State) : (State.i3cRegs n s).2.lasting = s.lasting := by
  induction n generalizing s with
  | zero => rfl
  | succ k ih =>
    unfold State.i3cRegs
    dsimp only
    rw [ih, State.modPower_lasting]

@[simp] theorem State.i3cRead_lasting (s : State) (n : Nat) : (State.i3cRead s n).lasting = s.lasting := by
  unfold State.i3cRead
  dsimp only
  repeat' split
  all_goals simp only [State.i3cIgnored_lasting, State.send_lasting, State.i3cRegs_lasting]

theorem State.i3cAnswer_lasting (s : State) (l : List Byte) (t : State) (h : s.i3cAnswer l = .next t) : t.lasting = s.lasting := by
  cases h
  simp only [lasting_ite, State.send_lasting, ite_self]

/-! Operations of Machine/QanatGroup.lean. -/

end Sys2Proof.Machine
end

