-- ==== Sys2Proof/Laws/LastingExec.lean ====
section
/-! SUPPORT. For each command but the three that write a Cairn record: its next state has the waiting commands, the fuses and Cairn's
record store of the state before it (`State.lasting`, Laws/Lasting.lean). -/

namespace Sys2Proof.Machine

theorem execNop_lasting (c : CoreId) (k : StreamId) (s : State) (t' : State) (h : execNop c k s = .next t') : t'.lasting = s.lasting := by
  cases h
  simp only [State.issue_lasting]

theorem execHalt_lasting (c : CoreId) (k : StreamId) (s : State) (t' : State) (h : execHalt c k s = .next t') : t'.lasting = s.lasting := by
  cases h
  simp only [State.issue_lasting]

theorem execEvent_lasting (c : CoreId) (k : StreamId) (s : State) (t' : State) (h : execEvent c k s = .next t') : t'.lasting = s.lasting := by
  cases h
  simp only [State.issue_lasting]

theorem execCset_lasting (c : CoreId) (k : StreamId) (s : State) (t' : State) (h : execCset c k s = .next t') : t'.lasting = s.lasting := by
  cases h
  simp only [State.issue_lasting]

theorem execCinc_lasting (c : CoreId) (k : StreamId) (s : State) (t' : State) (h : execCinc c k s = .next t') : t'.lasting = s.lasting := by
  cases h
  simp only [State.issue_lasting]

theorem execCmpset_lasting (c : CoreId) (k : StreamId) (s : State) (t' : State) (h : execCmpset c k s = .next t') : t'.lasting = s.lasting := by
  cases h
  simp only [State.issue_lasting]

theorem execBr_lasting (c : CoreId) (k : StreamId) (s : State) (t' : State) (h : execBr c k s = .next t') : t'.lasting = s.lasting := by
  cases h
  simp only [State.issue_lasting]

theorem execBrc_lasting (c : CoreId) (k : StreamId) (s : State) (t' : State) (h : execBrc c k s = .next t') : t'.lasting = s.lasting := by
  cases h
  simp only [State.issue_lasting]

theorem execBrn_lasting (c : CoreId) (k : StreamId) (s : State) (t' : State) (h : execBrn c k s = .next t') : t'.lasting = s.lasting := by
  cases h
  simp only [State.issue_lasting]

theorem execHswitch_lasting (c : CoreId) (k : StreamId) (s : State) (t' : State) (h : execHswitch c k s = .next t') : t'.lasting = s.lasting := by
  cases h
  simp only [State.issue_lasting]

theorem execTwait_lasting (c : CoreId) (k : StreamId) (s : State) (t' : State) (h : execTwait c k s = .next t') : t'.lasting = s.lasting := by
  cases h
  simp only [State.issue_lasting]

theorem execTwaitGrant_lasting (c : CoreId) (k : StreamId) (s : State) (t' : State) (h : execTwaitGrant c k s = .next t') : t'.lasting =
    s.lasting := by
  cases h
  simp only [State.atCore_lasting]

theorem execTpost_lasting (c : CoreId) (k : StreamId) (s : State) (t' : State) (h : execTpost c k s = .next t') : t'.lasting = s.lasting := by
  cases h
  simp only [State.issue_lasting]

theorem execTokenPost_lasting (c : CoreId) (i : Nat) (s : State) (t' : State) (h : execTokenPost c i s = .next t') : t'.lasting = s.lasting := by
  cases h
  simp only [State.atCore_lasting]

theorem execQpush_lasting (c : CoreId) (k : StreamId) (s : State) (t' : State) (h : execQpush c k s = .next t') : t'.lasting = s.lasting := by
  cases h
  simp only [State.issue_lasting]

theorem execLctx_lasting (c : CoreId) (k : StreamId) (s : State) (t' : State) (h : execLctx c k s = .next t') : t'.lasting = s.lasting := by
  cases h
  simp only [State.issue_lasting]

theorem execMatmul_lasting (c : CoreId) (k : StreamId) (s : State) (t' : State) (h : execMatmul c k s = .next t') : t'.lasting = s.lasting := by
  cases h
  simp only [State.issue_lasting]

theorem execP96Accumulate_lasting (c : CoreId) (s : State) (t' : State) (h : execP96Accumulate c s = .next t') : t'.lasting = s.lasting := by
  cases h
  simp only [State.atCore_lasting]

theorem execWload_lasting (c : CoreId) (k : StreamId) (s : State) (t' : State) (h : execWload c k s = .next t') : t'.lasting = s.lasting := by
  cases h
  simp only [State.issue_lasting]

theorem execWloadComplete_lasting (c : CoreId) (s : State) (t' : State) (h : execWloadComplete c s = .next t') : t'.lasting = s.lasting := by
  cases h
  simp only [State.atCore_lasting]

theorem execWswap_lasting (c : CoreId) (k : StreamId) (s : State) (t' : State) (h : execWswap c k s = .next t') : t'.lasting = s.lasting := by
  cases h
  simp only [State.issue_lasting]

theorem execDrain_lasting (c : CoreId) (k : StreamId) (s : State) (t' : State) (h : execDrain c k s = .next t') : t'.lasting = s.lasting := by
  cases h
  simp only [State.issue_lasting]

theorem execBankTailEnd_lasting (c : CoreId) (s : State) (t' : State) (h : execBankTailEnd c s = .next t') : t'.lasting = s.lasting := by
  cases h
  simp only [State.atCore_lasting]

theorem execBankDrainEnd_lasting (c : CoreId) (s : State) (t' : State) (h : execBankDrainEnd c s = .next t') : t'.lasting = s.lasting := by
  cases h
  simp only [State.atCore_lasting]

theorem execBfill_lasting (c : CoreId) (k : StreamId) (s : State) (t' : State) (h : execBfill c k s = .next t') : t'.lasting = s.lasting := by
  cases h
  simp only [State.issue_lasting]

theorem execBfillComplete_lasting (c : CoreId) (s : State) (t' : State) (h : execBfillComplete c s = .next t') : t'.lasting = s.lasting := by
  cases h
  simp only [State.atCore_lasting]

theorem execVfp_lasting (c : CoreId) (k : StreamId) (s : State) (t' : State) (h : execVfp c k s = .next t') : t'.lasting = s.lasting := by
  cases h
  simp only [State.issue_lasting]

theorem execVint_lasting (c : CoreId) (k : StreamId) (s : State) (t' : State) (h : execVint c k s = .next t') : t'.lasting = s.lasting := by
  cases h
  simp only [State.issue_lasting]

theorem execVxl_lasting (c : CoreId) (k : StreamId) (s : State) (t' : State) (h : execVxl c k s = .next t') : t'.lasting = s.lasting := by
  cases h
  simp only [State.issue_lasting]

theorem execVcvt_lasting (c : CoreId) (k : StreamId) (s : State) (t' : State) (h : execVcvt c k s = .next t') : t'.lasting = s.lasting := by
  cases h
  simp only [State.issue_lasting]

theorem execNopen_lasting (c : CoreId) (k : StreamId) (s : State) (t' : State) (h : execNopen c k s = .next t') : t'.lasting = s.lasting := by
  cases h
  simp only [State.issue_lasting]

theorem execNacc_lasting (c : CoreId) (k : StreamId) (s : State) (t' : State) (h : execNacc c k s = .next t') : t'.lasting = s.lasting := by
  cases h
  simp only [State.issue_lasting]

theorem execNsq_lasting (c : CoreId) (k : StreamId) (s : State) (t' : State) (h : execNsq c k s = .next t') : t'.lasting = s.lasting := by
  cases h
  simp only [State.issue_lasting]

theorem execNdot_lasting (c : CoreId) (k : StreamId) (s : State) (t' : State) (h : execNdot c k s = .next t') : t'.lasting = s.lasting := by
  cases h
  simp only [State.issue_lasting]

theorem execNread_lasting (c : CoreId) (k : StreamId) (s : State) (t' : State) (h : execNread c k s = .next t') : t'.lasting = s.lasting := by
  cases h
  simp only [State.issue_lasting]

theorem execMwadd_lasting (c : CoreId) (k : StreamId) (s : State) (t' : State) (h : execMwadd c k s = .next t') : t'.lasting = s.lasting := by
  cases h
  simp only [State.issue_lasting]

theorem execMwaddn_lasting (c : CoreId) (k : StreamId) (s : State) (t' : State) (h : execMwaddn c k s = .next t') : t'.lasting = s.lasting := by
  cases h
  simp only [State.issue_lasting]

theorem execMwrite_lasting (c : CoreId) (k : StreamId) (s : State) (t' : State) (h : execMwrite c k s = .next t') : t'.lasting = s.lasting := by
  cases h
  simp only [State.issue_lasting]

theorem execMread_lasting (c : CoreId) (k : StreamId) (s : State) (t' : State) (h : execMread c k s = .next t') : t'.lasting = s.lasting := by
  cases h
  simp only [State.issue_lasting]

theorem execDrop_lasting (c : CoreId) (k : StreamId) (s : State) (t' : State) (h : execDrop c k s = .next t') : t'.lasting = s.lasting := by
  cases h
  simp only [State.issue_lasting]

theorem execVld_lasting (c : CoreId) (k : StreamId) (s : State) (t' : State) (h : execVld c k s = .next t') : t'.lasting = s.lasting := by
  cases h
  simp only [State.issue_lasting]

theorem execVst_lasting (c : CoreId) (k : StreamId) (s : State) (t' : State) (h : execVst c k s = .next t') : t'.lasting = s.lasting := by
  cases h
  simp only [State.issue_lasting]

theorem execScratchpadWriteEffect_lasting (c : CoreId) (s : State) (t' : State) (h : execScratchpadWriteEffect c s = .next t') : t'.lasting =
    s.lasting := by
  cases h
  simp only [State.atCore_lasting]

theorem execVuResultWriteback_lasting (c : CoreId) (s : State) (t' : State) (h : execVuResultWriteback c s = .next t') : t'.lasting = s.lasting := by
  cases h
  simp only [State.atCore_lasting]

theorem execProgressWatchdogExpiry_lasting (c : CoreId) (k : StreamId) (s : State) (t' : State) (h : execProgressWatchdogExpiry c k s = .next t')
    : t'.lasting = s.lasting := by
  cases h
  simp only [State.atCore_lasting]

theorem execEventCompletionPost_lasting (c : CoreId) (k : StreamId) (s : State) (t' : State) (h : execEventCompletionPost c k s = .next t') :
    t'.lasting = s.lasting := by
  cases h
  dsimp only
  repeat' split
  all_goals simp only [State.setCore_lasting, State.reportLaunch_lasting]

theorem execHalfLoaded_lasting (c : CoreId) (k : StreamId) (half : Bool) (s : State) (t' : State) (h : execHalfLoaded c k half s = .next t') :
    t'.lasting = s.lasting := by
  cases h
  dsimp only
  repeat' split
  all_goals simp only [State.setCore_lasting, State.post_lasting, State.endCmd_lasting, State.keepCmd_lasting]

theorem execLaunchComplete_lasting (src : CmdSrc) (s : State) (t' : State) (h : execLaunchComplete src s = .next t') : t'.lasting = s.lasting := by
  cases h
  repeat' (first
    | with_reducible rfl | dsimp only
    | simp only [State.onCore_lasting, State.endCmd_lasting, State.launchStep_lasting, lasting_update]
    | refine (lasting_of_eq (by assumption)).trans ?_ | refine (lasting_of_eq3 (by assumption)).trans ?_
    | refine (lasting_foldl_snd _ _ (fun _ _ => ?_) _).trans ?_ | refine (lasting_foldl _ _ (fun _ _ => ?_) _).trans ?_
    | split)

theorem execQanatDescriptorStart_lasting (c : CoreId) (ch : Fin 4) (s : State) (t' : State) (h : execQanatDescriptorStart c ch s = .next t') :
    t'.lasting = s.lasting := by
  cases h
  simp only [State.qStart_lasting, lasting_ite, ite_self]

theorem execQanatReadDone_lasting (c : CoreId) (ch : Fin 4) (s : State) (t' : State) (h : execQanatReadDone c ch s = .next t') : t'.lasting =
    s.lasting := by
  cases h
  simp only [State.qReadDone_lasting, lasting_ite, ite_self]

theorem execQanatDescriptorRetire_lasting (c : CoreId) (ch : Fin 4) (s : State) (t' : State) (h : execQanatDescriptorRetire c ch s = .next t') :
    t'.lasting = s.lasting := by
  cases h
  simp only [State.qRetire_lasting, lasting_ite, ite_self]

theorem execPatrolScrubRead_lasting (k : ScrubClass) (s : State) (t' : State) (h : execPatrolScrubRead k s = .next t') : t'.lasting = s.lasting := by
  cases h
  dsimp only
  repeat' split
  all_goals simp only [State.readDram_lasting, lasting_update]

theorem execScrubPeriodExpiry_lasting (k : ScrubClass) (s : State) (t' : State) (h : execScrubPeriodExpiry k s = .next t') : t'.lasting =
    s.lasting := by
  cases h
  simp only [lasting_update, lasting_ite, ite_self]

theorem execFillComplete_lasting (s : State) (t' : State) (h : execFillComplete s = .next t') : t'.lasting = s.lasting := by
  cases h
  repeat' (first
    | with_reducible rfl | dsimp only
    | simp only [State.draw_lasting, State.oneCycle_lasting, State.clearLevels_lasting, State.freeMail_lasting, State.setState_lasting, State.record_lasting, State.loadMicrocode_lasting, State.modPower_lasting, State.startupFailed_lasting, lasting_update, lasting_ite, ite_self]
    | refine (lasting_of_eq (by assumption)).trans ?_ | refine (lasting_of_eq3 (by assumption)).trans ?_
    | refine (lasting_foldl_snd _ _ (fun _ _ => ?_) _).trans ?_ | refine (lasting_foldl _ _ (fun _ _ => ?_) _).trans ?_
    | split)

theorem execLinkFrame_lasting (p : Fin 16) (seq : BitVec 12) (check : FrameCheck) (s : State) (t' : State) (h : execLinkFrame p seq check s = .next t')
    : t'.lasting = s.lasting := by
  cases h
  simp only [State.send_lasting, State.modPort_lasting, lasting_ite, ite_self]

theorem execLinkNak_lasting (p : Fin 16) (seq : BitVec 12) (s : State) (t' : State) (h : execLinkNak p seq s = .next t') : t'.lasting = s.lasting
    := by
  cases h
  simp only [State.modPort_lasting, State.setLink_lasting, State.resendFrames_lasting, lasting_ite, ite_self]

theorem execLinkTrainingComplete_lasting (p : Fin 16) (s : State) (t' : State) (h : execLinkTrainingComplete p s = .next t') : t'.lasting =
    s.lasting := by
  cases h
  repeat' (first
    | with_reducible rfl | dsimp only
    | simp only [State.setLink_lasting, State.resendFrames_lasting, State.transmit_lasting, lasting_ite, ite_self])

theorem execRetrainBudgetExpiry_lasting (p : Fin 16) (s : State) (t' : State) (h : execRetrainBudgetExpiry p s = .next t') : t'.lasting =
    s.lasting := by
  cases h
  simp only [State.setLink_lasting, lasting_ite, ite_self]

theorem execWrite_lasting (p : Fin 16) (pkt : ErgPacket) (s : State) (t' : State) (h : execWrite p pkt s = .next t') : t'.lasting = s.lasting := by
  cases h
  refine State.consumes_lasting _ _ _ _ _ fun s => ?_
  simp only [State.sequenceRequest_lasting]

theorem execRead_lasting (p : Fin 16) (pkt : ErgPacket) (s : State) (t' : State) (h : execRead p pkt s = .next t') : t'.lasting = s.lasting := by
  cases h
  refine State.consumes_lasting _ _ _ _ _ fun s => ?_
  simp only [State.sequenceRequest_lasting]

theorem execReadData_lasting (p : Fin 16) (pkt : ErgPacket) (s : State) (t' : State) (h : execReadData p pkt s = .next t') : t'.lasting =
    s.lasting := by
  cases h
  refine State.consumes_lasting _ _ _ _ _ fun s => ?_
  repeat' (first
    | with_reducible rfl | dsimp only
    | simp only [State.takePayload_lasting, State.deliver_lasting, State.crossing_lasting, lasting_update]
    | refine (lasting_of_eq (by assumption)).trans ?_ | refine (lasting_of_eq3 (by assumption)).trans ?_
    | refine (lasting_foldl_snd _ _ (fun _ _ => ?_) _).trans ?_ | refine (lasting_foldl _ _ (fun _ _ => ?_) _).trans ?_
    | split)

theorem execStatus_lasting (p : Fin 16) (pkt : ErgPacket) (s : State) (t' : State) (h : execStatus p pkt s = .next t') : t'.lasting = s.lasting := by
  cases h
  refine State.consumes_lasting _ _ _ _ _ fun s => ?_
  dsimp only
  repeat' split
  all_goals simp only [State.park_lasting, State.deliver_lasting, lasting_update]

theorem execAck_lasting (p : Fin 16) (pkt : ErgPacket) (s : State) (t' : State) (h : execAck p pkt s = .next t') : t'.lasting = s.lasting := by
  cases h
  refine State.consumes_lasting _ _ _ _ _ fun s => ?_
  simp only [State.ackStream_lasting, State.checkQuiet_lasting, State.deliver_lasting]

theorem execQuiet_lasting (p : Fin 16) (pkt : ErgPacket) (s : State) (t' : State) (h : execQuiet p pkt s = .next t') : t'.lasting = s.lasting := by
  cases h
  refine State.consumes_lasting _ _ _ _ _ fun s => ?_
  simp only [State.checkQuiet_lasting, lasting_update, lasting_ite, ite_self]

theorem execBounce_lasting (p : Fin 16) (pkt : ErgPacket) (s : State) (t' : State) (h : execBounce p pkt s = .next t') : t'.lasting = s.lasting := by
  cases h
  refine State.consumes_lasting _ _ _ _ _ fun s => ?_
  simp only [State.applyRequest_lasting, State.resend_lasting, State.respond_lasting, State.deliver_lasting, lasting_update, lasting_ite, ite_self]

theorem execAckTimerExpiry_lasting (src : BitVec 12) (sid : BitVec 16) (s : State) (t' : State) (h : execAckTimerExpiry src sid s = .next t') :
    t'.lasting = s.lasting := by
  cases h
  repeat' split
  all_goals simp only [State.sendAck_lasting]

theorem execResendTimerExpiry_lasting (dst : BitVec 12) (sid : BitVec 16) (seq : BitVec 32) (s : State) (t' : State) (h : execResendTimerExpiry
    dst sid seq s = .next t') : t'.lasting = s.lasting := by
  cases h
  simp only [State.resend_lasting, State.checkQuiet_lasting, State.deliver_lasting]

theorem execNrHoldExpiry_lasting (i : Nat) (s : State) (t' : State) (h : execNrHoldExpiry i s = .next t') : t'.lasting = s.lasting := by
  cases h
  repeat' (first
    | with_reducible rfl | dsimp only | simp only [State.deliver_lasting, lasting_update]
    | refine (lasting_of_eq (by assumption)).trans ?_ | refine (lasting_of_eq3 (by assumption)).trans ?_
    | refine (lasting_foldl_snd _ _ (fun _ _ => ?_) _).trans ?_ | refine (lasting_foldl _ _ (fun _ _ => ?_) _).trans ?_
    | split)

theorem execQuietToExpiry_lasting (s : State) (t' : State) (h : execQuietToExpiry s = .next t') : t'.lasting = s.lasting := by
  cases h
  dsimp only
  repeat' split
  all_goals simp only [State.endTimeout_lasting, lasting_update]

theorem execContribution_lasting (s : State) (t' : State) (h : execContribution s = .next t') : t'.lasting = s.lasting := by
  cases h
  repeat' (first
    | with_reducible rfl | dsimp only | simp only [State.takeContribution_lasting, State.contributed_lasting]
    | refine (lasting_of_eq (by assumption)).trans ?_ | refine (lasting_of_eq3 (by assumption)).trans ?_
    | refine (lasting_foldl_snd _ _ (fun _ _ => ?_) _).trans ?_ | refine (lasting_foldl _ _ (fun _ _ => ?_) _).trans ?_
    | split)

theorem execInstanceAdmit_lasting (i : InstId) (s : State) (t' : State) (h : execInstanceAdmit i s = .next t') : t'.lasting = s.lasting := by
  cases h
  simp only [State.admitInst_lasting]

theorem execUpData_lasting (p : Fin 16) (pkt : ErgPacket) (s : State) (t' : State) (h : execUpData p pkt s = .next t') : t'.lasting = s.lasting := by
  cases h
  simp only [State.collArrives_lasting]

theorem execUpMeta_lasting (p : Fin 16) (pkt : ErgPacket) (s : State) (t' : State) (h : execUpMeta p pkt s = .next t') : t'.lasting = s.lasting := by
  cases h
  simp only [State.collArrives_lasting]

theorem execNodeOutput_lasting (r : NodeRun) (s : State) (t' : State) (h : execNodeOutput r s = .next t') : t'.lasting = s.lasting := by
  cases h
  simp only [State.nodeOutput_lasting]

theorem execDownData_lasting (p : Fin 16) (pkt : ErgPacket) (s : State) (t' : State) (h : execDownData p pkt s = .next t') : t'.lasting =
    s.lasting := by
  cases h
  simp only [State.collArrives_lasting]

theorem execDownMeta_lasting (p : Fin 16) (pkt : ErgPacket) (s : State) (t' : State) (h : execDownMeta p pkt s = .next t') : t'.lasting =
    s.lasting := by
  cases h
  simp only [State.collArrives_lasting]

theorem execBack_lasting (p : Fin 16) (pkt : ErgPacket) (s : State) (t' : State) (h : execBack p pkt s = .next t') : t'.lasting = s.lasting := by
  cases h
  simp only [State.collArrives_lasting]

theorem execResendReq_lasting (p : Fin 16) (pkt : ErgPacket) (s : State) (t' : State) (h : execResendReq p pkt s = .next t') : t'.lasting =
    s.lasting := by
  cases h
  simp only [State.collArrives_lasting]

theorem execRedo_lasting (p : Fin 16) (pkt : ErgPacket) (s : State) (t' : State) (h : execRedo p pkt s = .next t') : t'.lasting = s.lasting := by
  cases h
  simp only [State.collArrives_lasting]

theorem execArriveData_lasting (p : Fin 16) (pkt : ErgPacket) (s : State) (t' : State) (h : execArriveData p pkt s = .next t') : t'.lasting =
    s.lasting := by
  cases h
  simp only [State.collArrives_lasting]

theorem execArriveMeta_lasting (p : Fin 16) (pkt : ErgPacket) (s : State) (t' : State) (h : execArriveMeta p pkt s = .next t') : t'.lasting =
    s.lasting := by
  cases h
  simp only [State.collArrives_lasting]

theorem execBucketTimeout_lasting (i : InstId) (s : State) (t' : State) (h : execBucketTimeout i s = .next t') : t'.lasting = s.lasting := by
  cases h
  simp only [State.bucketTimeout_lasting]

theorem execHostWindowRead_lasting (off len : Nat) (s : State) (t' : State) (h : execHostWindowRead off len s = .next t') : t'.lasting =
    s.lasting := by
  cases h
  simp only [State.send_lasting, State.ownRefused_lasting, State.unsupported_lasting, State.hostWords_lasting, lasting_ite, ite_self]

theorem execHostWindowWrite_lasting (off : Nat) (bytes : List Byte) (ep : Bool) (s : State) (t' : State) (h : execHostWindowWrite off bytes ep s
    = .next t') : t'.lasting = s.lasting := by
  cases h
  simp only [State.send_lasting, State.ownRefused_lasting, State.unsupported_lasting, State.hostBytes_lasting, lasting_ite, ite_self]

theorem execCmdTailDoorbell_lasting (q : Fin 8) (value : Reg) (s : State) (t' : State) (h : execCmdTailDoorbell q value s = .next t') :
    t'.lasting = s.lasting := by
  cases h
  simp only [State.modQueue_lasting, lasting_ite, ite_self]

theorem execCplHeadDoorbell_lasting (q : Fin 8) (value : Reg) (s : State) (t' : State) (h : execCplHeadDoorbell q value s = .next t') :
    t'.lasting = s.lasting := by
  cases h
  simp only [State.modQueue_lasting, State.releaseHeld_lasting, lasting_ite, ite_self]

theorem execCommandFetch_lasting (q : Fin 8) (s : State) (t' : State) (h : execCommandFetch q s = .next t') : t'.lasting = s.lasting := by
  cases h
  dsimp only
  repeat' split
  all_goals simp only [State.draw_lasting, State.readWord_lasting, State.modQueue_lasting, State.fetchedStep_lasting, State.takePacket_lasting]

theorem execCommandTimeout_lasting (src : CmdSrc) (i : Nat) (s : State) (t' : State) (h : execCommandTimeout src i s = .next t') : t'.lasting =
    s.lasting := by
  cases h
  dsimp only
  repeat' split
  all_goals simp only [State.replyTo_lasting, State.timeOut_lasting, lasting_update]

theorem execQueueEnable_lasting (q : Fin 8) (value : Reg) (s : State) (t' : State) (h : execQueueEnable q value s = .next t') : t'.lasting =
    s.lasting := by
  cases h
  simp only [State.writeQctrl_lasting, lasting_ite, ite_self]

theorem execQueueDisable_lasting (q : Fin 8) (value : Reg) (s : State) (t' : State) (h : execQueueDisable q value s = .next t') : t'.lasting =
    s.lasting := by
  cases h
  simp only [State.writeQctrl_lasting, lasting_ite, ite_self]

theorem execNopEcho_lasting (src : CmdSrc) (s : State) (t' : State) (h : execNopEcho src s = .next t') : t'.lasting = s.lasting := by
  cases h
  refine State.startCmd_lasting _ _ _ _ _ fun s c => ?_
  simp only [State.endCmd_lasting]

theorem execModuleInfo_lasting (src : CmdSrc) (s : State) (t' : State) (h : execModuleInfo src s = .next t') : t'.lasting = s.lasting := by
  cases h
  refine State.startCmd_lasting _ _ _ _ _ fun s c => ?_
  repeat' (first
    | with_reducible rfl | dsimp only
    | simp only [State.dma_lasting, State.modMail_lasting, State.endCmd_lasting]
    | refine (lasting_of_eq (by assumption)).trans ?_ | refine (lasting_of_eq3 (by assumption)).trans ?_
    | refine (lasting_foldl_snd _ _ (fun _ _ => ?_) _).trans ?_ | refine (lasting_foldl _ _ (fun _ _ => ?_) _).trans ?_
    | split)

theorem execMemCopy_lasting (src : CmdSrc) (s : State) (t' : State) (h : execMemCopy src s = .next t') : t'.lasting = s.lasting := by
  cases h
  refine State.startCmd_lasting _ _ _ _ _ fun s c => ?_
  simp only [State.copyGo_lasting]

theorem execMemFill_lasting (src : CmdSrc) (s : State) (t' : State) (h : execMemFill src s = .next t') : t'.lasting = s.lasting := by
  cases h
  refine State.startCmd_lasting _ _ _ _ _ fun s c => ?_
  simp only [State.fillGo_lasting]

theorem execPageMap_lasting (src : CmdSrc) (s : State) (t' : State) (h : execPageMap src s = .next t') : t'.lasting = s.lasting := by
  cases h
  refine State.startCmd_lasting _ _ _ _ _ fun s c => ?_
  simp only [State.endCmd_lasting, State.modPages_lasting]

theorem execPageUnmap_lasting (src : CmdSrc) (s : State) (t' : State) (h : execPageUnmap src s = .next t') : t'.lasting = s.lasting := by
  cases h
  refine State.startCmd_lasting _ _ _ _ _ fun s c => ?_
  simp only [State.endCmd_lasting, State.modPages_lasting]

theorem execPageResident_lasting (src : CmdSrc) (s : State) (t' : State) (h : execPageResident src s = .next t') : t'.lasting = s.lasting := by
  cases h
  refine State.startCmd_lasting _ _ _ _ _ fun s c => ?_
  simp only [State.endCmd_lasting, State.modPages_lasting]

theorem execWindowOwn_lasting (src : CmdSrc) (s : State) (t' : State) (h : execWindowOwn src s = .next t') : t'.lasting = s.lasting := by
  cases h
  refine State.startCmd_lasting _ _ _ _ _ fun s c => ?_
  simp only [State.endCmd_lasting, lasting_update]

theorem execImemLoad_lasting (src : CmdSrc) (s : State) (t' : State) (h : execImemLoad src s = .next t') : t'.lasting = s.lasting := by
  cases h
  refine State.startCmd_lasting _ _ _ _ _ fun s c => ?_
  simp only [State.cmdRead_lasting, State.modHalves_lasting, State.imemGo_lasting]

theorem execLaunch_lasting (src : CmdSrc) (s : State) (t' : State) (h : execLaunch src s = .next t') : t'.lasting = s.lasting := by
  cases h
  refine State.startCmd_lasting _ _ _ _ _ fun s c => ?_
  repeat' (first
    | with_reducible rfl | dsimp only
    | simp only [State.setCore_lasting, State.modStep_lasting, State.keepEnd_lasting, lasting_update]
    | refine (lasting_of_eq (by assumption)).trans ?_ | refine (lasting_of_eq3 (by assumption)).trans ?_
    | refine (lasting_foldl_snd _ _ (fun _ _ => ?_) _).trans ?_ | refine (lasting_foldl _ _ (fun _ _ => ?_) _).trans ?_)

theorem execStreamResume_lasting (src : CmdSrc) (s : State) (t' : State) (h : execStreamResume src s = .next t') : t'.lasting = s.lasting := by
  cases h
  refine State.startCmd_lasting _ _ _ _ _ fun s c => ?_
  simp only [State.resumeGo_lasting]

theorem execStreamResumeDiscardHead_lasting (src : CmdSrc) (s : State) (t' : State) (h : execStreamResumeDiscardHead src s = .next t') :
    t'.lasting = s.lasting := by
  cases h
  refine State.startCmd_lasting _ _ _ _ _ fun s c => ?_
  simp only [State.resumeGo_lasting]

theorem execStreamResumeDiscardAll_lasting (src : CmdSrc) (s : State) (t' : State) (h : execStreamResumeDiscardAll src s = .next t') : t'.lasting
    = s.lasting := by
  cases h
  refine State.startCmd_lasting _ _ _ _ _ fun s c => ?_
  simp only [State.resumeGo_lasting]

theorem execCoreHalt_lasting (src : CmdSrc) (s : State) (t' : State) (h : execCoreHalt src s = .next t') : t'.lasting = s.lasting := by
  cases h
  refine State.startCmd_lasting _ _ _ _ _ fun s c => ?_
  simp only [State.endCmd_lasting, State.haltStreams_lasting]

theorem execCollSetup_lasting (src : CmdSrc) (s : State) (t' : State) (h : execCollSetup src s = .next t') : t'.lasting = s.lasting := by
  cases h
  refine State.startCmd_lasting _ _ _ _ _ fun s c => ?_
  simp only [State.endCmd_lasting, lasting_update]

theorem execExchange_lasting (src : CmdSrc) (s : State) (t' : State) (h : execExchange src s = .next t') : t'.lasting = s.lasting := by
  cases h
  refine State.startCmd_lasting _ _ _ _ _ fun s c => ?_
  simp only [State.exchangeGo_lasting]

theorem execScaleSet_lasting (src : CmdSrc) (s : State) (t' : State) (h : execScaleSet src s = .next t') : t'.lasting = s.lasting := by
  cases h
  refine State.startCmd_lasting _ _ _ _ _ fun s c => ?_
  repeat' (first
    | with_reducible rfl | dsimp only | simp only [State.xscaleWrite_lasting, State.endCmd_lasting]
    | refine (lasting_of_eq (by assumption)).trans ?_ | refine (lasting_of_eq3 (by assumption)).trans ?_
    | refine (lasting_foldl_snd _ _ (fun _ _ => ?_) _).trans ?_ | refine (lasting_foldl _ _ (fun _ _ => ?_) _).trans ?_)

theorem execJobOpen_lasting (src : CmdSrc) (s : State) (t' : State) (h : execJobOpen src s = .next t') : t'.lasting = s.lasting := by
  cases h
  refine State.startCmd_lasting _ _ _ _ _ fun s c => ?_
  repeat' (first
    | with_reducible rfl | dsimp only
    | simp only [State.endCmd_lasting, State.engineWords_lasting, State.judgeRanks_lasting, State.jobOpenGo_lasting, State.cmdRead_lasting, State.keepCmd_lasting, lasting_ite]
    | refine (lasting_of_eq (by assumption)).trans ?_ | refine (lasting_of_eq3 (by assumption)).trans ?_
    | refine (lasting_foldl_snd _ _ (fun _ _ => ?_) _).trans ?_ | refine (lasting_foldl _ _ (fun _ _ => ?_) _).trans ?_
    | split)

theorem execJobClose_lasting (src : CmdSrc) (s : State) (t' : State) (h : execJobClose src s = .next t') : t'.lasting = s.lasting := by
  cases h
  refine State.startCmd_lasting _ _ _ _ _ fun s c => ?_
  simp only [State.waitQuiet_lasting, State.closeWork_lasting]

theorem execTeardownToExpiry_lasting (s : State) (t' : State) (h : execTeardownToExpiry s = .next t') : t'.lasting = s.lasting := by
  cases h
  dsimp only
  repeat' split
  all_goals simp only [State.closeScrub_lasting, lasting_update]

theorem execJobCloseScrubDone_lasting (s : State) (t' : State) (h : execJobCloseScrubDone s = .next t') : t'.lasting = s.lasting := by
  cases h
  repeat' (first
    | with_reducible rfl | dsimp only
    | simp only [State.oneCycle_lasting, State.record_lasting, State.endCmd_lasting, State.closeEnd_lasting]
    | refine (lasting_of_eq (by assumption)).trans ?_ | refine (lasting_of_eq3 (by assumption)).trans ?_
    | refine (lasting_foldl_snd _ _ (fun _ _ => ?_) _).trans ?_ | refine (lasting_foldl _ _ (fun _ _ => ?_) _).trans ?_
    | split)

theorem execModeSet_lasting (src : CmdSrc) (s : State) (t' : State) (h : execModeSet src s = .next t') : t'.lasting = s.lasting := by
  cases h
  refine State.startCmd_lasting _ _ _ _ _ fun s c => ?_
  simp only [State.endCmd_lasting, lasting_update]

theorem execStepCloseRequest_lasting (src : CmdSrc) (s : State) (t' : State) (h : execStepCloseRequest src s = .next t') : t'.lasting = s.lasting
    := by
  cases h
  refine State.startCmd_lasting _ _ _ _ _ fun s c => ?_
  simp only [State.modStep_lasting, State.endCmd_lasting, lasting_update]

theorem execStepClose_lasting (step : BitVec 32) (s : State) (t' : State) (h : execStepClose step s = .next t') : t'.lasting = s.lasting := by
  cases h
  repeat' (first
    | with_reducible rfl | dsimp only | simp only [State.closeStep_lasting, lasting_ite, ite_self]
    | refine (lasting_of_eq (by assumption)).trans ?_ | refine (lasting_of_eq3 (by assumption)).trans ?_
    | refine (lasting_foldl_snd _ _ (fun _ _ => ?_) _).trans ?_ | refine (lasting_foldl _ _ (fun _ _ => ?_) _).trans ?_
    | split)

theorem execStepCommit_lasting (src : CmdSrc) (s : State) (t' : State) (h : execStepCommit src s = .next t') : t'.lasting = s.lasting := by
  cases h
  refine State.startCmd_lasting _ _ _ _ _ fun s c => ?_
  simp only [State.scaleCommit_lasting, State.endCmd_lasting, State.pendingCurrent_lasting, State.setCommitted_lasting, lasting_update,
      lasting_ite, ite_self]

theorem execStepAbort_lasting (src : CmdSrc) (s : State) (t' : State) (h : execStepAbort src s = .next t') : t'.lasting = s.lasting := by
  cases h
  refine State.startCmd_lasting _ _ _ _ _ fun s c => ?_
  simp only [State.waitQuiet_lasting, State.abortWork_lasting]

theorem execStepAbortFenceClear_lasting (src : CmdSrc) (s : State) (t' : State) (h : execStepAbortFenceClear src s = .next t') : t'.lasting =
    s.lasting := by
  cases h
  refine State.startCmd_lasting _ _ _ _ _ fun s c => ?_
  simp only [State.endCmd_lasting, lasting_update]

theorem execCheckpoint_lasting (src : CmdSrc) (s : State) (t' : State) (h : execCheckpoint src s = .next t') : t'.lasting = s.lasting := by
  cases h
  refine State.startCmd_lasting _ _ _ _ _ fun s c => ?_
  simp only [State.checkpointGo_lasting]

theorem execRestore_lasting (src : CmdSrc) (s : State) (t' : State) (h : execRestore src s = .next t') : t'.lasting = s.lasting := by
  cases h
  refine State.startCmd_lasting _ _ _ _ _ fun s c => ?_
  simp only [State.cmdRead_lasting, State.restoreGo_lasting]

theorem execRankRemap_lasting (src : CmdSrc) (s : State) (t' : State) (h : execRankRemap src s = .next t') : t'.lasting = s.lasting := by
  cases h
  refine State.startCmd_lasting _ _ _ _ _ fun s c => ?_
  simp only [State.endCmd_lasting, lasting_update]

theorem execRouteSwap_lasting (src : CmdSrc) (s : State) (t' : State) (h : execRouteSwap src s = .next t') : t'.lasting = s.lasting := by
  cases h
  refine State.startCmd_lasting _ _ _ _ _ fun s c => ?_
  simp only [State.waitQuiet_lasting, lasting_update]

theorem execDiagPatrol_lasting (src : CmdSrc) (s : State) (t' : State) (h : execDiagPatrol src s = .next t') : t'.lasting = s.lasting := by
  cases h
  refine State.startCmd_lasting _ _ _ _ _ fun s c => ?_
  rfl

theorem execDiagPatrolEnd_lasting (s : State) (t' : State) (h : execDiagPatrolEnd s = .next t') : t'.lasting = s.lasting := by
  cases h
  repeat' (first
    | with_reducible rfl | dsimp only
    | simp only [State.patrolRecords_lasting, State.setCore_lasting, State.endCmd_lasting, lasting_update]
    | refine (lasting_of_eq (by assumption)).trans ?_ | refine (lasting_of_eq3 (by assumption)).trans ?_
    | refine (lasting_foldl_snd _ _ (fun _ _ => ?_) _).trans ?_ | refine (lasting_foldl _ _ (fun _ _ => ?_) _).trans ?_
    | split)

theorem execReplay_lasting (src : CmdSrc) (s : State) (t' : State) (h : execReplay src s = .next t') : t'.lasting = s.lasting := by
  cases h
  refine State.startCmd_lasting _ _ _ _ _ fun s c => ?_
  simp only [State.cmdRead_lasting, State.replayGo_lasting]

theorem execReplayDisarm_lasting (src : CmdSrc) (s : State) (t' : State) (h : execReplayDisarm src s = .next t') : t'.lasting = s.lasting := by
  cases h
  refine State.startCmd_lasting _ _ _ _ _ fun s c => ?_
  simp only [State.endCmd_lasting, State.disarm_lasting]

theorem execMarginSet_lasting (src : CmdSrc) (s : State) (t' : State) (h : execMarginSet src s = .next t') : t'.lasting = s.lasting := by
  cases h
  refine State.startCmd_lasting _ _ _ _ _ fun s c => ?_
  simp only [State.keepCmd_lasting, State.setClock_lasting, State.marginEnd_lasting, lasting_update, lasting_ite, ite_self]

theorem execMarginRailSettled_lasting (die : Fin 4) (s : State) (t' : State) (h : execMarginRailSettled die s = .next t') : t'.lasting =
    s.lasting := by
  cases h
  dsimp only
  repeat' split
  all_goals simp only [State.marginEnd_lasting, lasting_update]

theorem execLinkPattern_lasting (src : CmdSrc) (s : State) (t' : State) (h : execLinkPattern src s = .next t') : t'.lasting = s.lasting := by
  cases h
  refine State.startCmd_lasting _ _ _ _ _ fun s c => ?_
  simp only [lasting_update, lasting_ite, ite_self]

theorem execLinkPatternEnd_lasting (bits : BitVec 64) (errors : BitVec 32) (lanes : BitVec 8) (s : State) (t' : State) (h : execLinkPatternEnd
    bits errors lanes s = .next t') : t'.lasting = s.lasting := by
  cases h
  dsimp only
  repeat' split
  all_goals simp only [State.endCmd_lasting, lasting_update]

theorem execComputeReset_lasting (src : CmdSrc) (s : State) (t' : State) (h : execComputeReset src s = .next t') : t'.lasting = s.lasting := by
  cases h
  refine State.startCmd_lasting _ _ _ _ _ fun s c => ?_
  dsimp only
  rw [State.oneCycle_lasting, State.endCmd_lasting, State.setState_lasting, State.freeCoreMail_lasting, lasting_foldl _ _ fun s p => ?_]
  · rw [State.oneCycle_lasting, State.endLaunches_lasting, State.haltAll_lasting, State.setState_lasting]
  · rw [State.setCore_lasting, State.qFlagsHeads_lasting]

theorem execDumpSample_lasting (src : CmdSrc) (s : State) (t' : State) (h : execDumpSample src s = .next t') : t'.lasting = s.lasting := by
  cases h
  refine State.startCmd_lasting _ _ _ _ _ fun s c => ?_
  refine (lasting_foldl _ _ (fun s p => lasting_foldl _ _ (fun s b => ?_) _) _).trans rfl
  have h1 := State.dumpWords_lasting s p b (c.par 64 5)
  generalize s.dumpWords p b (c.par 64 5) = x at h1 ⊢
  obtain ⟨ws, u⟩ := x
  dsimp only at h1 ⊢
  have h2 := (State.writeOut_lasting u (.command c.id) none
    (adrAdd (BitVec.ofNat 64 (c.par 0 64)) (65536 * p + 4096 * b : Nat)) (ws.map codeOfWord)).trans h1
  generalize u.writeOut (.command c.id) none
    (adrAdd (BitVec.ofNat 64 (c.par 0 64)) (65536 * p + 4096 * b : Nat)) (ws.map codeOfWord) = y at h2 ⊢
  obtain ⟨_, st, v⟩ := y
  cases st with
  | none => exact h2
  | some e =>
    exact (State.modCmd_lasting v c.id fun c => { c with failed := if c.failed = 0 then e else c.failed }).trans h2

theorem execDumpAccessTimeout_lasting (c : CoreId) (b : Fin 16) (j : Fin 128) (s : State) (t' : State) (h : execDumpAccessTimeout c b j s = .next
    t') : t'.lasting = s.lasting := by
  cases h
  dsimp only
  repeat' split
  all_goals simp only [State.writeOut_lasting, lasting_update]

theorem execAttest_lasting (src : CmdSrc) (s : State) (t' : State) (h : execAttest src s = .next t') : t'.lasting = s.lasting := by
  cases h
  refine State.startCmd_lasting _ _ _ _ _ fun s c => ?_
  repeat' (first
    | with_reducible rfl | dsimp only
    | simp only [State.dma_lasting, State.endCmd_lasting, State.sign_lasting])

theorem execFwUpdateStage_lasting (src : CmdSrc) (s : State) (t' : State) (h : execFwUpdateStage src s = .next t') : t'.lasting = s.lasting := by
  cases h
  refine State.startCmd_lasting _ _ _ _ _ fun s c => ?_
  simp only [State.keepCmd_lasting, State.cmdRead_lasting, State.modNotar_lasting, State.stageGo_lasting]

theorem execFwUpdateChunk_lasting (src : CmdSrc) (s : State) (t' : State) (h : execFwUpdateChunk src s = .next t') : t'.lasting = s.lasting := by
  cases h
  refine State.startCmd_lasting _ _ _ _ _ fun s c => ?_
  simp only [State.endCmd_lasting, State.modNotar_lasting]

theorem execFwUpdateVerify_lasting (src : CmdSrc) (s : State) (t' : State) (h : execFwUpdateVerify src s = .next t') : t'.lasting = s.lasting := by
  cases h
  refine State.startCmd_lasting _ _ _ _ _ fun s c => ?_
  simp only [State.endCmd_lasting, State.verifySlot_lasting]

@[simp] theorem State.startRecorded_lasting (s : State) (src : CmdSrc) (op : Nat) (bankOf : State → Nat → Bool)
    (checks : State → Cmd → List (Bool × BitVec 16)) (body : State → Cmd → State) (hbody : ∀ s c, (body s c).lasting = s.lasting) :
    (State.startRecorded s src op bankOf checks body).lasting = s.lasting := by
  refine State.startCmd_lasting _ _ _ _ _ fun x c => ?_
  split
  · exact (State.endCmd_lasting ..).trans (State.imageRecord_lasting ..)
  · exact hbody _ _

theorem execFwUpdateActivate_lasting (src : CmdSrc) (s : State) (t' : State) (h : execFwUpdateActivate src s = .next t') : t'.lasting = s.lasting
    := by
  cases h
  refine State.startRecorded_lasting _ _ _ _ _ _ fun s c => ?_
  simp only [State.endCmd_lasting, State.modNotar_lasting, State.imageRecord_lasting, State.verifySlot_lasting, State.restartFirmware_lasting,
      lasting_ite, ite_self]

theorem execFwUpdateBurn_lasting (src : CmdSrc) (s : State) (t' : State) (h : execFwUpdateBurn src s = .next t') : t'.lasting = s.lasting := by
  cases h
  refine State.startRecorded_lasting _ _ _ _ _ _ fun s c => ?_
  simp only [State.endCmd_lasting, State.modNotar_lasting, State.imageRecord_lasting]

theorem execCairnRead_lasting (src : CmdSrc) (s : State) (t' : State) (h : execCairnRead src s = .next t') : t'.lasting = s.lasting := by
  cases h
  refine State.startCmd_lasting _ _ _ _ _ fun s c => ?_
  repeat' (first
    | with_reducible rfl | dsimp only
    | simp only [State.dma_lasting, State.endCmd_lasting]
    | refine (lasting_of_eq (by assumption)).trans ?_ | refine (lasting_of_eq3 (by assumption)).trans ?_
    | refine (lasting_foldl_snd _ _ (fun _ _ => ?_) _).trans ?_ | refine (lasting_foldl _ _ (fun _ _ => ?_) _).trans ?_)

theorem execCairnReadStatus_lasting (src : CmdSrc) (s : State) (t' : State) (h : execCairnReadStatus src s = .next t') : t'.lasting = s.lasting := by
  cases h
  refine State.startCmd_lasting _ _ _ _ _ fun s c => ?_
  simp only [State.endCmd_lasting]

theorem execClaim_lasting (m : Fin 16) (by_ : Agent) (s : State) (t' : State) (h : execClaim m by_ s = .next t') : t'.lasting = s.lasting := by
  cases h
  simp only [State.mailClaim_lasting, lasting_ite, ite_self]

theorem execGo_lasting (m : Fin 16) (by_ : Agent) (s : State) (t' : State) (h : execGo m by_ s = .next t') : t'.lasting = s.lasting := by
  cases h
  simp only [State.mailGo_lasting, lasting_ite, ite_self]

theorem execRelease_lasting (m : Fin 16) (by_ : Releaser) (s : State) (t' : State) (h : execRelease m by_ s = .next t') : t'.lasting = s.lasting := by
  cases h
  simp only [State.mailRelease_lasting, lasting_ite, ite_self]

theorem execCode_lasting (m : Fin 16) (by_ : Agent) (value : BitVec 16) (s : State) (t' : State) (h : execCode m by_ value s = .next t') :
    t'.lasting = s.lasting := by
  cases h
  simp only [State.mailCode_lasting, lasting_ite, ite_self]

theorem execMailboxDelivery_lasting (m : Fin 16) (s : State) (t' : State) (h : execMailboxDelivery m s = .next t') : t'.lasting = s.lasting := by
  cases h
  simp only [State.modMail_lasting, State.replyTo_lasting, State.takePacket_lasting, lasting_ite, ite_self]

theorem execTokenSet_lasting (c : CoreId) (value : Reg) (s : State) (t' : State) (h : execTokenSet c value s = .next t') : t'.lasting = s.lasting
    := by
  cases h
  simp only [State.coreWindow_lasting, lasting_ite, ite_self]

theorem execQstepWrite_lasting (q : Fin 8) (value : Reg) (s : State) (t' : State) (h : execQstepWrite q value s = .next t') : t'.lasting =
    s.lasting := by
  cases h
  simp only [State.writeQstep_lasting, lasting_ite, ite_self]

theorem execResetKey_lasting (value : Reg) (s : State) (t' : State) (h : execResetKey value s = .next t') : t'.lasting = s.lasting := by
  cases h
  simp only [State.hostResetKey_lasting, lasting_ite, ite_self]

theorem execRmcResetKey_lasting (value : Byte) (s : State) (t' : State) (h : execRmcResetKey value s = .next t') : t'.lasting = s.lasting := by
  cases h
  simp only [State.rmcResetKey_lasting, lasting_ite, ite_self]

theorem execLock_lasting (value : Reg) (s : State) (t' : State) (h : execLock value s = .next t') : t'.lasting = s.lasting := by
  cases h
  simp only [State.writeCoord_lasting, lasting_ite, ite_self]

theorem execMainOn_lasting (milliVolts : Nat) (refPpm : Option Nat) (s : State) (t' : State) (h : execMainOn milliVolts refPpm s = .next t') :
    t'.lasting = s.lasting := by
  cases h
  simp only [State.mainOnWrite_lasting, lasting_ite, ite_self]

theorem execOrderlyPowerOff_lasting (s : State) (t' : State) (h : execOrderlyPowerOff s = .next t') : t'.lasting = s.lasting := by
  cases h
  simp only [State.mainOffWrite_lasting, lasting_ite, ite_self]

theorem execMainPowerOffComplete_lasting (s : State) (t' : State) (h : execMainPowerOffComplete s = .next t') : t'.lasting = s.lasting := by
  cases h
  simp only [State.setState_lasting, State.record_lasting, State.modNotar_lasting, State.modPower_lasting, State.setPwrGood_lasting, lasting_ite,
      ite_self]

theorem execPortEn_lasting (value : BitVec 16) (s : State) (t' : State) (h : execPortEn value s = .next t') : t'.lasting = s.lasting := by
  cases h
  simp only [State.writePortEn_lasting, lasting_ite, ite_self]

theorem execRetrain_lasting (p : Fin 16) (s : State) (t' : State) (h : execRetrain p s = .next t') : t'.lasting = s.lasting := by
  cases h
  simp only [State.retrain_lasting, lasting_ite, ite_self]

theorem execForceDown_lasting (p : Fin 16) (hold : Bool) (s : State) (t' : State) (h : execForceDown p hold s = .next t') : t'.lasting =
    s.lasting := by
  cases h
  simp only [State.forceDown_lasting, lasting_ite, ite_self]

theorem execErgCntClr_lasting (s : State) (t' : State) (h : execErgCntClr s = .next t') : t'.lasting = s.lasting := by
  cases h
  simp only [State.clearErgCounts_lasting, lasting_ite, ite_self]

theorem execCollCntClr_lasting (s : State) (t' : State) (h : execCollCntClr s = .next t') : t'.lasting = s.lasting := by
  cases h
  simp only [State.clearCollCounts_lasting, lasting_ite, ite_self]

theorem execHcCntClr_lasting (s : State) (t' : State) (h : execHcCntClr s = .next t') : t'.lasting = s.lasting := by
  cases h
  simp only [State.clearHcCounts_lasting, lasting_ite, ite_self]

theorem execCodeClrCounts_lasting (src : Fin 20) (s : State) (t' : State) (h : execCodeClrCounts src s = .next t') : t'.lasting = s.lasting := by
  cases h
  simp only [State.clearSource_lasting, lasting_ite, ite_self]

theorem execSpClrCounts_lasting (c : CoreId) (s : State) (t' : State) (h : execSpClrCounts c s = .next t') : t'.lasting = s.lasting := by
  cases h
  simp only [State.coreWindow_lasting, lasting_ite, ite_self]

theorem execPeakClr_lasting (s : State) (t' : State) (h : execPeakClr s = .next t') : t'.lasting = s.lasting := by
  cases h
  simp only [State.clearPeaks_lasting, lasting_ite, ite_self]

theorem execScrubCtrlWrite_lasting (value : Reg) (s : State) (t' : State) (h : execScrubCtrlWrite value s = .next t') : t'.lasting = s.lasting := by
  cases h
  simp only [State.writeScrub_lasting, lasting_ite, ite_self]

theorem execBudgetLoRead_lasting (c : CoreId) (b : Bool) (s : State) (t' : State) (h : execBudgetLoRead c b s = .next t') : t'.lasting =
    s.lasting := by
  cases h
  simp only [State.send_lasting, State.setCore_lasting, State.unsupported_lasting, lasting_ite, ite_self]

theorem execEnergyLoRead_lasting (s : State) (t' : State) (h : execEnergyLoRead s = .next t') : t'.lasting = s.lasting := by
  cases h
  simp only [State.send_lasting, State.modPower_lasting, lasting_ite, ite_self]

theorem execSelLoad_lasting (side : Side) (high : Reg) (s : State) (t' : State) (h : execSelLoad side high s = .next t') : t'.lasting = s.lasting
    := by
  have h2 : State.lasting { s with cairn := s.cairn.load side high } = s.lasting := by
    simp only [State.lasting, Cairn.load_store]
  cases h
  simp only [lasting_ite, h2, ite_self]

theorem execTxGo_lasting (len : Byte) (s : State) (t' : State) (h : execTxGo len s = .next t') : t'.lasting = s.lasting := by
  cases h
  simp only [State.txGo_lasting]

theorem execRxDone_lasting (s : State) (t' : State) (h : execRxDone s = .next t') : t'.lasting = s.lasting := by
  cases h
  simp only [State.rxDone_lasting]

theorem execRegisterWrite_lasting (bar : Bar) (off : Nat) (width : Nat) (value : BitVec 64) (s : State) (t' : State) (h : execRegisterWrite bar off
    width value s = .next t') : t'.lasting = s.lasting := by
  cases h
  repeat' (first
    | with_reducible rfl | dsimp only
    | simp only [State.send_lasting, State.unsupported_lasting, State.writeBar0_lasting, State.writeBar4_lasting, State.writeMsix_lasting, State.writeConfig_lasting, State.writeAgent_lasting, lasting_ite, ite_self]
    | refine (lasting_of_eq (by assumption)).trans ?_ | refine (lasting_of_eq3 (by assumption)).trans ?_
    | refine (lasting_foldl_snd _ _ (fun _ _ => ?_) _).trans ?_ | refine (lasting_foldl _ _ (fun _ _ => ?_) _).trans ?_
    | split)

theorem execI3cPrivateWrite_lasting (x : I3cTransfer) (s : State) (t' : State) (h : execI3cPrivateWrite x s = .next t') : t'.lasting =
    s.lasting := by
  cases h
  repeat' (first
    | with_reducible rfl | dsimp only
    | simp only [State.i3cRead_lasting, State.i3cWrite_lasting, State.send_lasting, lasting_ite, ite_self]
    | refine (lasting_of_eq (by assumption)).trans ?_ | refine (lasting_of_eq3 (by assumption)).trans ?_
    | refine (lasting_foldl_snd _ _ (fun _ _ => ?_) _).trans ?_ | refine (lasting_foldl _ _ (fun _ _ => ?_) _).trans ?_
    | split)

theorem execEntdaa_lasting (addr : BitVec 7) (s : State) (t' : State) (h : execEntdaa addr s = .next t') : t'.lasting = s.lasting := by
  cases h
  simp only [State.send_lasting, State.modPower_lasting, lasting_ite, ite_self]

theorem execRstdaa_lasting (s : State) (t' : State) (h : execRstdaa s = .next t') : t'.lasting = s.lasting := by
  cases h
  simp only [State.modPower_lasting, lasting_ite, ite_self]

theorem execEnec_lasting (mask : Byte) (s : State) (t' : State) (h : execEnec mask s = .next t') : t'.lasting = s.lasting := by
  cases h
  simp only [State.modPower_lasting, lasting_ite, ite_self]

theorem execDisec_lasting (mask : Byte) (s : State) (t' : State) (h : execDisec mask s = .next t') : t'.lasting = s.lasting := by
  cases h
  simp only [State.modPower_lasting, lasting_ite, ite_self]

theorem execSetmwl_lasting (value : BitVec 16) (s : State) (t' : State) (h : execSetmwl value s = .next t') : t'.lasting = s.lasting := by
  cases h
  simp only [State.modPower_lasting, lasting_ite, ite_self]

theorem execSetmrl_lasting (value : BitVec 16) (s : State) (t' : State) (h : execSetmrl value s = .next t') : t'.lasting = s.lasting := by
  cases h
  simp only [State.modPower_lasting, lasting_ite, ite_self]

theorem execGetmwl_lasting (s : State) (t' : State) (h : execGetmwl s = .next t') : t'.lasting = s.lasting := by
  cases h
  simp only [State.send_lasting, lasting_ite, ite_self]

theorem execGetmrl_lasting (s : State) (t' : State) (h : execGetmrl s = .next t') : t'.lasting = s.lasting := by
  cases h
  simp only [State.send_lasting, lasting_update, lasting_ite, ite_self]

theorem execGetpid_lasting (s : State) (t' : State) (h : execGetpid s = .next t') : t'.lasting = s.lasting := by
  cases h
  simp only [State.send_lasting, lasting_ite, ite_self]

theorem execGetbcr_lasting (s : State) (t' : State) (h : execGetbcr s = .next t') : t'.lasting = s.lasting := by
  cases h
  simp only [State.send_lasting, lasting_ite, ite_self]

theorem execGetdcr_lasting (s : State) (t' : State) (h : execGetdcr s = .next t') : t'.lasting = s.lasting := by
  cases h
  simp only [State.send_lasting, lasting_ite, ite_self]

theorem execGetstatus_lasting (s : State) (t' : State) (h : execGetstatus s = .next t') : t'.lasting = s.lasting := by
  cases h
  simp only [State.send_lasting, lasting_update, lasting_ite, ite_self]

theorem execAuxPowerOn_lasting (_straps : BitVec 6) (s : State) (t' : State) (h : execAuxPowerOn _straps s = .next t') : t'.lasting = s.lasting := by
  cases h
  repeat' (first
    | with_reducible rfl | dsimp only
    | simp only [State.modPower_lasting, State.modNotar_lasting, lasting_cairn, lasting_ite, ite_self])

theorem execOscStable_lasting (straps : BitVec 6) (s : State) (t' : State) (h : execOscStable straps s = .next t') : t'.lasting = s.lasting := by
  cases h
  repeat' (first
    | with_reducible rfl | dsimp only
    | simp only [State.record_lasting, State.loadFirmware_lasting, State.modPower_lasting, State.modNotar_lasting, lasting_ite, ite_self])

theorem execFirmwareReady_lasting (s : State) (t' : State) (h : execFirmwareReady s = .next t') : t'.lasting = s.lasting := by
  cases h
  simp only [State.send_lasting, State.modPower_lasting, lasting_ite, ite_self]

theorem execMainRailsGood_lasting (s : State) (t' : State) (h : execMainRailsGood s = .next t') : t'.lasting = s.lasting := by
  cases h
  simp only [State.setState_lasting, State.modPower_lasting, State.setPwrGood_lasting, lasting_ite, ite_self]

theorem execMemoryTrainingDone_lasting (s : State) (t' : State) (h : execMemoryTrainingDone s = .next t') : t'.lasting = s.lasting := by
  cases h
  simp only [State.modPower_lasting, lasting_update, lasting_ite, ite_self]

theorem execStartupStepFailed_lasting (_unit : Nat) (s : State) (t' : State) (h : execStartupStepFailed _unit s = .next t') : t'.lasting =
    s.lasting := by
  cases h
  simp only [State.startupFailed_lasting, lasting_ite, ite_self]

theorem execInputUndervoltage_lasting (milliVolts : Nat) (s : State) (t' : State) (h : execInputUndervoltage milliVolts s = .next t') :
    t'.lasting = s.lasting := by
  cases h
  simp only [State.powerOff_lasting, lasting_ite, ite_self]

theorem execInputOvervoltage_lasting (milliVolts : Nat) (s : State) (t' : State) (h : execInputOvervoltage milliVolts s = .next t') : t'.lasting
    = s.lasting := by
  unfold execInputOvervoltage at h
  split at h
  · cases h
  · cases h
    simp only [lasting_ite, State.powerOff_lasting, ite_self]

theorem execOverCurrent_lasting (milliAmps : Nat) (s : State) (t' : State) (h : execOverCurrent milliAmps s = .next t') : t'.lasting = s.lasting := by
  cases h
  simp only [State.powerOff_lasting, lasting_ite, ite_self]

theorem execRefclkLost_lasting (s : State) (t' : State) (h : execRefclkLost s = .next t') : t'.lasting = s.lasting := by
  cases h
  simp only [State.modPower_lasting, State.powerOff_lasting, lasting_ite, ite_self]

theorem execSensorRead_lasting (r : Readings) (s : State) (t' : State) (h : execSensorRead r s = .next t') : t'.lasting = s.lasting := by
  cases h
  repeat' (first
    | with_reducible rfl | dsimp only
    | simp only [State.oneCycle_lasting, State.clocksRun_lasting, State.modPower_lasting, State.setThermTrip_lasting, State.pmSet_lasting, State.powerOff_lasting, State.thermalRecord_lasting, State.readSource_lasting, lasting_ite, ite_self]
    | refine (lasting_of_eq (by assumption)).trans ?_ | refine (lasting_of_eq3 (by assumption)).trans ?_
    | refine (lasting_foldl_snd _ _ (fun _ _ => ?_) _).trans ?_ | refine (lasting_foldl _ _ (fun _ _ => ?_) _).trans ?_
    | split)

theorem execThrottleEvaluation_lasting (s : State) (t' : State) (h : execThrottleEvaluation s = .next t') : t'.lasting = s.lasting := by
  cases h
  simp only [State.modPower_lasting, State.setLevels_lasting, lasting_ite, ite_self]

theorem execPowerFastPath_lasting (s : State) (t' : State) (h : execPowerFastPath s = .next t') : t'.lasting = s.lasting := by
  cases h
  simp only [State.modPower_lasting, State.pmSet_lasting, State.setLevels_lasting, lasting_ite, ite_self]

@[simp] theorem State.brakeLow_lasting (s : State) : (State.brakeLow s).lasting = s.lasting := by
  simp only [State.brakeLow, State.modPower_lasting, State.pmSet_lasting, State.setLevels_lasting, lasting_ite, ite_self]

@[simp] theorem State.brakeHigh_lasting (s : State) : (State.brakeHigh s).lasting = s.lasting := rfl

@[simp] theorem State.filtered_lasting (s : State) (ns : Nat) : (State.filtered s ns).2.lasting = s.lasting := by
  unfold State.filtered
  (repeat' split) <;> rfl

theorem execPwrBrakeAssert_lasting (s : State) (t' : State) (h : execPwrBrakeAssert s = .next t') : t'.lasting = s.lasting := by
  cases h
  exact State.brakeLow_lasting _

theorem execPwrBrakeRelease_lasting (s : State) (t' : State) (h : execPwrBrakeRelease s = .next t') : t'.lasting = s.lasting := by
  cases h; rfl

theorem execPerstNAssert_lasting (x : Pulse) (s : State) (t' : State) (h : execPerstNAssert x s = .next t') : t'.lasting = s.lasting := by
  have hf := State.filtered_lasting s x.ns
  unfold execPerstNAssert at h
  generalize s.filtered x.ns = y at h hf
  obtain ⟨taken, u⟩ := y
  cases h
  rw [← hf]
  simp only [State.brakeHigh_lasting, State.brakeLow_lasting, State.modPower_lasting, State.resetEndpoint_lasting, lasting_ite, ite_self]

theorem execPerstNHoldExpiry_lasting (s : State) (t' : State) (h : execPerstNHoldExpiry s = .next t') : t'.lasting = s.lasting := by
  cases h
  simp only [State.modPower_lasting, State.moduleReset_lasting, lasting_ite, ite_self]

theorem execPerstNRelease_lasting (s : State) (t' : State) (h : execPerstNRelease s = .next t') : t'.lasting = s.lasting := by
  cases h
  simp only [State.modPower_lasting, lasting_ite, ite_self]

theorem execDoeDiscovery_lasting (index : Byte) (s : State) (t' : State) (h : execDoeDiscovery index s = .next t') : t'.lasting = s.lasting := by
  cases h
  simp only [State.send_lasting, lasting_ite, ite_self]

theorem execGetVersion_lasting (r : SpdmAsk) (s : State) (t' : State) (h : execGetVersion r s = .next t') : t'.lasting = s.lasting := by
  unfold execGetVersion at h
  refine State.spdmServe_lasting _ _ _ _ _ (fun s => ?_) h
  simp only [State.modConn_lasting, State.spdmSend_lasting, lasting_ite, ite_self]

theorem execGetCapabilities_lasting (t : Transport) (s : State) (t' : State) (h : execGetCapabilities t s = .next t') : t'.lasting = s.lasting := by
  refine State.spdmServe_lasting _ _ _ _ _ (fun s => ?_) h
  simp only [State.draw_lasting, State.modConn_lasting, State.spdmSend_lasting]

theorem execNegotiateAlgorithms_lasting (t : Transport) (req : List Byte) (s : State) (t' : State) (h : execNegotiateAlgorithms t req s = .next
    t') : t'.lasting = s.lasting := by
  refine State.spdmServe_lasting _ _ _ _ _ (fun s => ?_) h
  simp only [State.modConn_lasting, State.spdmSend_lasting, lasting_ite, ite_self]

theorem execGetDigests_lasting (t : Transport) (s : State) (t' : State) (h : execGetDigests t s = .next t') : t'.lasting = s.lasting := by
  refine State.spdmServe_lasting _ _ _ _ _ (fun s => ?_) h
  simp only [State.spdmSend_lasting]

theorem execGetCertificate_lasting (t : Transport) (slot off len : Nat) (s : State) (t' : State) (h : execGetCertificate t slot off len s = .next
    t') : t'.lasting = s.lasting := by
  refine State.spdmServe_lasting _ _ _ _ _ (fun s => ?_) h
  simp only [State.spdmSend_lasting, lasting_ite, ite_self]

theorem execChallenge_lasting (t : Transport) (slot : Nat) (req : List Byte) (s : State) (t' : State) (h : execChallenge t slot req s = .next t')
    : t'.lasting = s.lasting := by
  refine State.spdmServe_lasting _ _ _ _ _ (fun s => ?_) h
  simp only [State.spdmSend_lasting, State.spdmMaybeLater_lasting, State.signed_lasting, lasting_ite, ite_self]

theorem execGetMeasurements_lasting (t : Transport) (index : Nat) (req : List Byte) (s : State) (t' : State) (h : execGetMeasurements t index req
    s = .next t') : t'.lasting = s.lasting := by
  refine State.spdmServe_lasting _ _ _ _ _ (fun s => ?_) h
  simp only [State.spdmSend_lasting, State.spdmMaybeLater_lasting, State.signed_lasting, lasting_ite, ite_self]

theorem execKeyExchange_lasting (t : Transport) (slot : Nat) (req : List Byte) (s : State) (t' : State) (h : execKeyExchange t slot req s = .next
    t') : t'.lasting = s.lasting := by
  refine State.spdmServe_lasting _ _ _ _ _ (fun s => ?_) h
  simp only [State.modConn_lasting, State.spdmSend_lasting, State.spdmMaybeLater_lasting, State.signed_lasting, lasting_ite, ite_self]

theorem execFinish_lasting (t : Transport) (req : List Byte) (s : State) (t' : State) (h : execFinish t req s = .next t') : t'.lasting =
    s.lasting := by
  refine State.spdmServe_lasting _ _ _ _ _ (fun s => ?_) h
  simp only [State.modConn_lasting, State.spdmSend_lasting]

theorem execHeartbeat_lasting (t : Transport) (s : State) (t' : State) (h : execHeartbeat t s = .next t') : t'.lasting = s.lasting := by
  cases h
  simp only [State.spdmSend_lasting, lasting_ite, ite_self]

theorem execKeyUpdate_lasting (t : Transport) (op : Byte) (s : State) (t' : State) (h : execKeyUpdate t op s = .next t') : t'.lasting = s.lasting
    := by
  cases h
  simp only [State.modConn_lasting, State.spdmSend_lasting, lasting_ite, ite_self]

theorem execEndSession_lasting (t : Transport) (s : State) (t' : State) (h : execEndSession t s = .next t') : t'.lasting = s.lasting := by
  cases h
  simp only [State.modConn_lasting, State.spdmSend_lasting, lasting_ite, ite_self]

theorem execRespondIfReady_lasting (t : Transport) (token : Byte) (s : State) (t' : State) (h : execRespondIfReady t token s = .next t') :
    t'.lasting = s.lasting := by
  cases h
  repeat' (first
    | with_reducible rfl | dsimp only | simp only [State.modConn_lasting, State.spdmSend_lasting, lasting_ite, ite_self]
    | refine (lasting_of_eq (by assumption)).trans ?_ | refine (lasting_of_eq3 (by assumption)).trans ?_
    | refine (lasting_foldl_snd _ _ (fun _ _ => ?_) _).trans ?_ | refine (lasting_foldl _ _ (fun _ _ => ?_) _).trans ?_
    | split | intro _)

theorem execSetEndpointId_lasting (eid : Byte) (s : State) (t' : State) (h : execSetEndpointId eid s = .next t') : t'.lasting = s.lasting := by
  cases h
  simp only [State.mctpReply_lasting, lasting_update, lasting_ite, ite_self]

theorem execGetEndpointId_lasting (s : State) (t' : State) (h : execGetEndpointId s = .next t') : t'.lasting = s.lasting := by
  cases h
  simp only [State.mctpReply_lasting, lasting_ite, ite_self]

theorem execGetMctpVersionSupport_lasting (s : State) (t' : State) (h : execGetMctpVersionSupport s = .next t') : t'.lasting = s.lasting := by
  cases h
  simp only [State.mctpReply_lasting, lasting_update, lasting_ite, ite_self]

theorem execGetMessageTypeSupport_lasting (s : State) (t' : State) (h : execGetMessageTypeSupport s = .next t') : t'.lasting = s.lasting := by
  cases h
  simp only [State.mctpReply_lasting, lasting_ite, ite_self]

theorem execSealTimerExpiry_lasting (s : State) (t' : State) (h : execSealTimerExpiry s = .next t') : t'.lasting = s.lasting := by
  cases h
  simp only [State.startSeal_lasting, lasting_ite, ite_self]

theorem execSuppressionSecondEnd_lasting (s : State) (t' : State) (h : execSuppressionSecondEnd s = .next t') : t'.lasting = s.lasting := by
  cases h
  simp only [State.record_lasting, State.passTime_lasting, lasting_cairn, lasting_ite, ite_self]

theorem execMatmulFeedEnd_lasting (c : CoreId) (s : State) (t' : State) (h : execMatmulFeedEnd c s = .next t') : t'.lasting = s.lasting := by
  cases h
  simp only [State.atCore_lasting]

theorem execInternalFault_lasting (status : BitVec 16) (unit : BitVec 16) (info : List Byte) (s : State) (t' : State) (h : execInternalFault
    status unit info s = .next t') : t'.lasting = s.lasting := by
  cases h
  simp only [State.setState_lasting, State.record_lasting, lasting_ite, ite_self]

theorem execBadPkt_lasting (p : Fin 16) (pkt : ErgPacket) (s : State) (t' : State) (h : execBadPkt p pkt s = .next t') : t'.lasting = s.lasting := by
  cases h
  simp only [State.ergCount_lasting, State.returnCredits_lasting, lasting_ite, ite_self]

theorem execHdrUe_lasting (p : Fin 16) (syndrome : BitVec 32) (s : State) (t' : State) (h : execHdrUe p syndrome s = .next t') : t'.lasting =
    s.lasting := by
  cases h
  simp only [State.ueRecord_lasting, State.latchUe_lasting, State.ergCount_lasting, lasting_ite, ite_self]

theorem execRailLeavesRegulation_lasting (s : State) (t' : State) (h : execRailLeavesRegulation s = .next t') : t'.lasting = s.lasting := by
  cases h
  simp only [State.modPower_lasting, State.setPwrGood_lasting, lasting_ite, ite_self]

theorem execEndpointReady_lasting (s : State) (t' : State) (h : execEndpointReady s = .next t') : t'.lasting = s.lasting := by
  cases h
  simp only [State.modPower_lasting, lasting_ite, ite_self]

end Sys2Proof.Machine
end

