-- ==== Sys2Proof/Laws/Grown.lean ====
section
/-! SUPPORT. The commands that write a Cairn record: the queue and the fuses stay, and the record store grows by appends alone
(16 R486). -/

namespace Sys2Proof.Machine

theorem Cairn.store_append (k m : Cairn) (h : k.store = m.store) (r : BitVec 2048) : (k.append r).store = (m.append r).store := by
  simp only [Cairn.store, Prod.mk.injEq] at h
  simp only [Cairn.append, Cairn.store, h]

theorem Cairn.store_appends (k m : Cairn) (h : k.store = m.store) (rs : List (BitVec 2048)) :
    (k.appends rs).store = (m.appends rs).store := by
  induction rs generalizing k m with
  | nil => exact h
  | cons r l ih => exact ih _ _ (Cairn.store_append k m h r)

theorem grown_of_lasting {s t : State} (h : t.lasting = s.lasting) : s.grown 0 t := by
  simp only [State.lasting, Prod.mk.injEq] at h
  exact ⟨h.1, h.2.1, h.2.2.2, [], Nat.le_refl 0, h.2.2.1⟩

theorem State.grown.mono {n m : Nat} {s t : State} (h : s.grown n t) (hn : n ≤ m) : s.grown m t := by
  obtain ⟨h1, h2, hk, rs, h3, h4⟩ := h
  exact ⟨h1, h2, hk, rs, by omega, h4⟩

theorem State.grown.step {n m : Nat} {s t u : State} (h : s.grown n t) (g : t.grown m u) : s.grown (n + m) u := by
  obtain ⟨h1, h2, hk, rs, h3, h4⟩ := h
  obtain ⟨g1, g2, gk, qs, g3, g4⟩ := g
  refine ⟨g1.trans h1, g2.trans h2, gk.trans hk, rs ++ qs, by simp; omega, ?_⟩
  rw [g4, Cairn.store_appends _ _ h4]
  simp [Cairn.appends, List.foldl_append]

/-- One record is appended, whatever else of Cairn changes. -/
theorem grown_append {s t : State} (r : BitVec 2048) (hp : t.pending = s.pending) (hf : t.ident.fuses = s.ident.fuses)
    (hk : t.cycle = s.cycle) (hc : t.cairn.store = (s.cairn.append r).store) : s.grown 1 t :=
  ⟨hp, hf, by rw [hk], [r], Nat.le_refl 1, hc⟩

theorem State.writeRecord_grown (s : State) (e : CairnEntry) : s.grown 1 (s.writeRecord e) := by
  have h : ∀ u : State, u.startSeal.lasting = u.lasting := State.startSeal_lasting
  unfold State.writeRecord
  dsimp only
  split
  · refine State.grown.step (n := 1) (m := 0) ?_ (grown_of_lasting (h _))
    exact grown_append _ rfl rfl rfl rfl
  · exact grown_append _ rfl rfl rfl rfl

theorem State.takeEntry_grown (s : State) : s.grown 1 s.takeEntry := by
  unfold State.takeEntry
  split
  · exact State.grown.mono (grown_of_lasting (by rfl)) (Nat.zero_le 1)
  · dsimp only
    split
    · exact State.grown.mono (grown_of_lasting (by rfl)) (Nat.zero_le 1)
    · exact State.grown.step (n := 0) (m := 1) (grown_of_lasting (by rfl)) (State.writeRecord_grown _ _)

theorem grown_foldl {α : Type} (n : Nat) (g : State → α → State) (h : ∀ (s : State) x, s.grown n (g s x)) (l : List α) (s : State) :
    s.grown (l.length * n) (l.foldl g s) := by
  induction l generalizing s with
  | nil => exact (grown_of_lasting rfl).mono (Nat.zero_le _)
  | cons x r ih =>
    have := State.grown.step (h s x) (ih (g s x))
    exact this.mono (by simp [Nat.succ_mul, Nat.add_comm])

theorem State.noSeal_grown (s : State) : s.grown 0 s.noSeal := grown_of_lasting rfl

theorem State.flushRecords_grown (n : Nat) (s : State) (l : List CairnEntry) : s.grown n (s.flushRecords n l).2 := by
  induction l generalizing n s with
  | nil => exact (grown_of_lasting rfl).mono (Nat.zero_le n)
  | cons e r ih =>
    unfold State.flushRecords
    split
    · exact ih n s
    · rename_i h
      have hn : n ≠ 0 := fun h0 => h (.inl h0)
      exact (((State.writeRecord_grown s e).step (State.noSeal_grown _)).step (ih (n - 1) _)).mono (by omega)

theorem State.cairnLoss_grown (s : State) : s.grown 17 s.cairnLoss := by
  unfold State.cairnLoss
  have h1 := (State.noSeal_grown s).step (State.flushRecords_grown 16 s.noSeal s.cairn.queue)
  generalize s.noSeal.flushRecords 16 s.cairn.queue = x at h1 ⊢
  obtain ⟨left, u⟩ := x
  have h2 : s.grown 16 { u with cairn := { u.cairn with queue := [] } } := State.grown.step (m := 0) h1 (grown_of_lasting rfl)
  have h3 := fun e => h2.step (State.writeRecord_grown { u with cairn := { u.cairn with queue := [] } } e)
  exact State.grown.step (m := 0) (h3 _) (grown_of_lasting rfl)

theorem execCairnRecordWrite_grown (s t : State) (h : execCairnRecordWrite s = .next t) : s.grown 1 t := by
  cases h
  split
  · exact State.grown.mono (grown_of_lasting (by rfl)) (Nat.zero_le 1)
  · exact State.takeEntry_grown s

theorem execSealSigned_grown (s t : State) (h : execSealSigned s = .next t) : s.grown 1 t := by
  cases h
  split
  · exact State.grown.mono (grown_of_lasting (by rfl)) (Nat.zero_le 1)
  · exact grown_append _ rfl rfl rfl rfl

theorem execAuxLost_grown (s t : State) (h : execAuxLost s = .next t) : s.grown 17 t := by
  cases h
  split
  · exact State.grown.mono (grown_of_lasting (by rfl)) (Nat.zero_le 17)
  · dsimp only
    refine State.grown.step (n := 17) (m := 0) (State.cairnLoss_grown s) (grown_of_lasting ?_)
    generalize s.cairnLoss = u
    have h : (((u.setPwrGood false).setThermTrip true).clearMain true).lasting = u.lasting :=
      (State.clearMain_lasting ..).trans ((State.setThermTrip_lasting ..).trans (State.setPwrGood_lasting ..))
    generalize ((u.setPwrGood false).setThermTrip true).clearMain true = v at h ⊢
    exact h

end Sys2Proof.Machine
end

