-- ==== Sys2Proof/Laws/OnCore.lean ====
section
/-! SUPPORT. What a core's action leaves of the rest of the module, and what the core is afterwards. -/

namespace Sys2Proof.Machine

theorem State.onlyCore_refl (s : State) (p : Nat) : s.onlyCore s p :=
  ⟨rfl, rfl, rfl, rfl, rfl, rfl, rfl, rfl, rfl, rfl, rfl, fun _ _ => rfl⟩

theorem State.onlyCore.step {s t u : State} {p : Nat} (h : s.onlyCore t p) (g : t.onlyCore u p) : s.onlyCore u p := by
  obtain ⟨h1, h2, h3, h4, h5, h6, h7, h8, h9, h10, h11, h12⟩ := h
  obtain ⟨g1, g2, g3, g4, g5, g6, g7, g8, g9, g10, g11, g12⟩ := g
  exact ⟨g1.trans h1, g2.trans h2, g3.trans h3, g4.trans h4, g5.trans h5, g6.trans h6, g7.trans h7, g8.trans h8,
    by rw [g9, h9], by rw [g10, h10], by rw [g11, h11], fun q hq => (g12 q hq).trans (h12 q hq)⟩

/-- The cores of two states are the same but for their traffic. -/
def State.sameRests (s t : State) : Prop := t.canon ∧ ∀ q, (t.core q).rest = (s.core q).rest

theorem State.core_setCore (s : State) (p : Nat) (c : Core) (hs : s.canon) : (s.setCore p c).core p = c :=
  spGet_spSet _ _ _ _ hs.1

theorem State.core_setCore_ne (s : State) (p q : Nat) (c : Core) (h : q ≠ p) : (s.setCore p c).core q = s.core q :=
  spGet_spSet_ne _ _ _ h

theorem State.record_onlyCore (s : State) (ty : BitVec 16) (o : Byte) (l : List Byte) (p : Nat) : s.onlyCore (s.record ty o l) p := by
  unfold State.record
  dsimp only
  (repeat' split) <;> exact ⟨rfl, rfl, rfl, rfl, rfl, rfl, rfl, rfl, rfl, rfl, rfl, fun _ _ => rfl⟩

theorem State.record_core (s : State) (ty : BitVec 16) (o : Byte) (l : List Byte) (q : Nat) : (s.record ty o l).core q = s.core q := by
  unfold State.record
  dsimp only
  (repeat' split) <;> rfl

theorem State.msix_onlyCore (s : State) (v : Nat) (p : Nat) : s.onlyCore (s.msix v) p := by
  unfold State.msix
  (repeat' split) <;> exact ⟨rfl, rfl, rfl, rfl, rfl, rfl, rfl, rfl, rfl, rfl, rfl, fun _ _ => rfl⟩

theorem State.msix_core (s : State) (v : Nat) (q : Nat) : (s.msix v).core q = s.core q := by
  unfold State.msix
  (repeat' split) <;> rfl

/-- An uncorrectable word of a core: a record and a vector, and no core changes. -/
theorem State.coreUe_spec (s : State) (p q : Nat) (u : FoundUe) : s.onlyCore (s.coreUe p u) q ∧ ∀ r, (s.coreUe p u).core r = s.core r := by
  unfold State.coreUe State.draw State.ueRecord
  dsimp only
  generalize ({ s with free := s.free + 1 + 1 } : State).physAddr _ _ = a
  refine ⟨?_, fun r => ?_⟩
  · refine State.onlyCore.step ?_ (State.record_onlyCore _ _ _ _ _)
    exact State.onlyCore.step (t := { s with free := s.free + 1 + 1 })
      ⟨rfl, rfl, rfl, rfl, rfl, rfl, rfl, rfl, rfl, rfl, rfl, fun _ _ => rfl⟩ (State.msix_onlyCore _ _ _)
  · rw [State.record_core, State.msix_core]
    rfl

/-- A post of core p: it stands on its way to its target; nothing else changes. -/
theorem State.post_spec (s : State) (k : Nat) (tok : BitVec 5) (n : BitVec 8) (q : Nat) (hs : s.canon) :
    s.onlyCore (s.post k tok n) q ∧ ∀ r, ((s.post k tok n).core r).rest = (s.core r).rest := by
  unfold State.post
  split
  · rename_i p _
    have h : ∀ r, ((s.setCore p { s.core p with inbound := (s.core p).inbound ++ [(tok, n)] }).core r).rest = (s.core r).rest := by
      intro r
      by_cases hr : r = p
      · subst hr
        rw [State.core_setCore _ _ _ hs]
        rfl
      · rw [State.core_setCore_ne _ _ _ _ hr]
    exact ⟨⟨rfl, rfl, rfl, rfl, rfl, rfl, rfl, rfl, rfl, rfl, rfl, fun r _ => h r⟩, h⟩
  · exact ⟨State.onlyCore_refl _ _, fun _ => rfl⟩

theorem State.tap_spec (s : State) (x : Tap) (q : Nat) : s.onlyCore (s.tap x) q ∧ ∀ r, (s.tap x).core r = s.core r := by
  unfold State.tap
  dsimp only
  (repeat' split) <;> exact ⟨⟨rfl, rfl, rfl, rfl, rfl, rfl, rfl, rfl, rfl, rfl, rfl, fun _ _ => rfl⟩, fun _ => rfl⟩

/-- A core acts: only it changes, and it is as its action left it, its reports handed on. -/
theorem State.onCore_spec (s : State) (p : Nat) (f : CoreEnv → Core → Core) (hs : s.canon)
    (hf : ∀ e x, x.canon → (f e x).canon) :
    s.onlyCore (s.onCore p f) p ∧ ((s.onCore p f).core p).rest = (f (s.coreEnv p) (s.core p)).rest := by
  unfold State.onCore
  extract_lets c s1 s2 s3
  have c1 : s1.canon := State.setCore_canon _ _ _ hs (hf _ _ (State.core_canon _ _ hs))
  have o1 : s.onlyCore s1 p :=
    ⟨rfl, rfl, rfl, rfl, rfl, rfl, rfl, rfl, rfl, rfl, rfl, fun q hq => by
      rw [State.core_setCore_ne _ _ _ _ hq]⟩
  have r1 : (s1.core p).rest = c.rest := by
    rw [State.core_setCore _ _ _ hs]
    rfl
  have h2 : s2.canon ∧ s.onlyCore s2 p ∧ (s2.core p).rest = c.rest := by
    have : ∀ (l : List FoundUe) (u : State), u.canon ∧ s.onlyCore u p ∧ (u.core p).rest = c.rest →
        (l.foldl (fun s x => s.coreUe p x) u).canon ∧ s.onlyCore (l.foldl (fun s x => s.coreUe p x) u) p ∧
          ((l.foldl (fun s x => s.coreUe p x) u).core p).rest = c.rest := by
      intro l
      induction l with
      | nil => exact fun _ h => h
      | cons x r ih =>
        intro u h
        have g := State.coreUe_spec u p p x
        exact ih _ ⟨State.coreUe_canon _ _ _ h.1, h.2.1.step g.1, by rw [g.2]; exact h.2.2⟩
    exact this _ _ ⟨c1, o1, r1⟩
  have h3 : s3.canon ∧ s.onlyCore s3 p ∧ (s3.core p).rest = c.rest := by
    have : ∀ (l : List RemotePost) (u : State), u.canon ∧ s.onlyCore u p ∧ (u.core p).rest = c.rest →
        (l.foldl (fun s x => s.post x.core x.token x.count) u).canon ∧
          s.onlyCore (l.foldl (fun s x => s.post x.core x.token x.count) u) p ∧
          ((l.foldl (fun s x => s.post x.core x.token x.count) u).core p).rest = c.rest := by
      intro l
      induction l with
      | nil => exact fun _ h => h
      | cons x r ih =>
        intro u h
        have g := State.post_spec u x.core x.token x.count p h.1
        exact ih _ ⟨State.post_canon _ _ _ _ h.1, h.2.1.step g.1, (g.2 p).trans h.2.2⟩
    exact this _ _ h2
  have : ∀ (l : List Tap) (u : State), s.onlyCore u p ∧ (u.core p).rest = c.rest →
      s.onlyCore (l.foldl State.tap u) p ∧ ((l.foldl State.tap u).core p).rest = c.rest := by
    intro l
    induction l with
    | nil => exact fun _ h => h
    | cons x r ih =>
      intro u h
      have g := State.tap_spec u x p
      exact ih _ ⟨h.1.step g.1, by rw [g.2]; exact h.2⟩
  exact this _ _ h3.2

/-- A core of a working module acts. -/
theorem State.atCore_spec (s : State) (p : Nat) (f : CoreEnv → Core → Core) (hs : s.canon)
    (hf : ∀ e x, x.canon → (f e x).canon) (hr : s.coresRun = true) (ho : s.coreOn p = true) :
    s.onlyCore (s.atCore p f) p ∧ ((s.atCore p f).core p).rest = (f (s.coreEnv p) (s.core p)).rest := by
  unfold State.atCore
  rw [hr, ho]
  exact State.onCore_spec s p f hs hf

theorem State.atCore_onlyCore (s : State) (p : Nat) (f : CoreEnv → Core → Core) (hs : s.canon)
    (hf : ∀ e x, x.canon → (f e x).canon) : s.onlyCore (s.atCore p f) p := by
  unfold State.atCore
  split
  · exact (State.onCore_spec s p f hs hf).1
  · exact State.onlyCore_refl s p

end Sys2Proof.Machine
end

