-- ==== Sys2Proof/Laws/Issue.lean ====
section
/-! SUPPORT. What the issue of an instruction comes to: the instruction's own effect on the core of its issue cycle. -/

namespace Sys2Proof.Machine

theorem Core.note_stream (c : Core) (o : DecodeOutcome) (raw : CodeWord) (a : BitVec 21) (d i r : Bool) (n : Nat) (k : StreamId) :
    (c.note o raw a d i r n).stream k = c.stream k := by
  cases o <;> cases k <;> rfl

theorem Core.note_cycle (c : Core) (o : DecodeOutcome) (raw : CodeWord) (a : BitVec 21) (d i r : Bool) (n : Nat) :
    (c.note o raw a d i r n).cycle = c.cycle := by
  cases o <;> rfl

/-- A stream whose line is readable and whose instruction is decoded has no poison in that line. -/
theorem Stream.peek_clean (st : Stream) (d : Decoded) (h : st.peek = some d) :
    ((st.halfOf st.half).line (st.pc.toNat / 4)).2.2.poison = false := by
  unfold Stream.peek at h
  dsimp only at h
  split at h
  · cases h
  · rename_i hp
    exact eq_false_of_ne_true hp

/-- An instruction other than a VU one that the command names: its body acts on the core at issue. -/
theorem Core.issue_body (s : State) (c : CoreId) (k : StreamId) (d : Decoded) (want : Insn → Bool)
    (body : CoreEnv → Core → StreamId → Decoded → Core) (h : s.issues c k d) (hw : want d.2.2 = true) (hv : isVu d.2.2 = false) :
    (s.core c.val).issue (s.coreEnv c.val) k want body = body (s.coreEnv c.val) (s.coreAtIssue c k) k d := by
  obtain ⟨_, _, h3, h4, h5⟩ := h
  unfold Core.issue
  unfold State.coreAtIssue at h4 h5 ⊢
  dsimp only at h4 h5 ⊢
  generalize (s.core c.val).advanceTo (s.coreEnv c.val) (max ((s.core c.val).stream k).nextIssue (s.core c.val).cycle) = y at h4 h5 ⊢
  rw [Core.note_stream] at h4 h5
  have hp := Stream.peek_clean _ _ h5
  rw [if_neg (by simp [h3]), if_neg (by simp [h4]), hp, h5]
  simp [hw, hv]

/-- A VU instruction that the command names: its body acts on the core at its VU cycle. -/
theorem Core.issue_vu (s : State) (c : CoreId) (k : StreamId) (d : Decoded) (want : Insn → Bool)
    (body : CoreEnv → Core → StreamId → Decoded → Core) (h : s.issuesVu c k d) (hw : want d.2.2 = true) :
    (s.core c.val).issue (s.coreEnv c.val) k want body = body (s.coreEnv c.val) (s.coreAtVu c k) k d := by
  obtain ⟨⟨_, _, h3, h4, h5⟩, hv, h6, h7⟩ := h
  unfold Core.issue
  unfold State.coreAtVu
  unfold State.coreAtIssue at h4 h5 h6 h7 ⊢
  dsimp only at h4 h5 h6 h7 ⊢
  generalize (s.core c.val).advanceTo (s.coreEnv c.val) (max ((s.core c.val).stream k).nextIssue (s.core c.val).cycle) = y at h4 h5 h6 h7 ⊢
  rw [Core.note_stream] at h4 h5
  have hp := Stream.peek_clean _ _ h5
  rw [Core.note_cycle] at h6 h7 ⊢
  generalize hz : (y.note ((y.stream k).halfOf (y.stream k).half |>.line ((y.stream k).pc.toNat / 4)).1
      ((y.stream k).halfOf (y.stream k).half |>.line ((y.stream k).pc.toNat / 4)).2.1
      (BitVec.ofNat 21 (32 * ((y.stream k).pc.toNat / 4))) false true false (streamNo k)).advanceTo (s.coreEnv c.val)
        (vuCycle k y.cycle) = z at h6 h7 ⊢
  have hb : ¬(k = .b ∧ (usedAt z.lastVu .f z.cycle ∨ z.fIssuesAt z.cycle isVu)) := by
    rintro ⟨e, o⟩
    have := h7 e
    simp_all
  rw [if_neg (by simp [h3]), if_neg (by simp [h4]), hp, h5]
  simp only [Bool.false_eq_true, if_false, hw, Bool.not_true, hv, if_true]
  rw [if_neg (by simp [h6]), if_neg hb]

/-- The command of an instruction that is no VU instruction. -/
theorem State.issue_becomes (s : State) (c : CoreId) (k : StreamId) (d : Decoded) (want : Insn → Bool)
    (body : CoreEnv → Core → StreamId → Decoded → Core) (hs : s.canon) (h : s.issues c k d) (hw : want d.2.2 = true)
    (hv : isVu d.2.2 = false) (hb : ∀ env x s d, x.canon → (body env x s d).canon) :
    s.becomes (s.issue c k want body) c (body (s.coreEnv c.val) (s.coreAtIssue c k) k d) := by
  have g := State.atCore_spec s c.val (fun env x => x.issue env k want body) hs
    (fun e x hx => Core.issue_canon e x k want body hb hx) h.1 h.2.1
  refine ⟨g.1, ?_⟩
  rw [← Core.issue_body s c k d want body h hw hv]
  exact g.2

/-- The command of a VU instruction. -/
theorem State.issue_becomes_vu (s : State) (c : CoreId) (k : StreamId) (d : Decoded) (want : Insn → Bool)
    (body : CoreEnv → Core → StreamId → Decoded → Core) (hs : s.canon) (h : s.issuesVu c k d) (hw : want d.2.2 = true)
    (hb : ∀ env x s d, x.canon → (body env x s d).canon) :
    s.becomes (s.issue c k want body) c (body (s.coreEnv c.val) (s.coreAtVu c k) k d) := by
  have g := State.atCore_spec s c.val (fun env x => x.issue env k want body) hs
    (fun e x hx => Core.issue_canon e x k want body hb hx) h.1.1 h.1.2.1
  refine ⟨g.1, ?_⟩
  rw [← Core.issue_vu s c k d want body h hw]
  exact g.2

end Sys2Proof.Machine
end

