-- ==== Sys2Proof/Laws/State.lean ====
section
/-! SUPPORT. What each plain update of the state leaves of each of its parts, so that no proof need unfold one. -/

namespace Sys2Proof.Machine

variable (s : State)

@[simp] theorem State.send_pending (o : Out) : (s.send o).pending = s.pending := rfl
@[simp] theorem State.send_ident (o : Out) : (s.send o).ident = s.ident := rfl
@[simp] theorem State.send_cores (o : Out) : (s.send o).cores = s.cores := rfl
@[simp] theorem State.send_mem (o : Out) : (s.send o).mem = s.mem := rfl
@[simp] theorem State.send_erg (o : Out) : (s.send o).erg = s.erg := rfl
@[simp] theorem State.send_coll (o : Out) : (s.send o).coll = s.coll := rfl
@[simp] theorem State.send_host (o : Out) : (s.send o).host = s.host := rfl
@[simp] theorem State.send_job (o : Out) : (s.send o).job = s.job := rfl
@[simp] theorem State.send_silent (o : Out) : (s.send o).silent = s.silent := rfl
@[simp] theorem State.send_power (o : Out) : (s.send o).power = s.power := rfl
@[simp] theorem State.send_notar (o : Out) : (s.send o).notar = s.notar := rfl
@[simp] theorem State.send_cairn (o : Out) : (s.send o).cairn = s.cairn := rfl
@[simp] theorem State.send_out (o : Out) : (s.send o).out = s.out ++ [o] := rfl
@[simp] theorem State.send_free (o : Out) : (s.send o).free = s.free := rfl
@[simp] theorem State.send_cycle (o : Out) : (s.send o).cycle = s.cycle := rfl

@[simp] theorem State.mark_pending (f : CycleMarks → CycleMarks) : (s.mark f).pending = s.pending := rfl
@[simp] theorem State.mark_ident (f : CycleMarks → CycleMarks) : (s.mark f).ident = s.ident := rfl
@[simp] theorem State.mark_cores (f : CycleMarks → CycleMarks) : (s.mark f).cores = s.cores := rfl
@[simp] theorem State.mark_mem (f : CycleMarks → CycleMarks) : (s.mark f).mem = s.mem := rfl
@[simp] theorem State.mark_erg (f : CycleMarks → CycleMarks) : (s.mark f).erg = s.erg := rfl
@[simp] theorem State.mark_coll (f : CycleMarks → CycleMarks) : (s.mark f).coll = s.coll := rfl
@[simp] theorem State.mark_host (f : CycleMarks → CycleMarks) : (s.mark f).host = s.host := rfl
@[simp] theorem State.mark_job (f : CycleMarks → CycleMarks) : (s.mark f).job = s.job := rfl
@[simp] theorem State.mark_silent (f : CycleMarks → CycleMarks) : (s.mark f).silent = s.silent := rfl
@[simp] theorem State.mark_power (f : CycleMarks → CycleMarks) : (s.mark f).power = s.power := rfl
@[simp] theorem State.mark_notar (f : CycleMarks → CycleMarks) : (s.mark f).notar = s.notar := rfl
@[simp] theorem State.mark_cairn (f : CycleMarks → CycleMarks) : (s.mark f).cairn = s.cairn := rfl
@[simp] theorem State.mark_out (f : CycleMarks → CycleMarks) : (s.mark f).out = s.out := rfl
@[simp] theorem State.mark_free (f : CycleMarks → CycleMarks) : (s.mark f).free = s.free := rfl
@[simp] theorem State.mark_cycle (f : CycleMarks → CycleMarks) : (s.mark f).cycle = s.cycle.map f := rfl

@[simp] theorem State.draw_pending (place : Nat) : (s.draw place).2.pending = s.pending := rfl
@[simp] theorem State.draw_ident (place : Nat) : (s.draw place).2.ident = s.ident := rfl
@[simp] theorem State.draw_cores (place : Nat) : (s.draw place).2.cores = s.cores := rfl
@[simp] theorem State.draw_mem (place : Nat) : (s.draw place).2.mem = s.mem := rfl
@[simp] theorem State.draw_erg (place : Nat) : (s.draw place).2.erg = s.erg := rfl
@[simp] theorem State.draw_coll (place : Nat) : (s.draw place).2.coll = s.coll := rfl
@[simp] theorem State.draw_host (place : Nat) : (s.draw place).2.host = s.host := rfl
@[simp] theorem State.draw_job (place : Nat) : (s.draw place).2.job = s.job := rfl
@[simp] theorem State.draw_silent (place : Nat) : (s.draw place).2.silent = s.silent := rfl
@[simp] theorem State.draw_power (place : Nat) : (s.draw place).2.power = s.power := rfl
@[simp] theorem State.draw_notar (place : Nat) : (s.draw place).2.notar = s.notar := rfl
@[simp] theorem State.draw_cairn (place : Nat) : (s.draw place).2.cairn = s.cairn := rfl
@[simp] theorem State.draw_out (place : Nat) : (s.draw place).2.out = s.out := rfl
@[simp] theorem State.draw_free (place : Nat) : (s.draw place).2.free = s.free + 1 := rfl
@[simp] theorem State.draw_cycle (place : Nat) : (s.draw place).2.cycle = s.cycle := rfl

@[simp] theorem State.setCore_pending (p : Nat) (c : Core) : (s.setCore p c).pending = s.pending := rfl
@[simp] theorem State.setCore_ident (p : Nat) (c : Core) : (s.setCore p c).ident = s.ident := rfl
@[simp] theorem State.setCore_cores (p : Nat) (c : Core) : (s.setCore p c).cores = spSet Core.reset s.cores p c := rfl
@[simp] theorem State.setCore_mem (p : Nat) (c : Core) : (s.setCore p c).mem = s.mem := rfl
@[simp] theorem State.setCore_erg (p : Nat) (c : Core) : (s.setCore p c).erg = s.erg := rfl
@[simp] theorem State.setCore_coll (p : Nat) (c : Core) : (s.setCore p c).coll = s.coll := rfl
@[simp] theorem State.setCore_host (p : Nat) (c : Core) : (s.setCore p c).host = s.host := rfl
@[simp] theorem State.setCore_job (p : Nat) (c : Core) : (s.setCore p c).job = s.job := rfl
@[simp] theorem State.setCore_silent (p : Nat) (c : Core) : (s.setCore p c).silent = s.silent := rfl
@[simp] theorem State.setCore_power (p : Nat) (c : Core) : (s.setCore p c).power = s.power := rfl
@[simp] theorem State.setCore_notar (p : Nat) (c : Core) : (s.setCore p c).notar = s.notar := rfl
@[simp] theorem State.setCore_cairn (p : Nat) (c : Core) : (s.setCore p c).cairn = s.cairn := rfl
@[simp] theorem State.setCore_out (p : Nat) (c : Core) : (s.setCore p c).out = s.out := rfl
@[simp] theorem State.setCore_free (p : Nat) (c : Core) : (s.setCore p c).free = s.free := rfl
@[simp] theorem State.setCore_cycle (p : Nat) (c : Core) : (s.setCore p c).cycle = s.cycle := rfl

@[simp] theorem State.modLog_pending (src : Nat) (f : SrcLog → SrcLog) : (s.modLog src f).pending = s.pending := rfl
@[simp] theorem State.modLog_ident (src : Nat) (f : SrcLog → SrcLog) : (s.modLog src f).ident = s.ident := rfl
@[simp] theorem State.modLog_cores (src : Nat) (f : SrcLog → SrcLog) : (s.modLog src f).cores = s.cores := rfl
@[simp] theorem State.modLog_erg (src : Nat) (f : SrcLog → SrcLog) : (s.modLog src f).erg = s.erg := rfl
@[simp] theorem State.modLog_coll (src : Nat) (f : SrcLog → SrcLog) : (s.modLog src f).coll = s.coll := rfl
@[simp] theorem State.modLog_host (src : Nat) (f : SrcLog → SrcLog) : (s.modLog src f).host = s.host := rfl
@[simp] theorem State.modLog_job (src : Nat) (f : SrcLog → SrcLog) : (s.modLog src f).job = s.job := rfl
@[simp] theorem State.modLog_silent (src : Nat) (f : SrcLog → SrcLog) : (s.modLog src f).silent = s.silent := rfl
@[simp] theorem State.modLog_power (src : Nat) (f : SrcLog → SrcLog) : (s.modLog src f).power = s.power := rfl
@[simp] theorem State.modLog_notar (src : Nat) (f : SrcLog → SrcLog) : (s.modLog src f).notar = s.notar := rfl
@[simp] theorem State.modLog_cairn (src : Nat) (f : SrcLog → SrcLog) : (s.modLog src f).cairn = s.cairn := rfl
@[simp] theorem State.modLog_out (src : Nat) (f : SrcLog → SrcLog) : (s.modLog src f).out = s.out := rfl
@[simp] theorem State.modLog_free (src : Nat) (f : SrcLog → SrcLog) : (s.modLog src f).free = s.free := rfl
@[simp] theorem State.modLog_cycle (src : Nat) (f : SrcLog → SrcLog) : (s.modLog src f).cycle = s.cycle := rfl

@[simp] theorem State.modStep_pending (step : BitVec 32) (f : StepInfo → StepInfo) : (s.modStep step f).pending = s.pending := rfl
@[simp] theorem State.modStep_ident (step : BitVec 32) (f : StepInfo → StepInfo) : (s.modStep step f).ident = s.ident := rfl
@[simp] theorem State.modStep_cores (step : BitVec 32) (f : StepInfo → StepInfo) : (s.modStep step f).cores = s.cores := rfl
@[simp] theorem State.modStep_mem (step : BitVec 32) (f : StepInfo → StepInfo) : (s.modStep step f).mem = s.mem := rfl
@[simp] theorem State.modStep_erg (step : BitVec 32) (f : StepInfo → StepInfo) : (s.modStep step f).erg = s.erg := rfl
@[simp] theorem State.modStep_coll (step : BitVec 32) (f : StepInfo → StepInfo) : (s.modStep step f).coll = s.coll := rfl
@[simp] theorem State.modStep_host (step : BitVec 32) (f : StepInfo → StepInfo) : (s.modStep step f).host = s.host := rfl
@[simp] theorem State.modStep_silent (step : BitVec 32) (f : StepInfo → StepInfo) : (s.modStep step f).silent = s.silent := rfl
@[simp] theorem State.modStep_power (step : BitVec 32) (f : StepInfo → StepInfo) : (s.modStep step f).power = s.power := rfl
@[simp] theorem State.modStep_notar (step : BitVec 32) (f : StepInfo → StepInfo) : (s.modStep step f).notar = s.notar := rfl
@[simp] theorem State.modStep_cairn (step : BitVec 32) (f : StepInfo → StepInfo) : (s.modStep step f).cairn = s.cairn := rfl
@[simp] theorem State.modStep_out (step : BitVec 32) (f : StepInfo → StepInfo) : (s.modStep step f).out = s.out := rfl
@[simp] theorem State.modStep_free (step : BitVec 32) (f : StepInfo → StepInfo) : (s.modStep step f).free = s.free := rfl
@[simp] theorem State.modStep_cycle (step : BitVec 32) (f : StepInfo → StepInfo) : (s.modStep step f).cycle = s.cycle := rfl

@[simp] theorem State.modPort_pending (p : Fin 16) (f : Port → Port) : (s.modPort p f).pending = s.pending := rfl
@[simp] theorem State.modPort_ident (p : Fin 16) (f : Port → Port) : (s.modPort p f).ident = s.ident := rfl
@[simp] theorem State.modPort_cores (p : Fin 16) (f : Port → Port) : (s.modPort p f).cores = s.cores := rfl
@[simp] theorem State.modPort_mem (p : Fin 16) (f : Port → Port) : (s.modPort p f).mem = s.mem := rfl
@[simp] theorem State.modPort_coll (p : Fin 16) (f : Port → Port) : (s.modPort p f).coll = s.coll := rfl
@[simp] theorem State.modPort_host (p : Fin 16) (f : Port → Port) : (s.modPort p f).host = s.host := rfl
@[simp] theorem State.modPort_job (p : Fin 16) (f : Port → Port) : (s.modPort p f).job = s.job := rfl
@[simp] theorem State.modPort_silent (p : Fin 16) (f : Port → Port) : (s.modPort p f).silent = s.silent := rfl
@[simp] theorem State.modPort_power (p : Fin 16) (f : Port → Port) : (s.modPort p f).power = s.power := rfl
@[simp] theorem State.modPort_notar (p : Fin 16) (f : Port → Port) : (s.modPort p f).notar = s.notar := rfl
@[simp] theorem State.modPort_cairn (p : Fin 16) (f : Port → Port) : (s.modPort p f).cairn = s.cairn := rfl
@[simp] theorem State.modPort_out (p : Fin 16) (f : Port → Port) : (s.modPort p f).out = s.out := rfl
@[simp] theorem State.modPort_free (p : Fin 16) (f : Port → Port) : (s.modPort p f).free = s.free := rfl
@[simp] theorem State.modPort_cycle (p : Fin 16) (f : Port → Port) : (s.modPort p f).cycle = s.cycle := rfl

@[simp] theorem State.ergCount_pending (i : Fin 8) : (s.ergCount i).pending = s.pending := rfl
@[simp] theorem State.ergCount_ident (i : Fin 8) : (s.ergCount i).ident = s.ident := rfl
@[simp] theorem State.ergCount_cores (i : Fin 8) : (s.ergCount i).cores = s.cores := rfl
@[simp] theorem State.ergCount_mem (i : Fin 8) : (s.ergCount i).mem = s.mem := rfl
@[simp] theorem State.ergCount_coll (i : Fin 8) : (s.ergCount i).coll = s.coll := rfl
@[simp] theorem State.ergCount_host (i : Fin 8) : (s.ergCount i).host = s.host := rfl
@[simp] theorem State.ergCount_job (i : Fin 8) : (s.ergCount i).job = s.job := rfl
@[simp] theorem State.ergCount_silent (i : Fin 8) : (s.ergCount i).silent = s.silent := rfl
@[simp] theorem State.ergCount_power (i : Fin 8) : (s.ergCount i).power = s.power := rfl
@[simp] theorem State.ergCount_notar (i : Fin 8) : (s.ergCount i).notar = s.notar := rfl
@[simp] theorem State.ergCount_cairn (i : Fin 8) : (s.ergCount i).cairn = s.cairn := rfl
@[simp] theorem State.ergCount_out (i : Fin 8) : (s.ergCount i).out = s.out := rfl
@[simp] theorem State.ergCount_free (i : Fin 8) : (s.ergCount i).free = s.free := rfl
@[simp] theorem State.ergCount_cycle (i : Fin 8) : (s.ergCount i).cycle = s.cycle := rfl

@[simp] theorem State.collCount_pending (i : Fin 12) : (s.collCount i).pending = s.pending := rfl
@[simp] theorem State.collCount_ident (i : Fin 12) : (s.collCount i).ident = s.ident := rfl
@[simp] theorem State.collCount_cores (i : Fin 12) : (s.collCount i).cores = s.cores := rfl
@[simp] theorem State.collCount_mem (i : Fin 12) : (s.collCount i).mem = s.mem := rfl
@[simp] theorem State.collCount_erg (i : Fin 12) : (s.collCount i).erg = s.erg := rfl
@[simp] theorem State.collCount_host (i : Fin 12) : (s.collCount i).host = s.host := rfl
@[simp] theorem State.collCount_job (i : Fin 12) : (s.collCount i).job = s.job := rfl
@[simp] theorem State.collCount_silent (i : Fin 12) : (s.collCount i).silent = s.silent := rfl
@[simp] theorem State.collCount_power (i : Fin 12) : (s.collCount i).power = s.power := rfl
@[simp] theorem State.collCount_notar (i : Fin 12) : (s.collCount i).notar = s.notar := rfl
@[simp] theorem State.collCount_cairn (i : Fin 12) : (s.collCount i).cairn = s.cairn := rfl
@[simp] theorem State.collCount_out (i : Fin 12) : (s.collCount i).out = s.out := rfl
@[simp] theorem State.collCount_free (i : Fin 12) : (s.collCount i).free = s.free := rfl
@[simp] theorem State.collCount_cycle (i : Fin 12) : (s.collCount i).cycle = s.cycle := rfl

@[simp] theorem State.putInst_pending (i : Inst) : (s.putInst i).pending = s.pending := rfl
@[simp] theorem State.putInst_ident (i : Inst) : (s.putInst i).ident = s.ident := rfl
@[simp] theorem State.putInst_cores (i : Inst) : (s.putInst i).cores = s.cores := rfl
@[simp] theorem State.putInst_mem (i : Inst) : (s.putInst i).mem = s.mem := rfl
@[simp] theorem State.putInst_erg (i : Inst) : (s.putInst i).erg = s.erg := rfl
@[simp] theorem State.putInst_host (i : Inst) : (s.putInst i).host = s.host := rfl
@[simp] theorem State.putInst_job (i : Inst) : (s.putInst i).job = s.job := rfl
@[simp] theorem State.putInst_silent (i : Inst) : (s.putInst i).silent = s.silent := rfl
@[simp] theorem State.putInst_power (i : Inst) : (s.putInst i).power = s.power := rfl
@[simp] theorem State.putInst_notar (i : Inst) : (s.putInst i).notar = s.notar := rfl
@[simp] theorem State.putInst_cairn (i : Inst) : (s.putInst i).cairn = s.cairn := rfl
@[simp] theorem State.putInst_out (i : Inst) : (s.putInst i).out = s.out := rfl
@[simp] theorem State.putInst_free (i : Inst) : (s.putInst i).free = s.free := rfl
@[simp] theorem State.putInst_cycle (i : Inst) : (s.putInst i).cycle = s.cycle := rfl

@[simp] theorem State.modQueue_pending (q : Fin 8) (f : Queue → Queue) : (s.modQueue q f).pending = s.pending := rfl
@[simp] theorem State.modQueue_ident (q : Fin 8) (f : Queue → Queue) : (s.modQueue q f).ident = s.ident := rfl
@[simp] theorem State.modQueue_cores (q : Fin 8) (f : Queue → Queue) : (s.modQueue q f).cores = s.cores := rfl
@[simp] theorem State.modQueue_mem (q : Fin 8) (f : Queue → Queue) : (s.modQueue q f).mem = s.mem := rfl
@[simp] theorem State.modQueue_erg (q : Fin 8) (f : Queue → Queue) : (s.modQueue q f).erg = s.erg := rfl
@[simp] theorem State.modQueue_coll (q : Fin 8) (f : Queue → Queue) : (s.modQueue q f).coll = s.coll := rfl
@[simp] theorem State.modQueue_job (q : Fin 8) (f : Queue → Queue) : (s.modQueue q f).job = s.job := rfl
@[simp] theorem State.modQueue_silent (q : Fin 8) (f : Queue → Queue) : (s.modQueue q f).silent = s.silent := rfl
@[simp] theorem State.modQueue_power (q : Fin 8) (f : Queue → Queue) : (s.modQueue q f).power = s.power := rfl
@[simp] theorem State.modQueue_notar (q : Fin 8) (f : Queue → Queue) : (s.modQueue q f).notar = s.notar := rfl
@[simp] theorem State.modQueue_cairn (q : Fin 8) (f : Queue → Queue) : (s.modQueue q f).cairn = s.cairn := rfl
@[simp] theorem State.modQueue_out (q : Fin 8) (f : Queue → Queue) : (s.modQueue q f).out = s.out := rfl
@[simp] theorem State.modQueue_free (q : Fin 8) (f : Queue → Queue) : (s.modQueue q f).free = s.free := rfl
@[simp] theorem State.modQueue_cycle (q : Fin 8) (f : Queue → Queue) : (s.modQueue q f).cycle = s.cycle := rfl

@[simp] theorem State.modMail_pending (m : Fin 16) (f : Mailbox → Mailbox) : (s.modMail m f).pending = s.pending := rfl
@[simp] theorem State.modMail_ident (m : Fin 16) (f : Mailbox → Mailbox) : (s.modMail m f).ident = s.ident := rfl
@[simp] theorem State.modMail_cores (m : Fin 16) (f : Mailbox → Mailbox) : (s.modMail m f).cores = s.cores := rfl
@[simp] theorem State.modMail_mem (m : Fin 16) (f : Mailbox → Mailbox) : (s.modMail m f).mem = s.mem := rfl
@[simp] theorem State.modMail_erg (m : Fin 16) (f : Mailbox → Mailbox) : (s.modMail m f).erg = s.erg := rfl
@[simp] theorem State.modMail_coll (m : Fin 16) (f : Mailbox → Mailbox) : (s.modMail m f).coll = s.coll := rfl
@[simp] theorem State.modMail_job (m : Fin 16) (f : Mailbox → Mailbox) : (s.modMail m f).job = s.job := rfl
@[simp] theorem State.modMail_silent (m : Fin 16) (f : Mailbox → Mailbox) : (s.modMail m f).silent = s.silent := rfl
@[simp] theorem State.modMail_power (m : Fin 16) (f : Mailbox → Mailbox) : (s.modMail m f).power = s.power := rfl
@[simp] theorem State.modMail_notar (m : Fin 16) (f : Mailbox → Mailbox) : (s.modMail m f).notar = s.notar := rfl
@[simp] theorem State.modMail_cairn (m : Fin 16) (f : Mailbox → Mailbox) : (s.modMail m f).cairn = s.cairn := rfl
@[simp] theorem State.modMail_out (m : Fin 16) (f : Mailbox → Mailbox) : (s.modMail m f).out = s.out := rfl
@[simp] theorem State.modMail_free (m : Fin 16) (f : Mailbox → Mailbox) : (s.modMail m f).free = s.free := rfl
@[simp] theorem State.modMail_cycle (m : Fin 16) (f : Mailbox → Mailbox) : (s.modMail m f).cycle = s.cycle := rfl

@[simp] theorem State.modCmd_pending (id : Nat) (f : Cmd → Cmd) : (s.modCmd id f).pending = s.pending := rfl
@[simp] theorem State.modCmd_ident (id : Nat) (f : Cmd → Cmd) : (s.modCmd id f).ident = s.ident := rfl
@[simp] theorem State.modCmd_cores (id : Nat) (f : Cmd → Cmd) : (s.modCmd id f).cores = s.cores := rfl
@[simp] theorem State.modCmd_mem (id : Nat) (f : Cmd → Cmd) : (s.modCmd id f).mem = s.mem := rfl
@[simp] theorem State.modCmd_erg (id : Nat) (f : Cmd → Cmd) : (s.modCmd id f).erg = s.erg := rfl
@[simp] theorem State.modCmd_coll (id : Nat) (f : Cmd → Cmd) : (s.modCmd id f).coll = s.coll := rfl
@[simp] theorem State.modCmd_job (id : Nat) (f : Cmd → Cmd) : (s.modCmd id f).job = s.job := rfl
@[simp] theorem State.modCmd_silent (id : Nat) (f : Cmd → Cmd) : (s.modCmd id f).silent = s.silent := rfl
@[simp] theorem State.modCmd_power (id : Nat) (f : Cmd → Cmd) : (s.modCmd id f).power = s.power := rfl
@[simp] theorem State.modCmd_notar (id : Nat) (f : Cmd → Cmd) : (s.modCmd id f).notar = s.notar := rfl
@[simp] theorem State.modCmd_cairn (id : Nat) (f : Cmd → Cmd) : (s.modCmd id f).cairn = s.cairn := rfl
@[simp] theorem State.modCmd_out (id : Nat) (f : Cmd → Cmd) : (s.modCmd id f).out = s.out := rfl
@[simp] theorem State.modCmd_free (id : Nat) (f : Cmd → Cmd) : (s.modCmd id f).free = s.free := rfl
@[simp] theorem State.modCmd_cycle (id : Nat) (f : Cmd → Cmd) : (s.modCmd id f).cycle = s.cycle := rfl

@[simp] theorem State.keepCmd_pending (c : Cmd) : (s.keepCmd c).pending = s.pending := rfl
@[simp] theorem State.keepCmd_ident (c : Cmd) : (s.keepCmd c).ident = s.ident := rfl
@[simp] theorem State.keepCmd_cores (c : Cmd) : (s.keepCmd c).cores = s.cores := rfl
@[simp] theorem State.keepCmd_mem (c : Cmd) : (s.keepCmd c).mem = s.mem := rfl
@[simp] theorem State.keepCmd_erg (c : Cmd) : (s.keepCmd c).erg = s.erg := rfl
@[simp] theorem State.keepCmd_coll (c : Cmd) : (s.keepCmd c).coll = s.coll := rfl
@[simp] theorem State.keepCmd_job (c : Cmd) : (s.keepCmd c).job = s.job := rfl
@[simp] theorem State.keepCmd_silent (c : Cmd) : (s.keepCmd c).silent = s.silent := rfl
@[simp] theorem State.keepCmd_power (c : Cmd) : (s.keepCmd c).power = s.power := rfl
@[simp] theorem State.keepCmd_notar (c : Cmd) : (s.keepCmd c).notar = s.notar := rfl
@[simp] theorem State.keepCmd_cairn (c : Cmd) : (s.keepCmd c).cairn = s.cairn := rfl
@[simp] theorem State.keepCmd_out (c : Cmd) : (s.keepCmd c).out = s.out := rfl
@[simp] theorem State.keepCmd_free (c : Cmd) : (s.keepCmd c).free = s.free := rfl
@[simp] theorem State.keepCmd_cycle (c : Cmd) : (s.keepCmd c).cycle = s.cycle := rfl

@[simp] theorem State.modPages_pending (page count : Nat) (f : Nat → BitVec 32 → BitVec 32) : (s.modPages page count f).pending = s.pending := rfl
@[simp] theorem State.modPages_ident (page count : Nat) (f : Nat → BitVec 32 → BitVec 32) : (s.modPages page count f).ident = s.ident := rfl
@[simp] theorem State.modPages_cores (page count : Nat) (f : Nat → BitVec 32 → BitVec 32) : (s.modPages page count f).cores = s.cores := rfl
@[simp] theorem State.modPages_mem (page count : Nat) (f : Nat → BitVec 32 → BitVec 32) : (s.modPages page count f).mem = s.mem := rfl
@[simp] theorem State.modPages_coll (page count : Nat) (f : Nat → BitVec 32 → BitVec 32) : (s.modPages page count f).coll = s.coll := rfl
@[simp] theorem State.modPages_host (page count : Nat) (f : Nat → BitVec 32 → BitVec 32) : (s.modPages page count f).host = s.host := rfl
@[simp] theorem State.modPages_job (page count : Nat) (f : Nat → BitVec 32 → BitVec 32) : (s.modPages page count f).job = s.job := rfl
@[simp] theorem State.modPages_silent (page count : Nat) (f : Nat → BitVec 32 → BitVec 32) : (s.modPages page count f).silent = s.silent := rfl
@[simp] theorem State.modPages_power (page count : Nat) (f : Nat → BitVec 32 → BitVec 32) : (s.modPages page count f).power = s.power := rfl
@[simp] theorem State.modPages_notar (page count : Nat) (f : Nat → BitVec 32 → BitVec 32) : (s.modPages page count f).notar = s.notar := rfl
@[simp] theorem State.modPages_cairn (page count : Nat) (f : Nat → BitVec 32 → BitVec 32) : (s.modPages page count f).cairn = s.cairn := rfl
@[simp] theorem State.modPages_out (page count : Nat) (f : Nat → BitVec 32 → BitVec 32) : (s.modPages page count f).out = s.out := rfl
@[simp] theorem State.modPages_free (page count : Nat) (f : Nat → BitVec 32 → BitVec 32) : (s.modPages page count f).free = s.free := rfl
@[simp] theorem State.modPages_cycle (page count : Nat) (f : Nat → BitVec 32 → BitVec 32) : (s.modPages page count f).cycle = s.cycle := rfl

@[simp] theorem State.modPower_pending (f : Power → Power) : (s.modPower f).pending = s.pending := rfl
@[simp] theorem State.modPower_ident (f : Power → Power) : (s.modPower f).ident = s.ident := rfl
@[simp] theorem State.modPower_cores (f : Power → Power) : (s.modPower f).cores = s.cores := rfl
@[simp] theorem State.modPower_mem (f : Power → Power) : (s.modPower f).mem = s.mem := rfl
@[simp] theorem State.modPower_erg (f : Power → Power) : (s.modPower f).erg = s.erg := rfl
@[simp] theorem State.modPower_coll (f : Power → Power) : (s.modPower f).coll = s.coll := rfl
@[simp] theorem State.modPower_host (f : Power → Power) : (s.modPower f).host = s.host := rfl
@[simp] theorem State.modPower_job (f : Power → Power) : (s.modPower f).job = s.job := rfl
@[simp] theorem State.modPower_silent (f : Power → Power) : (s.modPower f).silent = s.silent := rfl
@[simp] theorem State.modPower_power (f : Power → Power) : (s.modPower f).power = f s.power := rfl
@[simp] theorem State.modPower_notar (f : Power → Power) : (s.modPower f).notar = s.notar := rfl
@[simp] theorem State.modPower_cairn (f : Power → Power) : (s.modPower f).cairn = s.cairn := rfl
@[simp] theorem State.modPower_out (f : Power → Power) : (s.modPower f).out = s.out := rfl
@[simp] theorem State.modPower_free (f : Power → Power) : (s.modPower f).free = s.free := rfl
@[simp] theorem State.modPower_cycle (f : Power → Power) : (s.modPower f).cycle = s.cycle := rfl

@[simp] theorem State.modNotar_pending (f : Notar → Notar) : (s.modNotar f).pending = s.pending := rfl
@[simp] theorem State.modNotar_ident (f : Notar → Notar) : (s.modNotar f).ident = s.ident := rfl
@[simp] theorem State.modNotar_cores (f : Notar → Notar) : (s.modNotar f).cores = s.cores := rfl
@[simp] theorem State.modNotar_mem (f : Notar → Notar) : (s.modNotar f).mem = s.mem := rfl
@[simp] theorem State.modNotar_erg (f : Notar → Notar) : (s.modNotar f).erg = s.erg := rfl
@[simp] theorem State.modNotar_coll (f : Notar → Notar) : (s.modNotar f).coll = s.coll := rfl
@[simp] theorem State.modNotar_host (f : Notar → Notar) : (s.modNotar f).host = s.host := rfl
@[simp] theorem State.modNotar_job (f : Notar → Notar) : (s.modNotar f).job = s.job := rfl
@[simp] theorem State.modNotar_silent (f : Notar → Notar) : (s.modNotar f).silent = s.silent := rfl
@[simp] theorem State.modNotar_power (f : Notar → Notar) : (s.modNotar f).power = s.power := rfl
@[simp] theorem State.modNotar_notar (f : Notar → Notar) : (s.modNotar f).notar = f s.notar := rfl
@[simp] theorem State.modNotar_cairn (f : Notar → Notar) : (s.modNotar f).cairn = s.cairn := rfl
@[simp] theorem State.modNotar_out (f : Notar → Notar) : (s.modNotar f).out = s.out := rfl
@[simp] theorem State.modNotar_free (f : Notar → Notar) : (s.modNotar f).free = s.free := rfl
@[simp] theorem State.modNotar_cycle (f : Notar → Notar) : (s.modNotar f).cycle = s.cycle := rfl

@[simp] theorem State.noteArrived_pending (id : InstId) (src : BitVec 12) : (s.noteArrived id src).pending = s.pending := rfl
@[simp] theorem State.noteArrived_ident (id : InstId) (src : BitVec 12) : (s.noteArrived id src).ident = s.ident := rfl
@[simp] theorem State.noteArrived_cores (id : InstId) (src : BitVec 12) : (s.noteArrived id src).cores = s.cores := rfl
@[simp] theorem State.noteArrived_mem (id : InstId) (src : BitVec 12) : (s.noteArrived id src).mem = s.mem := rfl
@[simp] theorem State.noteArrived_erg (id : InstId) (src : BitVec 12) : (s.noteArrived id src).erg = s.erg := rfl
@[simp] theorem State.noteArrived_coll (id : InstId) (src : BitVec 12) : (s.noteArrived id src).coll = s.coll := rfl
@[simp] theorem State.noteArrived_host (id : InstId) (src : BitVec 12) : (s.noteArrived id src).host = s.host := rfl
@[simp] theorem State.noteArrived_job (id : InstId) (src : BitVec 12) : (s.noteArrived id src).job = s.job := rfl
@[simp] theorem State.noteArrived_silent (id : InstId) (src : BitVec 12) : (s.noteArrived id src).silent = s.silent := rfl
@[simp] theorem State.noteArrived_power (id : InstId) (src : BitVec 12) : (s.noteArrived id src).power = s.power := rfl
@[simp] theorem State.noteArrived_notar (id : InstId) (src : BitVec 12) : (s.noteArrived id src).notar = s.notar := rfl
@[simp] theorem State.noteArrived_cairn (id : InstId) (src : BitVec 12) : (s.noteArrived id src).cairn = s.cairn := rfl
@[simp] theorem State.noteArrived_out (id : InstId) (src : BitVec 12) : (s.noteArrived id src).out = s.out := rfl
@[simp] theorem State.noteArrived_free (id : InstId) (src : BitVec 12) : (s.noteArrived id src).free = s.free := rfl

@[simp] theorem State.modConn_pending (t : Transport) (f : SpdmConn → SpdmConn) : (s.modConn t f).pending = s.pending := rfl
@[simp] theorem State.modConn_ident (t : Transport) (f : SpdmConn → SpdmConn) : (s.modConn t f).ident = s.ident := rfl
@[simp] theorem State.modConn_cores (t : Transport) (f : SpdmConn → SpdmConn) : (s.modConn t f).cores = s.cores := rfl
@[simp] theorem State.modConn_mem (t : Transport) (f : SpdmConn → SpdmConn) : (s.modConn t f).mem = s.mem := rfl
@[simp] theorem State.modConn_erg (t : Transport) (f : SpdmConn → SpdmConn) : (s.modConn t f).erg = s.erg := rfl
@[simp] theorem State.modConn_coll (t : Transport) (f : SpdmConn → SpdmConn) : (s.modConn t f).coll = s.coll := rfl
@[simp] theorem State.modConn_host (t : Transport) (f : SpdmConn → SpdmConn) : (s.modConn t f).host = s.host := rfl
@[simp] theorem State.modConn_job (t : Transport) (f : SpdmConn → SpdmConn) : (s.modConn t f).job = s.job := rfl
@[simp] theorem State.modConn_silent (t : Transport) (f : SpdmConn → SpdmConn) : (s.modConn t f).silent = s.silent := rfl
@[simp] theorem State.modConn_power (t : Transport) (f : SpdmConn → SpdmConn) : (s.modConn t f).power = s.power := rfl
@[simp] theorem State.modConn_cairn (t : Transport) (f : SpdmConn → SpdmConn) : (s.modConn t f).cairn = s.cairn := rfl
@[simp] theorem State.modConn_out (t : Transport) (f : SpdmConn → SpdmConn) : (s.modConn t f).out = s.out := rfl
@[simp] theorem State.modConn_free (t : Transport) (f : SpdmConn → SpdmConn) : (s.modConn t f).free = s.free := rfl
@[simp] theorem State.modConn_cycle (t : Transport) (f : SpdmConn → SpdmConn) : (s.modConn t f).cycle = s.cycle := rfl

@[simp] theorem State.modClosing_pending (step : BitVec 32) (f : Closing → Closing) : (s.modClosing step f).pending = s.pending := rfl
@[simp] theorem State.modClosing_ident (step : BitVec 32) (f : Closing → Closing) : (s.modClosing step f).ident = s.ident := rfl
@[simp] theorem State.modClosing_cores (step : BitVec 32) (f : Closing → Closing) : (s.modClosing step f).cores = s.cores := rfl
@[simp] theorem State.modClosing_mem (step : BitVec 32) (f : Closing → Closing) : (s.modClosing step f).mem = s.mem := rfl
@[simp] theorem State.modClosing_erg (step : BitVec 32) (f : Closing → Closing) : (s.modClosing step f).erg = s.erg := rfl
@[simp] theorem State.modClosing_coll (step : BitVec 32) (f : Closing → Closing) : (s.modClosing step f).coll = s.coll := rfl
@[simp] theorem State.modClosing_host (step : BitVec 32) (f : Closing → Closing) : (s.modClosing step f).host = s.host := rfl
@[simp] theorem State.modClosing_silent (step : BitVec 32) (f : Closing → Closing) : (s.modClosing step f).silent = s.silent := rfl
@[simp] theorem State.modClosing_power (step : BitVec 32) (f : Closing → Closing) : (s.modClosing step f).power = s.power := rfl
@[simp] theorem State.modClosing_notar (step : BitVec 32) (f : Closing → Closing) : (s.modClosing step f).notar = s.notar := rfl
@[simp] theorem State.modClosing_cairn (step : BitVec 32) (f : Closing → Closing) : (s.modClosing step f).cairn = s.cairn := rfl
@[simp] theorem State.modClosing_out (step : BitVec 32) (f : Closing → Closing) : (s.modClosing step f).out = s.out := rfl
@[simp] theorem State.modClosing_free (step : BitVec 32) (f : Closing → Closing) : (s.modClosing step f).free = s.free := rfl
@[simp] theorem State.modClosing_cycle (step : BitVec 32) (f : Closing → Closing) : (s.modClosing step f).cycle = s.cycle := rfl

@[simp] theorem State.modChan_pending (p : Nat) (ch : Fin 4) (f : Channel → Channel) : (s.modChan p ch f).pending = s.pending := rfl
@[simp] theorem State.modChan_ident (p : Nat) (ch : Fin 4) (f : Channel → Channel) : (s.modChan p ch f).ident = s.ident := rfl
@[simp] theorem State.modChan_mem (p : Nat) (ch : Fin 4) (f : Channel → Channel) : (s.modChan p ch f).mem = s.mem := rfl
@[simp] theorem State.modChan_erg (p : Nat) (ch : Fin 4) (f : Channel → Channel) : (s.modChan p ch f).erg = s.erg := rfl
@[simp] theorem State.modChan_coll (p : Nat) (ch : Fin 4) (f : Channel → Channel) : (s.modChan p ch f).coll = s.coll := rfl
@[simp] theorem State.modChan_host (p : Nat) (ch : Fin 4) (f : Channel → Channel) : (s.modChan p ch f).host = s.host := rfl
@[simp] theorem State.modChan_job (p : Nat) (ch : Fin 4) (f : Channel → Channel) : (s.modChan p ch f).job = s.job := rfl
@[simp] theorem State.modChan_silent (p : Nat) (ch : Fin 4) (f : Channel → Channel) : (s.modChan p ch f).silent = s.silent := rfl
@[simp] theorem State.modChan_power (p : Nat) (ch : Fin 4) (f : Channel → Channel) : (s.modChan p ch f).power = s.power := rfl
@[simp] theorem State.modChan_notar (p : Nat) (ch : Fin 4) (f : Channel → Channel) : (s.modChan p ch f).notar = s.notar := rfl
@[simp] theorem State.modChan_cairn (p : Nat) (ch : Fin 4) (f : Channel → Channel) : (s.modChan p ch f).cairn = s.cairn := rfl
@[simp] theorem State.modChan_out (p : Nat) (ch : Fin 4) (f : Channel → Channel) : (s.modChan p ch f).out = s.out := rfl
@[simp] theorem State.modChan_free (p : Nat) (ch : Fin 4) (f : Channel → Channel) : (s.modChan p ch f).free = s.free := rfl
@[simp] theorem State.modChan_cycle (p : Nat) (ch : Fin 4) (f : Channel → Channel) : (s.modChan p ch f).cycle = s.cycle := rfl

@[simp] theorem State.keepEnd_pending (p : Nat) (k : StreamId) : (s.keepEnd p k).pending = s.pending := rfl
@[simp] theorem State.keepEnd_ident (p : Nat) (k : StreamId) : (s.keepEnd p k).ident = s.ident := rfl
@[simp] theorem State.keepEnd_cores (p : Nat) (k : StreamId) : (s.keepEnd p k).cores = s.cores := rfl
@[simp] theorem State.keepEnd_mem (p : Nat) (k : StreamId) : (s.keepEnd p k).mem = s.mem := rfl
@[simp] theorem State.keepEnd_erg (p : Nat) (k : StreamId) : (s.keepEnd p k).erg = s.erg := rfl
@[simp] theorem State.keepEnd_coll (p : Nat) (k : StreamId) : (s.keepEnd p k).coll = s.coll := rfl
@[simp] theorem State.keepEnd_job (p : Nat) (k : StreamId) : (s.keepEnd p k).job = s.job := rfl
@[simp] theorem State.keepEnd_silent (p : Nat) (k : StreamId) : (s.keepEnd p k).silent = s.silent := rfl
@[simp] theorem State.keepEnd_power (p : Nat) (k : StreamId) : (s.keepEnd p k).power = s.power := rfl
@[simp] theorem State.keepEnd_notar (p : Nat) (k : StreamId) : (s.keepEnd p k).notar = s.notar := rfl
@[simp] theorem State.keepEnd_cairn (p : Nat) (k : StreamId) : (s.keepEnd p k).cairn = s.cairn := rfl
@[simp] theorem State.keepEnd_out (p : Nat) (k : StreamId) : (s.keepEnd p k).out = s.out := rfl
@[simp] theorem State.keepEnd_free (p : Nat) (k : StreamId) : (s.keepEnd p k).free = s.free := rfl
@[simp] theorem State.keepEnd_cycle (p : Nat) (k : StreamId) : (s.keepEnd p k).cycle = s.cycle := rfl

@[simp] theorem State.setClock_pending (p clk : Nat) : (s.setClock p clk).pending = s.pending := rfl
@[simp] theorem State.setClock_ident (p clk : Nat) : (s.setClock p clk).ident = s.ident := rfl
@[simp] theorem State.setClock_cores (p clk : Nat) : (s.setClock p clk).cores = s.cores := rfl
@[simp] theorem State.setClock_mem (p clk : Nat) : (s.setClock p clk).mem = s.mem := rfl
@[simp] theorem State.setClock_erg (p clk : Nat) : (s.setClock p clk).erg = s.erg := rfl
@[simp] theorem State.setClock_coll (p clk : Nat) : (s.setClock p clk).coll = s.coll := rfl
@[simp] theorem State.setClock_host (p clk : Nat) : (s.setClock p clk).host = s.host := rfl
@[simp] theorem State.setClock_job (p clk : Nat) : (s.setClock p clk).job = s.job := rfl
@[simp] theorem State.setClock_power (p clk : Nat) : (s.setClock p clk).power = s.power := rfl
@[simp] theorem State.setClock_notar (p clk : Nat) : (s.setClock p clk).notar = s.notar := rfl
@[simp] theorem State.setClock_cairn (p clk : Nat) : (s.setClock p clk).cairn = s.cairn := rfl
@[simp] theorem State.setClock_out (p clk : Nat) : (s.setClock p clk).out = s.out := rfl
@[simp] theorem State.setClock_free (p clk : Nat) : (s.setClock p clk).free = s.free := rfl
@[simp] theorem State.setClock_cycle (p clk : Nat) : (s.setClock p clk).cycle = s.cycle := rfl

@[simp] theorem State.clearPm_pending (v : Nat) : (s.clearPm v).pending = s.pending := rfl
@[simp] theorem State.clearPm_ident (v : Nat) : (s.clearPm v).ident = s.ident := rfl
@[simp] theorem State.clearPm_cores (v : Nat) : (s.clearPm v).cores = s.cores := rfl
@[simp] theorem State.clearPm_mem (v : Nat) : (s.clearPm v).mem = s.mem := rfl
@[simp] theorem State.clearPm_erg (v : Nat) : (s.clearPm v).erg = s.erg := rfl
@[simp] theorem State.clearPm_coll (v : Nat) : (s.clearPm v).coll = s.coll := rfl
@[simp] theorem State.clearPm_host (v : Nat) : (s.clearPm v).host = s.host := rfl
@[simp] theorem State.clearPm_job (v : Nat) : (s.clearPm v).job = s.job := rfl
@[simp] theorem State.clearPm_silent (v : Nat) : (s.clearPm v).silent = s.silent := rfl
@[simp] theorem State.clearPm_notar (v : Nat) : (s.clearPm v).notar = s.notar := rfl
@[simp] theorem State.clearPm_cairn (v : Nat) : (s.clearPm v).cairn = s.cairn := rfl
@[simp] theorem State.clearPm_out (v : Nat) : (s.clearPm v).out = s.out := rfl
@[simp] theorem State.clearPm_free (v : Nat) : (s.clearPm v).free = s.free := rfl
@[simp] theorem State.clearPm_cycle (v : Nat) : (s.clearPm v).cycle = s.cycle := rfl

@[simp] theorem State.clearPeaks_pending : (s.clearPeaks).pending = s.pending := rfl
@[simp] theorem State.clearPeaks_ident : (s.clearPeaks).ident = s.ident := rfl
@[simp] theorem State.clearPeaks_cores : (s.clearPeaks).cores = s.cores := rfl
@[simp] theorem State.clearPeaks_mem : (s.clearPeaks).mem = s.mem := rfl
@[simp] theorem State.clearPeaks_erg : (s.clearPeaks).erg = s.erg := rfl
@[simp] theorem State.clearPeaks_coll : (s.clearPeaks).coll = s.coll := rfl
@[simp] theorem State.clearPeaks_host : (s.clearPeaks).host = s.host := rfl
@[simp] theorem State.clearPeaks_job : (s.clearPeaks).job = s.job := rfl
@[simp] theorem State.clearPeaks_silent : (s.clearPeaks).silent = s.silent := rfl
@[simp] theorem State.clearPeaks_notar : (s.clearPeaks).notar = s.notar := rfl
@[simp] theorem State.clearPeaks_cairn : (s.clearPeaks).cairn = s.cairn := rfl
@[simp] theorem State.clearPeaks_out : (s.clearPeaks).out = s.out := rfl
@[simp] theorem State.clearPeaks_free : (s.clearPeaks).free = s.free := rfl
@[simp] theorem State.clearPeaks_cycle : (s.clearPeaks).cycle = s.cycle := rfl

@[simp] theorem State.clearSource_pending (src : Nat) : (s.clearSource src).pending = s.pending := rfl
@[simp] theorem State.clearSource_ident (src : Nat) : (s.clearSource src).ident = s.ident := rfl
@[simp] theorem State.clearSource_cores (src : Nat) : (s.clearSource src).cores = s.cores := rfl
@[simp] theorem State.clearSource_erg (src : Nat) : (s.clearSource src).erg = s.erg := rfl
@[simp] theorem State.clearSource_coll (src : Nat) : (s.clearSource src).coll = s.coll := rfl
@[simp] theorem State.clearSource_host (src : Nat) : (s.clearSource src).host = s.host := rfl
@[simp] theorem State.clearSource_job (src : Nat) : (s.clearSource src).job = s.job := rfl
@[simp] theorem State.clearSource_silent (src : Nat) : (s.clearSource src).silent = s.silent := rfl
@[simp] theorem State.clearSource_power (src : Nat) : (s.clearSource src).power = s.power := rfl
@[simp] theorem State.clearSource_notar (src : Nat) : (s.clearSource src).notar = s.notar := rfl
@[simp] theorem State.clearSource_cairn (src : Nat) : (s.clearSource src).cairn = s.cairn := rfl
@[simp] theorem State.clearSource_out (src : Nat) : (s.clearSource src).out = s.out := rfl
@[simp] theorem State.clearSource_free (src : Nat) : (s.clearSource src).free = s.free := rfl
@[simp] theorem State.clearSource_cycle (src : Nat) : (s.clearSource src).cycle = s.cycle := rfl

@[simp] theorem State.clearErgCounts_pending : (s.clearErgCounts).pending = s.pending := rfl
@[simp] theorem State.clearErgCounts_ident : (s.clearErgCounts).ident = s.ident := rfl
@[simp] theorem State.clearErgCounts_cores : (s.clearErgCounts).cores = s.cores := rfl
@[simp] theorem State.clearErgCounts_mem : (s.clearErgCounts).mem = s.mem := rfl
@[simp] theorem State.clearErgCounts_coll : (s.clearErgCounts).coll = s.coll := rfl
@[simp] theorem State.clearErgCounts_host : (s.clearErgCounts).host = s.host := rfl
@[simp] theorem State.clearErgCounts_job : (s.clearErgCounts).job = s.job := rfl
@[simp] theorem State.clearErgCounts_silent : (s.clearErgCounts).silent = s.silent := rfl
@[simp] theorem State.clearErgCounts_power : (s.clearErgCounts).power = s.power := rfl
@[simp] theorem State.clearErgCounts_notar : (s.clearErgCounts).notar = s.notar := rfl
@[simp] theorem State.clearErgCounts_cairn : (s.clearErgCounts).cairn = s.cairn := rfl
@[simp] theorem State.clearErgCounts_out : (s.clearErgCounts).out = s.out := rfl
@[simp] theorem State.clearErgCounts_free : (s.clearErgCounts).free = s.free := rfl
@[simp] theorem State.clearErgCounts_cycle : (s.clearErgCounts).cycle = s.cycle := rfl

@[simp] theorem State.clearCollCounts_pending : (s.clearCollCounts).pending = s.pending := rfl
@[simp] theorem State.clearCollCounts_ident : (s.clearCollCounts).ident = s.ident := rfl
@[simp] theorem State.clearCollCounts_cores : (s.clearCollCounts).cores = s.cores := rfl
@[simp] theorem State.clearCollCounts_mem : (s.clearCollCounts).mem = s.mem := rfl
@[simp] theorem State.clearCollCounts_erg : (s.clearCollCounts).erg = s.erg := rfl
@[simp] theorem State.clearCollCounts_host : (s.clearCollCounts).host = s.host := rfl
@[simp] theorem State.clearCollCounts_job : (s.clearCollCounts).job = s.job := rfl
@[simp] theorem State.clearCollCounts_silent : (s.clearCollCounts).silent = s.silent := rfl
@[simp] theorem State.clearCollCounts_power : (s.clearCollCounts).power = s.power := rfl
@[simp] theorem State.clearCollCounts_notar : (s.clearCollCounts).notar = s.notar := rfl
@[simp] theorem State.clearCollCounts_cairn : (s.clearCollCounts).cairn = s.cairn := rfl
@[simp] theorem State.clearCollCounts_out : (s.clearCollCounts).out = s.out := rfl
@[simp] theorem State.clearCollCounts_free : (s.clearCollCounts).free = s.free := rfl
@[simp] theorem State.clearCollCounts_cycle : (s.clearCollCounts).cycle = s.cycle := rfl

@[simp] theorem State.clearHcCounts_pending : (s.clearHcCounts).pending = s.pending := rfl
@[simp] theorem State.clearHcCounts_ident : (s.clearHcCounts).ident = s.ident := rfl
@[simp] theorem State.clearHcCounts_cores : (s.clearHcCounts).cores = s.cores := rfl
@[simp] theorem State.clearHcCounts_mem : (s.clearHcCounts).mem = s.mem := rfl
@[simp] theorem State.clearHcCounts_erg : (s.clearHcCounts).erg = s.erg := rfl
@[simp] theorem State.clearHcCounts_coll : (s.clearHcCounts).coll = s.coll := rfl
@[simp] theorem State.clearHcCounts_job : (s.clearHcCounts).job = s.job := rfl
@[simp] theorem State.clearHcCounts_silent : (s.clearHcCounts).silent = s.silent := rfl
@[simp] theorem State.clearHcCounts_power : (s.clearHcCounts).power = s.power := rfl
@[simp] theorem State.clearHcCounts_notar : (s.clearHcCounts).notar = s.notar := rfl
@[simp] theorem State.clearHcCounts_cairn : (s.clearHcCounts).cairn = s.cairn := rfl
@[simp] theorem State.clearHcCounts_out : (s.clearHcCounts).out = s.out := rfl
@[simp] theorem State.clearHcCounts_free : (s.clearHcCounts).free = s.free := rfl
@[simp] theorem State.clearHcCounts_cycle : (s.clearHcCounts).cycle = s.cycle := rfl

end Sys2Proof.Machine
end

