-- ==== Sys2Proof/Laws/Turn.lean ====
section
/-! SUPPORT. What the start of a command comes to: its first failing check's answer, or its effect. -/

namespace Sys2Proof.Machine

/-- With no packet in hand that checks 1 and 2 refuse, none is completed. -/
theorem State.flushBad_none (s : State) (n : Nat) (h : ∀ d ∈ s.host.cmds, d.bad = false) : s.flushBad n = s := by
  cases n with
  | zero => rfl
  | succ k =>
    unfold State.flushBad
    have : ((allSources.filterMap s.host.firstOf).find? fun c => c.bad && s.host.unfenced c) = none := by
      rw [List.find?_eq_none]
      intro c hc
      obtain ⟨src, _, e⟩ := List.mem_filterMap.mp hc
      have := h c (List.mem_of_find?_eq_some e)
      simp [this]
    rw [this]

theorem State.modQueue_cmds (s : State) (q : Fin 8) (f : Queue → Queue) : (s.modQueue q f).host.cmds = s.host.cmds := rfl

theorem State.send_cmds (s : State) (o : Out) : (s.send o).host.cmds = s.host.cmds := rfl

theorem State.dma_cmds (s : State) (a : Nat) (l : List Byte) : (s.dma a l).host.cmds = s.host.cmds := by
  unfold State.dma
  split <;> rfl

theorem State.msix_cmds (s : State) (v : Nat) : (s.msix v).host.cmds = s.host.cmds := by
  unfold State.msix
  (repeat' split) <;> rfl

theorem State.writeEntry_cmds (s : State) (q : Fin 8) (h : HeldEntry) : (s.writeEntry q h).host.cmds = s.host.cmds := by
  unfold State.writeEntry
  dsimp only
  split
  · rw [State.msix_cmds, State.modQueue_cmds, State.modQueue_cmds, State.dma_cmds]
  · rw [State.modQueue_cmds, State.modQueue_cmds, State.dma_cmds]

theorem State.postEntry_cmds (s : State) (q : Fin 8) (e : BitVec 256) (irq : Bool) : (s.postEntry q e irq).host.cmds = s.host.cmds := by
  unfold State.postEntry
  dsimp only
  split
  · rw [State.writeEntry_cmds]
  · rfl

theorem State.notice_cmds (s : State) (a : BitVec 12) : (s.notice a).host.cmds = s.host.cmds := by
  unfold State.notice State.ibi
  split
  · rw [State.msix_cmds]
  · (repeat' split) <;> rfl

theorem State.ackMail_cmds (s : State) (m : Fin 16) (v : BitVec 16) : (s.ackMail m v).host.cmds = s.host.cmds := by
  unfold State.ackMail
  rw [State.notice_cmds]
  rfl

theorem State.replyTo_cmds (s : State) (c : Cmd) (e : BitVec 256) (st : BitVec 16) : (s.replyTo c e st).host.cmds = s.host.cmds := by
  unfold State.replyTo
  split
  · rw [State.postEntry_cmds]
  · split
    · rfl
    · dsimp only
      rw [State.ackMail_cmds]
      rfl

theorem State.cmdOutcome_cmds (s : State) (c : Cmd) (st : BitVec 16) : (s.cmdOutcome c st).host.cmds = s.host.cmds := by
  unfold State.cmdOutcome
  split
  · rfl
  · split <;> rfl

/-- A command that is dropped is no longer in hand, the others are. -/
theorem State.dropCmd_cmds (s : State) (id : Nat) : (s.dropCmd id).host.cmds = s.host.cmds.filter fun c => c.id != id := by
  unfold State.dropCmd State.settleQueues
  have : ∀ (l : List (Fin 8)) (u : State), (l.foldl (fun s q =>
    let x := s.queue q
    if !x.enable && x.state != .disabled && s.inFlight q == 0 then s.modQueue q fun x => { x with state := .disabled } else s) u).host.cmds
      = u.host.cmds := by
    intro l
    induction l with
    | nil => exact fun _ => rfl
    | cons q r ih =>
      intro u
      rw [List.foldl_cons, ih]
      dsimp only
      split <;> rfl
  rw [this]

/-- The end of a command in hand, with no packet in hand that checks 1 and 2 refuse, is its answer. -/
theorem State.endCmd_answered (s : State) (c : Cmd) (st : BitVec 16) (fl : Byte) (det : Nat) (h : ∀ d ∈ s.host.cmds, d.bad = false)
    (hr : c.replied = false) : s.answered (s.endCmd c st fl det) c st fl det := by
  refine ⟨Config.freeValue 5 s.free % (c.limit + 1), Nat.lt_succ_iff.mp (Nat.mod_lt _ (Nat.succ_pos _)), ?_⟩
  unfold State.endCmd
  rw [State.flushBad_none]
  · unfold State.endOne State.draw
    rw [hr]
    rfl
  · intro d hd
    unfold State.endOne at hd
    rw [hr] at hd
    simp only [Bool.false_eq_true, if_false] at hd
    rw [State.dropCmd_cmds] at hd
    have := (List.mem_filter.mp hd).1
    rw [State.replyTo_cmds, State.cmdOutcome_cmds] at this
    exact h d this

theorem State.keepCmd_bad (s : State) (c : Cmd) (h : ∀ d ∈ s.host.cmds, d.bad = false) (hc : c.bad = false) :
    ∀ d ∈ (s.keepCmd c).host.cmds, d.bad = false := by
  intro d hd
  obtain ⟨e, he, g⟩ := List.mem_map.mp hd
  dsimp only at g
  split at g
  · rw [← g]; exact hc
  · rw [← g]; exact h e he

/-- A command whose turn it is is one of those in hand. -/
theorem State.turn_mem (s : State) (src : CmdSrc) (c : Cmd) (h : s.turn src c) :
    c.bad = false ∧ c.src = src ∧ c.started = true ∧ c.replied = false := by
  obtain ⟨h1, h2, d, hd, rfl⟩ := h
  have hf : s.host.firstOf src = some d := by
    unfold State.nextCmd at hd
    split at hd
    · cases hd
    · rename_i e he
      rw [he]
      (repeat' split at hd) <;> simp_all
  have hm := List.mem_of_find?_eq_some hf
  have hp := List.find?_some hf
  simp only [Bool.and_eq_true, beq_iff_eq] at hp
  exact ⟨h1 d hm, hp.1, rfl, h2⟩

/-- The start of a source's command: its first failing check is its answer; with none failing, its meaning acts. -/
theorem State.startCmd_turn (s : State) (src : CmdSrc) (c : Cmd) (want : Cmd → Bool) (checks : State → Cmd → List (Bool × BitVec 16))
    (body : State → Cmd → State) (h : s.turn src c) (hw : want c = true) (hi : ∀ d : Cmd, want { d with started := true, limit := c.limit } = want d) :
    s.startCmd src want checks body = match firstFail (checks (s.keepCmd c) c) with
      | some st => (s.keepCmd c).endCmd c st 0 0
      | none => (body (s.keepCmd c) c).flushBad s.host.cmds.length := by
  obtain ⟨_, _, d, hd, rfl⟩ := h
  unfold State.startCmd
  rw [hd]
  dsimp only
  rw [← hi d]
  have hw' : want { d with started := true, limit := s.timeLimit d } = true := hw
  dsimp only at hi ⊢
  rw [hw']
  have hl : (s.modCmd d.id fun _ => { d with started := true, limit := s.timeLimit d }).host.cmds.length = s.host.cmds.length := by
    simp [State.modCmd]
  rw [hl]
  rfl

end Sys2Proof.Machine
end

