-- ==== Sys2Proof/Tests/States.lean ====
section
/-! SUPPORT. Small states for the tests, and what makes the hypotheses of the statements plain to check on them. -/

namespace Sys2Proof.Tests

set_option Elab.async false

open Sys2Proof.Machine

/-- Every core of a module is as after reset or a listed one. -/
theorem core_all (s : State) (P : Core → Prop) (h0 : P Core.reset) (h : ∀ x ∈ s.cores, P x.2) : ∀ p, P (s.core p) := by
  intro p
  have key : ∀ l : Sparse Core, (∀ x ∈ l, P x.2) → P (spGet Core.reset l p) := by
    intro l
    induction l with
    | nil => intro _; exact h0
    | cons x r ih =>
      intro hx
      obtain ⟨k, v⟩ := x
      rw [spGet_cons]
      split
      · exact hx _ (List.mem_cons_self ..)
      · exact ih fun y hy => hx y (List.mem_cons_of_mem _ hy)
  exact key s.cores h

/-- The canonical form of what a state lists. -/
def canonB (s : State) : Bool := spWf Core.reset s.cores && s.cores.all (fun x => spWf 0 x.2.spad) && s.mem.wf

theorem canon_of {s : State} (h : canonB s = true) : s.canon := by
  simp only [canonB, Bool.and_eq_true, List.all_eq_true] at h
  exact ⟨h.1.1, core_all s Core.canon Core.reset_canon h.1.2, h.2⟩

/-- Stream k of core c issues d, on what a state lists. -/
def issuesB (s : State) (c : CoreId) (k : StreamId) (d : Decoded) : Bool :=
  canonB s && s.coresRun && s.coreOn c.val && ((s.core c.val).stream k).state == .running
    && ((s.coreAtIssue c k).stream k).state == .running && decide (((s.coreAtIssue c k).stream k).peek = some d)

theorem issues_of {s : State} {c : CoreId} {k : StreamId} {d : Decoded} (h : issuesB s c k d = true) : s.canon ∧ s.issues c k d := by
  simp only [issuesB, Bool.and_eq_true, beq_iff_eq, decide_eq_true_eq] at h
  obtain ⟨⟨⟨⟨⟨h0, h1⟩, h2⟩, h3⟩, h4⟩, h5⟩ := h
  exact ⟨canon_of h0, h1, h2, h3, h4, h5⟩

/-- Stream k of core c issues the VU instruction d, on what a state lists. -/
def issuesVuB (s : State) (c : CoreId) (k : StreamId) (d : Decoded) : Bool :=
  let x := s.coreAtIssue c k
  let y := x.advanceTo (s.coreEnv c.val) (vuCycle k x.cycle)
  issuesB s c k d && isVu d.2.2 && (y.stream k).state == .running
    && (k != .b || (!usedAt y.lastVu .f y.cycle && !y.fIssuesAt y.cycle isVu))

theorem issuesVu_of {s : State} {c : CoreId} {k : StreamId} {d : Decoded} (h : issuesVuB s c k d = true) :
    s.canon ∧ s.issuesVu c k d := by
  simp only [issuesVuB, Bool.and_eq_true, Bool.or_eq_true, beq_iff_eq, bne_iff_ne, Bool.not_eq_true'] at h
  obtain ⟨⟨⟨h0, h1⟩, h2⟩, h3⟩ := h
  have hi := issues_of h0
  refine ⟨hi.1, hi.2, h1, h2, fun hk => ?_⟩
  cases h3 with
  | inl h => exact absurd hk h
  | inr h => exact h

/-- A source's command is in turn, in a canonical state, and passes its checks. -/
def Ready (s : State) (src : CmdSrc) (c : Cmd) (checks : State → Cmd → List (Bool × BitVec 16)) : Prop :=
  s.canon ∧ s.turn src c ∧ firstFail (checks (s.keepCmd c) c) = none

/-- The same on what a state lists. -/
def readyB (s : State) (src : CmdSrc) (c : Cmd) (checks : State → Cmd → List (Bool × BitVec 16)) : Bool :=
  canonB s && s.host.cmds.all (fun d => !d.bad) && !c.replied
    && decide ((s.nextCmd src).map (fun d => { d with started := true, limit := s.timeLimit d }) = some c)
    && decide (firstFail (checks (s.keepCmd c) c) = none)

theorem ready_of {s : State} {src : CmdSrc} {c : Cmd} {checks : State → Cmd → List (Bool × BitVec 16)}
    (h : readyB s src c checks = true) : Ready s src c checks := by
  simp only [readyB, Bool.and_eq_true, List.all_eq_true, Bool.not_eq_true', decide_eq_true_eq] at h
  obtain ⟨⟨⟨⟨h0, h1⟩, h2⟩, h3⟩, h4⟩ := h
  obtain ⟨d, hd, hc⟩ := Option.map_eq_some_iff.mp h3
  exact ⟨canon_of h0, ⟨h1, h2, d, hd, hc.symm⟩, h4⟩

/-- An address names a word of this module's DRAM that may be accessed. -/
def dramB (s : State) (a : BitVec 64) (write : Bool) : Bool :=
  decide (adr a 60 4 = 0) && decide (adr a 44 4 < 5) && decide (adr a 0 5 = 0) && decide (adr a 0 44 + 32 ≤ s.regionSize (adr a 44 4))
    && decide (s.ownerRefuses (adr a 44 4) (adr a 0 44) write = none) && decide (adr a 48 12 = s.ident.id.toNat)

theorem dram_of {s : State} {a : BitVec 64} {w : Bool} (h : dramB s a w = true) : s.dramWord a w := by
  simp only [dramB, Bool.and_eq_true, decide_eq_true_eq] at h
  obtain ⟨⟨⟨⟨⟨h0, h1⟩, h2⟩, h3⟩, h4⟩, h5⟩ := h
  exact ⟨⟨h0, h1, h2, h3, h4⟩, h5⟩

/-- Data that is read back clean. -/
def cleanB (d : Data) : Bool := decide (decodeWord (encodeWord d) = (.clean, encodeWord d, { data := d, poison := false }))

theorem clean_of {d : Data} (h : cleanB d = true) : cleanData d := by
  simp only [cleanB, decide_eq_true_eq] at h
  exact h

/-- A word of DRAM is read as d. -/
def holdsB (s : State) (a : BitVec 64) (d : Data) : Bool := dramB s a false && decide (s.rawAt a = encodeWord d) && cleanB d

theorem holds_of {s : State} {a : BitVec 64} {d : Data} (h : holdsB s a d = true) : s.holds a d := by
  simp only [holdsB, Bool.and_eq_true, decide_eq_true_eq] at h
  exact ⟨dram_of h.1.1, h.1.2, clean_of h.2⟩

/-- The words from an address on are read as f. -/
theorem all_hold {s : State} {a : BitVec 64} {f : Nat → Data} {n : Nat}
    (h : ((List.range n).all fun i => holdsB s (adrAdd a (32 * i : Nat)) (f i)) = true) :
    ∀ i, i < n → s.holds (adrAdd a (32 * i : Nat)) (f i) := by
  intro i hi
  exact holds_of (List.all_eq_true.mp h i (List.mem_range.mpr hi))

/-- The state that an outcome answers. -/
def after (o : Host.Outcome State Fault Refusal) : State :=
  match o with
  | .next t => t
  | _ => State.reset

/-- A module in use: power and link up, coordinates locked, no job; queue 2 runs. -/
def up : State :=
  let q : Queue := { Queue.reset with
    enable := true, state := .running, phase := true, cmdBase := 0x1000, cplBase := 0x80000000 }
  { State.reset with
    power := { State.reset.power with
      stage := .on, comingUp := false, mainGood := true, endpoint := .ready, pwrGood := true, perstLow := false, perstTaken := false,
      memSpace := true, busMaster := true, dynAddr := 9 },
    ident := { State.reset.ident with state := 0x2, coordLock := true },
    mem := { State.reset.mem with fillDone := true },
    host := { State.reset.host with queues := State.reset.host.queues.set 2 q } }

/-- The same with a job open. -/
def jobUp : State :=
  { up with
    ident := { up.ident with state := 0x3, jobOpen := true, generation := 5 },
    job := { up.job with jobId := 9, nranks := 4, rank := 1, committed := 10, begun := 11, worked := true, epoch := 3 } }

/-- A DRAM word is stored. -/
def put (s : State) (r o : Nat) (d : Data) : State := { s with mem := s.mem.put r o (encodeWord d) }

/-- A core is put in place. -/
def withCore (p : Nat) (x : Core) : State := jobUp.setCore p x

/-- A line of instruction words. -/
def lineOf (ws : List IWord) : CodeWord := encodeWord (BitVec.ofNat 256 (packBits 64 (ws.map (·.toNat))))

/-- A running stream whose line 0 holds an instruction with `GAP` 3. -/
def running (i : Insn) : Stream :=
  { Stream.reset with state := .running, h0 := { state := .loaded, tag := 5, lines := [(0, lineOf (encodeInsn 3 i))] } }

/-- Core 5 with stream B about to issue an instruction. -/
def issuing (i : Insn) : State := withCore 5 { Core.reset with b := running i }

/-- A command packet: opcode, generation, `SEQ` 0x1234, budget 1600, and parameters by their first bit. -/
def packet (opc gen : Nat) (pars : List (Nat × Nat)) : BitVec 512 :=
  BitVec.ofNat 512 (opc + 2 ^ 32 * 0x1234 + 2 ^ 64 * 1600 + 2 ^ 88 * gen + (pars.map fun p => 2 ^ (128 + p.1) * p.2).sum)

/-- A command in hand, not started. -/
def command (src : CmdSrc) (opc gen : Nat) (pars : List (Nat × Nat)) : Cmd :=
  { id := 7, src := src, sender := 0x001, raw := packet opc gen pars, poison := false,
    step := (match src with | .queue _ => some 11 | .mailbox _ => none), refused := false, started := false, limit := 0,
    replied := false, orphan := false, failed := 0, flags := 0, progress := 0, phase := 0, waits := [], got := [], accA := 0, accB := 0,
    kept := 0 }

/-- A module with one command in hand. -/
def hand (s : State) (c : Cmd) : State := { s with host := { s.host with cmds := [c], nextId := 8 } }

/-- The command as it starts. -/
def go (s : State) (c : Cmd) : Cmd := { c with started := true, limit := s.timeLimit c }

end Sys2Proof.Tests
end

