-- ==== Sys2Proof/WellFormed.lean ====
section
/-! DEFINITION. Which commands are well formed: the operands that the interfaces of the module can carry. -/

namespace Sys2Proof

/-- The operand checks of a command: a BAR access has bytes, in any number (what one of another width does: 00 R11, 12 R358); a window
access has bytes and stays within BAR2 (12 R357); a set of readings has the 12 sources with their sensors (15 R464, R470); a packet's payload is at most 64 words (10 R291). -/
def Instr.wf (i : Instr) : Bool :=
  match i with
  | .hostWindowRead off len => decide (0 < len) && decide (off + len ≤ 2 ^ 36)
  | .hostWindowWrite off bytes _ => decide (0 < bytes.length) && decide (off + bytes.length ≤ 2 ^ 36)
  | .registerWrite _ _ width _ => decide (0 < width)
  | .sensorRead r => r.temps.map List.length == [16, 16, 16, 16, 4, 4, 4, 4, 4, 4, 6, 16]
  | .write _ p | .readData _ p | .upData _ p | .downData _ p | .arriveData _ p => decide (p.payload.length ≤ 64)
  | _ => true

end Sys2Proof
end

