-- ==== Sys2Proof/Tests/Slice0.lean ====
section
/-! SUPPORT. Tests: ill-formed commands are refused by the check; words written out from the encoding tables of 06 decode to their
instructions; the worked examples of the spec; a few single steps. -/

namespace Sys2Proof.Tests

set_option Elab.async false

open Sys2Proof.Machine

/-! Well-formedness: one term for each check that it refuses, and a neighbour that it takes. -/

theorem test_wf_read_empty : (Instr.hostWindowRead 0 0).wf = false ∧ (Instr.hostWindowRead 0 1).wf = true := by decide
theorem test_wf_read_outside : (Instr.hostWindowRead (2 ^ 36 - 1) 2).wf = false ∧ (Instr.hostWindowRead (2 ^ 36 - 1) 1).wf = true := by decide
theorem test_wf_write_empty : (Instr.hostWindowWrite 0 [] false).wf = false ∧ (Instr.hostWindowWrite 0 [7] false).wf = true := by decide
theorem test_wf_write_outside : (Instr.hostWindowWrite (2 ^ 36 - 1) [7, 8] false).wf = false := by decide
theorem test_wf_width : (Instr.registerWrite .bar0 0x1000 0 0).wf = false ∧ (Instr.registerWrite .bar0 0x1000 3 0).wf = true ∧ (Instr.registerWrite .bar0 0x1000 4 0).wf = true := by decide
/-- Readings with these numbers of sensors. -/
def sensed (n : List Nat) : Readings :=
  { temps := n.map fun k => List.replicate k 0, vin := 0, pin := 0, vaux := 0, paux := 0, energy := 0 }
theorem test_wf_readings : (Instr.sensorRead (sensed [16, 16, 16, 16, 4, 4, 4, 4, 4, 4, 6])).wf = false ∧
    (Instr.sensorRead (sensed [16, 16, 16, 16, 4, 4, 4, 4, 4, 4, 6, 16])).wf = true := by decide
/-- A packet with n payload words. -/
def sized (n : Nat) : ErgPacket := { hdr := ErgHdr.zero, payload := List.replicate n 0 }
theorem test_wf_write_packet : (Instr.write 0 (sized 65)).wf = false ∧ (Instr.write 0 (sized 64)).wf = true := by decide +kernel
theorem test_wf_read_data : (Instr.readData 0 (sized 65)).wf = false := by decide +kernel
theorem test_wf_up_data : (Instr.upData 0 (sized 65)).wf = false := by decide +kernel
theorem test_wf_down_data : (Instr.downData 0 (sized 65)).wf = false := by decide +kernel
theorem test_wf_arrive_data : (Instr.arriveData 0 (sized 65)).wf = false := by decide +kernel

/-! Words written out by 06 R164 to R203: `OPC`, `LEN`, `GAP`, and the fields by their first bit. -/

/-- An instruction word. -/
def iword (opc len gap : Nat) (fs : List (Nat × Nat)) : IWord :=
  BitVec.ofNat 64 (opc + 2 ^ 8 * len + 2 ^ 10 * gap + (fs.map fun p => 2 ^ p.1 * p.2).sum)

theorem test_word_nop : decodeInsn 0 (iword 0x01 0 5 []) 0 0 0 = some (5, 1, .nop) := by decide +kernel
theorem test_word_zero : decodeInsn 0 0 0 0 0 = none := by decide +kernel
theorem test_word_len_3 : decodeInsn 0 (iword 0x01 3 5 []) 0 0 0 = none := by decide +kernel
theorem test_word_reserved_bit : decodeInsn 0 (iword 0x01 0 5 [(63, 1)]) 0 0 0 = none := by decide +kernel
theorem test_word_event : decodeInsn 0 (iword 0x03 0 5 [(22, 0x8001)]) 0 0 0 = some (5, 1, .event 0x8001) := by decide +kernel
theorem test_word_cset : decodeInsn 0 (iword 0x04 0 0 [(22, 6), (25, 0x800001)]) 0 0 0 = some (0, 1, .cset 6 0x800001) := by decide +kernel
theorem test_word_cmpset : decodeInsn 0 (iword 0x06 0 0 [(22, 2), (24, 5), (27, 3), (29, 0x800001)]) 0 0 0 =
    some (0, 1, .cmpset 2 5 3 0x800001) := by decide +kernel
theorem test_word_brc : decodeInsn 0 (iword 0x08 0 0xFFF [(22, 0x801), (34, 2)]) 0 0 0 = some (0xFFF, 1, .brc 0x801 2) := by decide +kernel
theorem test_word_hswitch : decodeInsn 0 (iword 0x0A 0 0 [(22, 0x801), (34, 0x8001)]) 0 0 0 = some (0, 1, .hswitch 0x801 0x8001) := by
  decide +kernel
theorem test_word_tpost : decodeInsn 0 (iword 0x0C 0 0 [(22, 17), (27, 129), (35, 1), (36, 200)]) 0 0 0 = some (0, 1, .tpost 17 129 true 200) := by
  decide +kernel
theorem test_word_twait_0 : decodeInsn 0 (iword 0x0B 0 0 [(22, 17)]) 0 0 0 = none := by decide +kernel
theorem test_word_qpush : decodeInsn 2 (iword 0x0D 1 0 [(22, 2), (24, 5), (27, 1), (28, 0x8001)])
      (BitVec.ofNat 64 (0x100020 + 2 ^ 21 * 3 + 2 ^ 24 + 2 ^ 25 * 0x8002 + 2 ^ 41 * 6 + 2 ^ 45 * 0x8003)) 0 0 =
    some (0, 2, .qpush 2 5 true 0x8001 { base := 0x100020, ca := 3, ena := true, stepA := 0x8002, cb := 6, enb := false, stepB := 0x8003 }) := by
  decide +kernel
theorem test_word_two_unaligned : decodeInsn 3 (iword 0x0D 1 0 [(22, 2)]) 0 0 0 = none := by decide +kernel
theorem test_word_lctx : decodeInsn 4 (iword 0x0E 2 0 []) 77 (BitVec.ofNat 64 (5 + 2 ^ 32 * 6)) (BitVec.ofNat 64
      (7 + 2 ^ 32 * 1 + 2 ^ 35 + 2 ^ 36 * 0x8001 + 2 ^ 52 * 2 + 2 ^ 56 * 0x81)) =
    some (0, 4, .lctx { tid := 77, lrow0 := 5, lcol0 := 6, lcols := 7, cr := 1, enr := true, stepR := 0x8001, cc := 2, enc := false, stepC := 0x81 }) := by
  decide +kernel
theorem test_word_matmul : decodeInsn 0 (iword 0x10 0 0 [(22, 1), (23, 2), (25, 1), (26, 0x201), (37, 1), (39, 65), (46, 66), (53, 0x201)]) 0 0 0 =
    some (0, 1, .matmul
      { swap := true, passes := 2, tbSel := true, tbase := 0x201, cmode := false, chalf := true, trans := false, mm1 := 65, row0 := 66,
        desc := 0x201 }) := by decide +kernel
theorem test_word_wload : decodeInsn 0 (iword 0x11 0 0 [(22, 2), (24, 1), (25, 0x201)]) 0 0 0 = some (0, 1, .wload 2 true 0x201) := by decide +kernel
theorem test_word_drain : decodeInsn 0 (iword 0x13 0 0 [(22, 1), (24, 17), (30, 1), (32, 18), (37, 65), (44, 0x201)]) 0 0 0 =
    some (0, 1, .drain { round := 1, topk := 17, tkmode := false, tkmerge := true, tokenEn := false, token := 18, rows := 65, desc := 0x201 }) := by
  decide +kernel
/-- The fields of a VU word. -/
def vuFields (fn vd va vb vc lm imm : Nat) : List (Nat × Nat) := [(22, fn), (28, vd), (33, va), (38, vb), (43, vc), (48, lm), (51, imm)]
theorem test_word_vfp : decodeInsn 0 (iword 0x20 0 0 (vuFields 3 17 18 19 20 5 0)) 0 0 0 =
    some (0, 1, .vfp { fn := 3, vd := 17, va := 18, vb := 19, vc := 20, lm := 5, imm := 0 }) := by decide +kernel
theorem test_word_vfp_reserved : decodeInsn 0 (iword 0x20 0 0 (vuFields 12 17 18 19 20 5 0)) 0 0 0 = none := by decide +kernel
theorem test_word_vcvt : decodeInsn 0 (iword 0x23 1 0 (vuFields 2 17 18 6 20 5 0)) (BitVec.ofNat 64 (0x81 + 2 ^ 8 * 0x82 + 2 ^ 16 * 0x8003 + 2 ^ 32 * 1)) 0 0 =
    some (0, 2, .vcvt { fn := 2, vd := 17, va := 18, vb := 6, vc := 20, lm := 5, imm := 0 } { sc := 0x81, dc := 0x82, q := 0x8003, round := 1 }) := by
  decide +kernel
theorem test_word_drop : decodeInsn 0 (iword 0x25 1 0 (vuFields 2 1 18 19 20 5 1)) 0x80000001 0 0 =
    some (0, 2, .vmask { fn := 2, vd := 1, va := 18, vb := 19, vc := 20, lm := 5, imm := 1 } 0x80000001) := by decide +kernel

/-! The code of 09: R262's syndromes, and what its near-poison words deliver. -/

theorem test_zero_word : encodeWord 0 = 0 := by decide +kernel
theorem test_poison_syndrome : syndrome poisonWord = (0xFF, 0x11, 0xD0, 0x4F) := by decide +kernel
theorem test_near_poison : syndrome ((0x000000A5 : BitVec 32) ++ (0 : BitVec 256)) = (0xA5, 0xA5, 0xA5, 0xA5) ∧
    syndrome ((0x00005A00 : BitVec 32) ++ (0 : BitVec 256)) = (0x5A, 0xB4, 0x75, 0xEA) ∧
    (decodeWord ((0x00005A00 : BitVec 32) ++ (0 : BitVec 256))).2.2.poison = true := by decide +kernel
theorem test_one_byte_corrected : (decodeWord (encodeWord 0x123456789 ^^^ BitVec.ofNat 288 (0x77 * 2 ^ 248))).2.2 =
    { data := 0x123456789, poison := false } := by decide +kernel

/-! The worked conversions of 02. -/

/-- A finite value m × 2^e. -/
def fin (m e : Int) : FVal := fvalOfInt m e

theorem test_block_to_b4s : chooseFine 7 (-6) (amaxOf [fin 3 (-4), fin (-13) (-5), fin 1 (-5), fin 1 (-2)]) = 2 ∧
    toCode (-8) 7 0 0 (fin 3 (-4)) (-4) = (3, 0) ∧ toCode (-8) 7 0 0 (fin (-13) (-5)) (-4) = (-6, 0) ∧
    toCode (-8) 7 0 0 (fin 1 (-5)) (-4) = (0, flagUnderflow) ∧ toCode (-8) 7 0 0 (fin 1 (-2)) (-4) = (4, 0) := by decide +kernel
theorem test_stochastic : toCode (-8) 7 2 0x9C401E07 (fin (-13) (-5)) (-4) = (-7, 0) := by decide +kernel
theorem test_into_x32 : toExchange 32 (fin 1234567 (-30)) (-30) = (1234567, 0) ∧
    toExchange 32 (fin 1234567 (-30)) (-28) = (308642, flagXInexact) := by decide +kernel
theorem test_small_update : (mwAdd 0 0 0x3FC00000 0 (fin (-3) (-30))).1 = 0x3FBFFFFF ∧ (mwAdd 0 0 0x3FC00000 0 (fin (-3) (-30))).2.1 = 0xFA00 := by
  decide +kernel
theorem test_saturates_x32 : toExchange 32 (fin 3 0) (-30) = (2147483647, flagSat) ∧ toExchange 32 (fin 3 0) (-27) = (402653184, 0) := by
  decide +kernel

/-! The worked write of 10, and the address example of 01. -/

theorem test_erg_address : adr 0x00D1400000010000 48 12 = 209 ∧ adr 0x00D1400000010000 44 4 = 4 ∧ adr 0x00D1400000010000 0 44 = 0x10000 := by
  decide
theorem test_job_page :
    let s := { jobUp with erg := { jobUp.erg with pages := [(50, BitVec.ofNat 32 (1 + 2 + 4 * 4 + 64 * 3000))] } }
    (s.translate 0x1011000006400400).toOption = some (4, 0x177000400) := by decide +kernel

/-! Single steps. -/

/-- The state after a step of a command. -/
def stepped (i : Instr) (s : State) : State := after (step { s with pending := [i] })

theorem test_idle : (after (step State.reset)).cores = [] ∧ (after (step State.reset)).ident = State.reset.ident := by decide +kernel
theorem test_cinc_wraps :
    let s := withCore 5 { Core.reset with b := { running (.cinc 7 1) with counters := Stream.reset.counters.set 7 0xFFFFFF } }
    (((stepped (.cinc 5 .b) s).core 5).b).counters[7] = 0 := by decide +kernel
theorem test_brn_not_taken :
    let s := withCore 5 { Core.reset with b := { running (.brn 9 0) with counters := Stream.reset.counters.set 1 5, cmps := Stream.reset.cmps.set 0 { limit := 5, counter := 1, mode := 0 } } }
    (((stepped (.brn 5 .b) s).core 5).b).pc = 1 := by decide +kernel
theorem test_twait_even_cycle :
    let s := withCore 5 { Core.reset with b := { running (.twait 3 5) with nextIssue := 10 }, tokens := Core.reset.tokens.set 3 7 }
    (((stepped (.twait 5 .b) s).core 5).b).nextIssue = 14 ∧ ((stepped (.twait 5 .b) s).core 5).tokens[3] = 2 := by decide +kernel
theorem test_doorbell_error : ((stepped (.cmdTailDoorbell 2 16) jobUp).queue 2).dbErr = true ∧
    ((stepped (.cmdTailDoorbell 2 15) jobUp).queue 2).cmdTail = 15 := by decide +kernel
theorem test_qstep_refused : (stepped (.qstepWrite 2 13) jobUp).job.qstepRefused = true := by decide +kernel
theorem test_claim : ((stepped (.claim 0 .host) jobUp).mailbox 0).sender = 0x001 := by decide +kernel
theorem test_wrong_width : (stepped (.registerWrite .bar0 0x1000 8 5) jobUp).host.margin = jobUp.host.margin := by decide +kernel
theorem test_window_write : (stepped (.hostWindowWrite (2 ^ 21) (List.replicate 32 (0xAB : Byte)) false)
      { up with host := { up.host with window := [(1, { owner := 1, region := 4, ppn := 3 })] } }).mem.raw 4 (3 * 2 ^ 21) =
    encodeWord (BitVec.ofNat 256 (0xAB * ((2 ^ 256 - 1) / 255))) := by decide +kernel
theorem test_overvoltage_fault : (match exec (.inputOvervoltage 75001) jobUp with | .fault f => f == .beyondAbsoluteMaximum | _ => false) = true := by
  decide +kernel
theorem test_frame_wraps : let s := jobUp.modPort 3 fun q => { q with lstate := .up, laneLock := 0xFF, rxSeq := 4095 }
    ((stepped (.linkFrame 3 4095 { crcOk := true, corr := 0, uncorr := 0 }) s).port 3).rxSeq = 0 := by decide +kernel

end Sys2Proof.Tests
end

