-- ==== Sys2Proof/Tests/WitnessArray.lean ====
section
/-! SUPPORT. For every statement about the array and its engines a state and operands that meet its hypotheses, for each of its
clauses. -/

namespace Sys2Proof.Tests

set_option Elab.async false

open Sys2Proof.Machine

/-- A descriptor line: format, coarse scale, square blocks, pitch, shape, and the codes' address. -/
def descLine (fmt coarse sq pitch shape pri : Nat) : Data :=
  BitVec.ofNat 256 (pri + 2 ^ 128 * (fmt + 2 ^ 4 * coarse + 2 ^ 12 * sq + 2 ^ 13 * pitch + 2 ^ 53 * shape))

/-- Stream B of core 5 about to issue an instruction whose descriptor, line 7 of its half, is this code word; the rest of the core is
as given. -/
def withDesc (x : Core) (i : Insn) (w : CodeWord) : State :=
  withCore 5 { x with b := { running i with h0 := { state := .loaded, tag := 5, lines := [(0, lineOf (encodeInsn 3 i)), (7, w)] } } }

/-- A MATMUL of M rows from row 3 with its descriptor at line 7. -/
def mm (mm1 row0 : Nat) (swap trans : Bool) : MatmulF :=
  { swap := swap, passes := 0, tbSel := false, tbase := 0, cmode := false, chalf := false, trans := trans,
    mm1 := BitVec.ofNat 7 mm1, row0 := BitVec.ofNat 7 row0, desc := 7 }

/-- The state before a MATMUL with the descriptor word w. -/
def matmulAt (m : MatmulF) (w : CodeWord) : State := withDesc Core.reset (.matmul m) w

/-- What the descriptor at line 7 delivers, and what it holds. -/
def descOf (s : State) : RWord × Option OpDesc :=
  let w := ((s.coreAtDesc 5 .b 7).stream .b).descAt 7
  (w, opDesc w.data)

/-- A MATMUL's conditions on its operand. -/
def feedable (s : State) (m : MatmulF) (a : OpDesc) : Bool :=
  let x := s.coreAtDesc 5 .b 7
  let bank := x.bank x.filling
  !x.r99 .b && x.feed.isNone && decide (m.row0.toNat + (m.mm1.toNat + 1) ≤ 128) && bank.state == .cleared && !m.chalf
    && (!m.swap || x.canSwap) && (passParts m.passes.toNat a.fmt.toNat (x.tileFor m).fmt.toNat).isSome
    && decide (a.fmt.toNat ≤ 5) && decide (rowWords a.fmt.toNat 512 ≤ a.pitch) && (x.stream .b).addrOf a.pri % 32 == 0 && a.secOk

theorem feedable_legal {s : State} {m : MatmulF} {a : OpDesc} (h : feedable s m a = true) :
    let x := s.coreAtDesc 5 .b 7
    x.mayFeed .b m a.fmt ∧ a.fmt.toNat ≤ 5 ∧ rowWords a.fmt.toNat 512 ≤ a.pitch ∧ (x.stream .b).addrOf a.pri % 32 = 0 ∧
      a.secOk = true := by
  simp only [feedable, Bool.and_eq_true, Bool.or_eq_true, Bool.not_eq_true', decide_eq_true_eq, beq_iff_eq, Option.isNone_iff_eq_none] at h
  obtain ⟨⟨⟨⟨⟨⟨⟨⟨⟨⟨h1, h2⟩, h3⟩, h4⟩, h5⟩, h6⟩, h7⟩, h8⟩, h9⟩, h10⟩, h11⟩ := h
  refine ⟨⟨h1, h2, h3, fun n => absurd h4 n, fun n => ?_, fun n => ?_, h7⟩, h8, h9, h10, h11⟩
  · rw [h5] at n; cases n
  · cases h6 with
    | inl h => rw [h] at n; cases n
    | inr h => exact h

/-- What an Option holds, from a check of it. -/
theorem some_of {α : Type} {o : Option α} {P : α → Prop} [DecidablePred P] (h : o.any (fun a => decide (P a)) = true) :
    ∃ a, o = some a ∧ P a := by
  cases o with
  | none => cases h
  | some a => exact ⟨a, rfl, of_decide_eq_true h⟩

/-- The operand of the MATMUL tests: format 1, 8 words a row, at word 2. -/
def goodDesc : CodeWord := encodeWord (descLine 1 5 0 8 0 64)

theorem witness_matmul : let s := matmulAt (mm 124 3 true false) goodDesc
    (s.canon ∧ s.issues 5 .b (3, 1, .matmul (mm 124 3 true false))) ∧ (descOf s).1.poison = false ∧
    ∃ a, (descOf s).2 = some a ∧
      (let x := s.coreAtDesc 5 .b 7
       x.mayFeed .b (mm 124 3 true false) a.fmt ∧ a.fmt.toNat ≤ 5 ∧ rowWords a.fmt.toNat 512 ≤ a.pitch ∧
         (x.stream .b).addrOf a.pri % 32 = 0 ∧ a.secOk = true) :=
  ⟨issues_of (by decide +kernel), by decide +kernel,
    (some_of (P := fun a => feedable _ (mm 124 3 true false) a = true) (by decide +kernel)).imp fun _ h => ⟨h.1, feedable_legal h.2⟩⟩

theorem witness_matmul_rows : let s := matmulAt (mm 125 3 false false) goodDesc
    (s.canon ∧ s.issues 5 .b (3, 1, .matmul (mm 125 3 false false))) ∧ (descOf s).1.poison = false ∧
    ∃ a, (descOf s).2 = some a ∧ ¬(s.coreAtDesc 5 .b 7).mayFeed .b (mm 125 3 false false) a.fmt :=
  ⟨issues_of (by decide +kernel), by decide +kernel,
    (some_of (P := fun _ => True) (by decide +kernel)).imp fun _ h => ⟨h.1, fun h => absurd h.2.2.1 (by decide)⟩⟩

theorem witness_matmul_poison : let s := matmulAt (mm 0 0 false false) poisonWord
    (s.canon ∧ s.issues 5 .b (3, 1, .matmul (mm 0 0 false false))) ∧ (descOf s).1.poison = true :=
  ⟨issues_of (by decide +kernel), by decide +kernel⟩

/-- A filled slab of a shape and format. -/
def slab (shape : BitVec 2) (fmt : BitVec 4) : Slab := { shape := shape, fmt := fmt, coarse := 9, words := [], squares := 0, sqPoison := false }

/-- Core 5 with slabs, stream B about to issue an instruction without descriptor. -/
def withSlabs (l : List Slab) (i : Insn) : State := withCore 5 { Core.reset with b := running i, slabs := l }

theorem witness_matmul_slab : let s := withSlabs [slab 1 1] (.matmul (mm 63 0 false true))
    (s.canon ∧ s.issues 5 .b (3, 1, .matmul (mm 63 0 false true))) ∧ (s.coreAtIssue 5 .b).slabs = [slab 1 1] ∧
    ((slab 1 1).shape = 0 ∨ (slab 1 1).shape = 1 ∧ 63 + 1 ≤ 64) ∧ (s.coreAtIssue 5 .b).mayFeed .b (mm 63 0 false true) (slab 1 1).fmt :=
  ⟨issues_of (by decide +kernel), by decide +kernel, by decide +kernel, by decide +kernel, by decide +kernel, by decide +kernel,
    fun h => absurd (by decide +kernel) h, by decide, by decide, by decide +kernel⟩
theorem witness_matmul_slab_rows : let s := withSlabs [slab 1 1] (.matmul (mm 64 0 false true))
    (s.canon ∧ s.issues 5 .b (3, 1, .matmul (mm 64 0 false true))) ∧ (s.coreAtIssue 5 .b).slabs = [slab 1 1] ∧
    ¬((slab 1 1).shape = 0 ∨ (slab 1 1).shape = 1 ∧ 64 + 1 ≤ 64) := ⟨issues_of (by decide +kernel), by decide +kernel, by decide⟩
theorem witness_matmul_no_slab : let s := withSlabs [] (.matmul (mm 0 0 false true))
    (s.canon ∧ s.issues 5 .b (3, 1, .matmul (mm 0 0 false true))) ∧ (s.coreAtIssue 5 .b).slabs = [] :=
  ⟨issues_of (by decide +kernel), by decide +kernel⟩

/-! Swaps, weight loads, Barchan fills. -/

theorem witness_wswap : let s := issuing .wswap
    (s.canon ∧ s.issues 5 .b (3, 1, .wswap)) ∧ (s.coreAtIssue 5 .b).r99 .b = false ∧ (s.coreAtIssue 5 .b).canSwap = true :=
  ⟨issues_of (by decide +kernel), by decide +kernel, by decide +kernel⟩

/-- Core 5 whose shadow tile lacks its second plane. -/
def halfLoadedTile : State :=
  withCore 5 { Core.reset with b := running .wswap, shadow := { Core.reset.shadow with fmt := 4, planes := 1 } }

theorem witness_wswap_illegal : (halfLoadedTile.canon ∧ halfLoadedTile.issues 5 .b (3, 1, .wswap)) ∧
    (halfLoadedTile.coreAtIssue 5 .b).canSwap = false := ⟨issues_of (by decide +kernel), by decide +kernel⟩

/-- The operand of the weight tests: format 4, 4 words a row. -/
def weightDesc : CodeWord := encodeWord (descLine 4 5 0 4 0 64)

/-- The conditions of a WLOAD from its descriptor. -/
abbrev loadable (s : State) (plane : BitVec 2) (a : OpDesc) : Prop :=
  let x := s.coreAtDesc 5 .b 7
  let f := a.fmt.toNat
  x.r99 .b = false ∧ x.wload = none ∧ f ≤ 5 ∧ (plane = 0 ↔ f < 4) ∧ (if f < 2 then 2 else 4) ≤ a.pitch ∧
    (x.stream .b).addrOf a.pri % 32 = 0 ∧ (plane ≠ 2 → a.secOk = true)

theorem witness_wload : let s := withDesc Core.reset (.wload 1 false 7) weightDesc
    (s.canon ∧ s.issues 5 .b (3, 1, .wload 1 false 7)) ∧ (descOf s).1.poison = false ∧ ∃ a, (descOf s).2 = some a ∧ loadable s 1 a :=
  ⟨issues_of (by decide +kernel), by decide +kernel, some_of (by decide +kernel)⟩
theorem witness_wload_plane : let s := withDesc Core.reset (.wload 0 false 7) weightDesc
    (s.canon ∧ s.issues 5 .b (3, 1, .wload 0 false 7)) ∧ (descOf s).1.poison = false ∧ ∃ a, (descOf s).2 = some a ∧ ¬loadable s 0 a :=
  ⟨issues_of (by decide +kernel), by decide +kernel, some_of (by decide +kernel)⟩
theorem witness_wload_slab (sh : BitVec 2) (h : sh = 1 ∨ sh = 2) : let s := withSlabs [slab sh 3] (.wload 0 true 7)
    (s.canon ∧ s.issues 5 .b (3, 1, .wload 0 true 7)) ∧ (s.coreAtIssue 5 .b).slabs = [slab sh 3] ∧ (s.coreAtIssue 5 .b).r99 .b = false ∧
    (s.coreAtIssue 5 .b).wload = none ∧ ((slab sh 3).shape.toNat < 2 ↔ sh = 1) := by
  rcases h with rfl | rfl <;> exact ⟨issues_of (by decide +kernel), by decide +kernel, by decide +kernel, by decide +kernel, by decide⟩
theorem witness_wload_no_slab : let s := withSlabs [] (.wload 0 true 7)
    (s.canon ∧ s.issues 5 .b (3, 1, .wload 0 true 7)) ∧ (s.coreAtIssue 5 .b).slabs = [] :=
  ⟨issues_of (by decide +kernel), by decide +kernel⟩

/-- The conditions of a BFILL. -/
abbrev fillable (s : State) (a : OpDesc) : Prop :=
  let x := s.coreAtDesc 5 .b 7
  let sh := a.shape.toNat
  x.r99 .b = false ∧ x.bfill = none ∧ a.sq = true ∧ (if sh % 2 = 0 then a.fmt = 0 ∨ a.fmt = 1 else a.fmt = 2 ∨ a.fmt = 3) ∧
    x.halvesUsed + (if sh = 3 then 2 else 1) ≤ 2 ∧ (if sh < 2 then 2 else if sh = 2 then 8 else 16) ≤ a.pitch ∧
    (x.stream .b).addrOf a.pri % 32 = 0 ∧ a.secOk = true

/-- Core 5 with one half of the transpose store in use. -/
def oneHalf : Core := { Core.reset with slabs := [slab 1 1] }

theorem witness_bfill : let s := withDesc oneHalf (.bfill 7) (encodeWord (descLine 1 5 1 8 2 64))
    (s.canon ∧ s.issues 5 .b (3, 1, .bfill 7)) ∧ (descOf s).1.poison = false ∧ ∃ a, (descOf s).2 = some a ∧ fillable s a :=
  ⟨issues_of (by decide +kernel), by decide +kernel, some_of (by decide +kernel)⟩
theorem witness_bfill_full : let s := withDesc oneHalf (.bfill 7) (encodeWord (descLine 3 5 1 16 3 64))
    (s.canon ∧ s.issues 5 .b (3, 1, .bfill 7)) ∧ (descOf s).1.poison = false ∧ ∃ a, (descOf s).2 = some a ∧ ¬fillable s a :=
  ⟨issues_of (by decide +kernel), by decide +kernel, some_of (by decide +kernel)⟩

/-! Drains. -/

/-- A DRAIN of 128 rows with a token. -/
def drainOf : DrainF := { round := 0, topk := 0, tkmode := false, tkmerge := false, tokenEn := true, token := 9, rows := 127, desc := 7 }

/-- The bank that stream F or B filled. -/
def filled (owner : Bool) : Core := { Core.reset with bank0 := { Bank.reset with state := .filling, owner := owner } }

/-- The conditions of a DRAIN. -/
abbrev drainable (s : State) (a : OpDesc) : Prop :=
  let x := s.coreAtDesc 5 .b 7
  let st := x.stream .b
  let bank := x.bank x.filling
  x.r99 .b = false ∧ x.feed = none ∧ (x.bank (!x.filling)).state = .cleared ∧ (bank.state ≠ .cleared → bank.owner = true) ∧
    drainTargetOk drainOf a bank.compact (st.addrOf a.pri) (st.addrOf a.sec) st.evalCtx.l = true

theorem witness_drain : let s := withDesc (filled true) (.drain drainOf) (encodeWord (descLine 6 0 0 16 0 64))
    (s.canon ∧ s.issues 5 .b (3, 1, .drain drainOf)) ∧ (descOf s).1.poison = false ∧ ∃ a, (descOf s).2 = some a ∧ drainable s a :=
  ⟨issues_of (by decide +kernel), by decide +kernel, some_of (by decide +kernel)⟩
theorem witness_drain_pitch : let s := withDesc (filled true) (.drain drainOf) (encodeWord (descLine 6 0 0 15 0 64))
    (s.canon ∧ s.issues 5 .b (3, 1, .drain drainOf)) ∧ (descOf s).1.poison = false ∧ ∃ a, (descOf s).2 = some a ∧ ¬drainable s a :=
  ⟨issues_of (by decide +kernel), by decide +kernel, some_of (by decide +kernel)⟩
theorem witness_drain_owner : let s := withDesc (filled false) (.drain drainOf) (encodeWord (descLine 6 0 0 16 0 64))
    (s.canon ∧ s.issues 5 .b (3, 1, .drain drainOf)) ∧ (descOf s).1.poison = false ∧ ∃ a, (descOf s).2 = some a ∧ ¬drainable s a :=
  ⟨issues_of (by decide +kernel), by decide +kernel, some_of (by decide +kernel)⟩

/-! The ends of the engines' work. -/

/-- Who began the work: stream B. -/
def byB : Who := { stream := .b, half := false, pc := 4 }

/-- A state of core 5 in cycle 177, nothing standing but what x has. -/
def at177 (x : Core) : State := withCore 5 { x with cycle := 177 }

/-- A feed of one row at its last beat. -/
def lastBeat : Feed :=
  { who := byB, start := 174, beat := 3, bank := true, m := 1, row0 := 127, parts := [{ a := 0, b := 0, up := 0 }], beats := 4, fmt := 1,
    ca := 5, cb := 7, pri := 64, sec := 0, pitch := 4, spitch := 0, sq := false, slab := none, compact := false, chalf := false,
    ctx := { l := 0, k := 0, lcols := 0, tid := 0 }, step := 11, words := [], scales := [], tiles := [] }
/-- A weight load at row 127. -/
def lastRow : WLoad := { who := byB, start := 50, row := 127, plane := 0, fmt := 1, pri := 64, sec := 0, pitch := 4, spitch := 0, sq := false, slab := none }
/-- A Barchan fill at its last cycle. -/
def lastFill : BFill :=
  let b : BFill := { who := byB, start := 0, cyc := 0, pri := 64, sec := 0, pitch := 4, spitch := 0, slab := slab 1 1 }
  { b with cyc := b.cycles - 1, start := 177 - (b.cycles - 1) }

theorem witness_feed_end : let s := at177 { Core.reset with feed := some lastBeat }
    canonB s = true ∧ s.coresRun = true ∧ s.coreOn 5 = true ∧ (s.core 5).accesses = [] ∧ (s.core 5).drain = none ∧
    (s.core 5).feed = some lastBeat ∧ (s.core 5).wload = none ∧ (s.core 5).bfill = none ∧ (s.core 5).rows = [] ∧
    (s.core 5).cycle = lastBeat.start + lastBeat.beat ∧ lastBeat.beat + 1 = lastBeat.total := by decide +kernel
theorem witness_wload_end : let s := at177 { Core.reset with wload := some lastRow }
    canonB s = true ∧ s.coresRun = true ∧ s.coreOn 5 = true ∧ (s.core 5).accesses = [] ∧ (s.core 5).drain = none ∧ (s.core 5).feed = none ∧
    (s.core 5).wload = some lastRow ∧ (s.core 5).bfill = none ∧ (s.core 5).cycle = lastRow.start + lastRow.row ∧ lastRow.row = 127 := by
  decide +kernel
theorem witness_bfill_end : let s := at177 { Core.reset with bfill := some lastFill }
    canonB s = true ∧ s.coresRun = true ∧ s.coreOn 5 = true ∧ (s.core 5).accesses = [] ∧ (s.core 5).drain = none ∧ (s.core 5).feed = none ∧
    (s.core 5).wload = none ∧ (s.core 5).bfill = some lastFill ∧ (s.core 5).cycle = lastFill.start + lastFill.cyc ∧
    lastFill.cyc + 1 = lastFill.cycles := by decide +kernel

/-- A row on its way to row 3 of bank 1. -/
def rowAtWay : RowFlight :=
  { due := 180, stream := .b, bank := true, row := 3, compact := false, chalf := false, e := -90, first := true,
    cells := (List.range 128).map fun i => Int.ofNat i - 5, flags := 0, poison := false,
    ctx := { l := 0, k := 0, lcols := 0, tid := 0 }, step := 11 }
/-- Bank 1 with two entries. -/
def someBank : Bank := { Bank.reset with state := .filling, tbase := -90, owner := true, entries := [(256 * 3 + 2, 3), (256 * 4, 9)] }

theorem witness_accumulate : let s := at177 { Core.reset with rows := [rowAtWay], bank1 := someBank }
    canonB s = true ∧ s.coresRun = true ∧ s.coreOn 5 = true ∧ (s.core 5).quiet = true ∧ (s.core 5).rows = [rowAtWay] ∧
    (s.core 5).cycle < rowAtWay.due ∧ rowAtWay.compact = false ∧ rowAtWay.cells.length = 128 ∧
    ((s.core 5).bank rowAtWay.bank).tbase.toInt ≤ rowAtWay.e ∧ spWf 0 ((s.core 5).bank rowAtWay.bank).entries = true := by decide +kernel
theorem witness_accumulate_to_zero : spGet 0 someBank.entries (256 * 3 + 2)
    + BitVec.ofInt 128 (rowAtWay.cells.getD 2 0 * 2 ^ (rowAtWay.e - someBank.tbase.toInt).toNat) = 0 := by decide +kernel

/-- A drain of bank 1 begun in a cycle. -/
def drainFrom (n : Nat) : DrainJob :=
  { who := byB, start := n, bank := true, f := { drainOf with rows := 3 }, fmt := 1, coarse := 4, sq := false, pitch := 4, spitch := 0,
    pri := 64, sec := 0, q := 5, nbase := 0, ctx := { l := 0, k := 0, lcols := 0, tid := 0 }, step := 11, fp := 0, fpPoison := false }

theorem witness_tail_end : let s := at177 { Core.reset with drain := some (drainFrom 34), bank1 := { someBank with state := .tail, flags := 5 } }
    canonB s = true ∧ s.coresRun = true ∧ s.coreOn 5 = true ∧ (s.core 5).drain = some (drainFrom 34) ∧ (s.core 5).feed = none ∧
    (s.core 5).wload = none ∧ (s.core 5).bfill = none ∧ (s.core 5).accesses = [] ∧ (s.core 5).rows = [] ∧
    (s.core 5).cycle = (drainFrom 34).start + 143 ∧ ((s.core 5).bank true).state = .tail := by decide +kernel
theorem witness_drain_end :
    let s := withCore 5 { Core.reset with
      drain := some (drainFrom 10), bank1 := { someBank with state := .reading }, cycle := 10 + 144 + (drainFrom 10).readTime false - 1 }
    canonB s = true ∧ s.coresRun = true ∧ s.coreOn 5 = true ∧ (s.core 5).drain = some (drainFrom 10) ∧ (s.core 5).feed = none ∧
    (s.core 5).wload = none ∧ (s.core 5).bfill = none ∧ (s.core 5).accesses = [] ∧ (s.core 5).rows = [] ∧
    (s.core 5).cycle + 1 = (drainFrom 10).start + 144 + (drainFrom 10).readTime ((s.core 5).bank true).compact := by decide +kernel

/-- A pending write to a word with a byte mask. -/
def writeOf (mask : BitVec 32) (poison : Bool) : PendingWrite :=
  { issued := 175, due := 180, stream := .b, req := { word := 7, data := 0x1234567890ABCDEF, mask := mask, poison := poison } }

theorem witness_write_effect (p : PendingWrite) (h : p = writeOf 0xFFFFFFFF false ∨ p = writeOf 0x80000001 false ∨ p = writeOf 1 true) :
    let s := at177 { Core.reset with writes := [p], spad := [(7, encodeWord 77), (8, 9)] }
    canonB s = true ∧ s.coresRun = true ∧ s.coreOn 5 = true ∧ (s.core 5).quiet = true ∧ (s.core 5).writes = [p] ∧ (s.core 5).cycle < p.due ∧
    (decodeWord (spGet 0 (s.core 5).spad p.req.word)).1 = .clean := by
  rcases h with rfl | rfl | rfl <;> decide +kernel

/-- A pending VU result. -/
def resultOf (w : VuWrite) : VuPending := { due := 180, stream := .b, what := w }

theorem witness_vu_effect (w : VuWrite)
    (h : w = .reg 31 0xF0F0 77 3 1 ∨ w = .lane 7 5 4 ∨ w = .nopen 3 5 ∨ w = .nadd 3 [(true, 5, -3)] 1 false
      ∨ w = .halves 31 (2 ^ 127 + 1) 77 0) :
    let s := at177 { Core.reset with vuPending := [resultOf w] }
    canonB s = true ∧ s.coresRun = true ∧ s.coreOn 5 = true ∧ (s.core 5).quiet = true ∧ (s.core 5).vuPending = [resultOf w] ∧
    (s.core 5).cycle < (resultOf w).due ∧ (s.core 5).rows = [] := by
  rcases h with rfl | rfl | rfl | rfl | rfl <;> decide +kernel

/-- Core 5 with the reads of an access of its current cycle to make, and clean words 7 to 15. -/
def reading (reads : List Nat) (act : AccessAct) : State :=
  at177 { Core.reset with
    spad := (List.range 9).map fun i => (7 + i, encodeWord (BitVec.ofNat 256 (0x1111 * (i + 1)))),
    accesses := [{ cycle := 177, who := byB, reads := reads, scales := [], writes := [], scaleW := [], act := act }] }

theorem witness_access_idle (act : AccessAct) (h : act = .vld 181 31 0xFF ∨ act = .mread 181 7 1 3 0xFF ∨ act = .mread 181 7 2 3 0xFF) :
    let s := reading (eightWords (32 * 7)) act
    canonB s = true ∧ s.coresRun = true ∧ s.coreOn 5 = true ∧ (s.core 5).feed = none ∧ (s.core 5).wload = none ∧ (s.core 5).bfill = none ∧
    (s.core 5).drain = none ∧ (s.core 5).writes = [] ∧ (s.core 5).vuPending = [] ∧ (s.core 5).cycle + 1 < 181 := by
  rcases h with rfl | rfl | rfl <;> decide +kernel
theorem witness_access_words (w : Nat) (h : w < 8) : let s := reading (eightWords (32 * 7)) (.vld 181 31 0xFF)
    spGet 0 (s.core 5).spad (wordAt (32 * 7 + 32 * w)) = encodeWord (BitVec.ofNat 256 (0x1111 * (w + 1))) ∧
    cleanData (BitVec.ofNat 256 (0x1111 * (w + 1))) := by
  have key : ∀ w : Fin 8, spGet 0 ((reading (eightWords (32 * 7)) (.vld 181 31 0xFF)).core 5).spad (wordAt (32 * 7 + 32 * w.val)) =
      encodeWord (BitVec.ofNat 256 (0x1111 * (w.val + 1))) ∧ cleanB (BitVec.ofNat 256 (0x1111 * (w.val + 1))) = true := by decide +kernel
  exact ⟨(key ⟨w, h⟩).1, clean_of (key ⟨w, h⟩).2⟩

/-! Operand descriptors that are unreadable, or that have reserved bits set. -/

theorem witness_matmul_reserved : let s := matmulAt (mm 0 0 false false) (encodeWord (BitVec.allOnes 256))
    (s.canon ∧ s.issues 5 .b (3, 1, .matmul (mm 0 0 false false))) ∧ (descOf s).1.poison = false ∧ (descOf s).2 = none :=
  ⟨issues_of (by decide +kernel), by decide +kernel, by decide +kernel⟩
theorem witness_wload_unreadable (b : Bool) : let s := withDesc Core.reset (.wload 1 false 7) (if b then poisonWord else encodeWord (BitVec.allOnes 256))
    (s.canon ∧ s.issues 5 .b (3, 1, .wload 1 false 7)) ∧ (descOf s).1.poison = b ∧ (b = false → (descOf s).2 = none) := by
  cases b <;> exact ⟨issues_of (by decide +kernel), by decide +kernel, by decide +kernel⟩
theorem witness_bfill_unreadable (b : Bool) : let s := withDesc Core.reset (.bfill 7) (if b then poisonWord else encodeWord (BitVec.allOnes 256))
    (s.canon ∧ s.issues 5 .b (3, 1, .bfill 7)) ∧ (descOf s).1.poison = b ∧ (b = false → (descOf s).2 = none) := by
  cases b <;> exact ⟨issues_of (by decide +kernel), by decide +kernel, by decide +kernel⟩
theorem witness_drain_unreadable (b : Bool) :
    let s := withDesc (filled true) (.drain drainOf) (if b then poisonWord else encodeWord (BitVec.allOnes 256))
    (s.canon ∧ s.issues 5 .b (3, 1, .drain drainOf)) ∧ (descOf s).1.poison = b ∧ (b = false → (descOf s).2 = none) := by
  cases b <;> exact ⟨issues_of (by decide +kernel), by decide +kernel, by decide +kernel⟩

end Sys2Proof.Tests
end

