-- ==== Sys2Proof/Tests/WitnessCore.lean ====
section
/-! SUPPORT. For every statement about the cores a state and operands that meet its hypotheses, for each of its clauses, at the
boundaries where it has any. -/

namespace Sys2Proof.Tests

set_option Elab.async false

open Sys2Proof.Machine

/-! The queue and the invariants. -/

theorem witness_step_front : ({ State.reset with pending := [.nopEcho (.queue 0)] } : State).pending = .nopEcho (.queue 0) :: [] := rfl

theorem witness_step_answers : ∃ t, step { State.reset with pending := [.nopEcho (.queue 0)] } = .next t := ⟨_, rfl⟩

theorem witness_cairn_other_command : Instr.nopEcho (.queue 0) ≠ .cairnRecordWrite ∧ Instr.nopEcho (.queue 0) ≠ .sealSigned ∧
    Instr.nopEcho (.queue 0) ≠ .auxLost := by decide

theorem witness_canonical : State.reset.canon ∧ jobUp.canon := ⟨canon_of (by decide +kernel), canon_of (by decide +kernel)⟩

theorem witness_core_command : coreCommand (.vst 5 .b) = some 5 ∧ (State.reset.coresRun && State.reset.coreOn 5) = false ∧
    (jobUp.coresRun && jobUp.coreOn 5) = true := by decide +kernel

/-! Issue: an unreadable and an illegal line, and every instruction the statements name. -/

/-- Stream B of core 5 before a line with this code word. -/
def atLine (w : CodeWord) : State :=
  withCore 5 { Core.reset with b := { Stream.reset with state := .running, h0 := { state := .loaded, tag := 5, lines := [(0, w)] } } }

theorem witness_poisoned_line :
    canonB (atLine poisonWord) = true ∧ (atLine poisonWord).coresRun = true ∧ (atLine poisonWord).coreOn 5 = true ∧
    (((atLine poisonWord).core 5).stream .b).state = .running ∧ (((atLine poisonWord).coreAtIssue 5 .b).stream .b).state = .running ∧
    ((((atLine poisonWord).coreAtIssue 5 .b).stream .b).halfOf false).line 0 = (.poison, poisonWord, { data := 0, poison := true }) := by
  decide +kernel

theorem witness_illegal_line :
    canonB (atLine (encodeWord 0)) = true ∧ (((atLine (encodeWord 0)).coreAtIssue 5 .b).stream .b).state = .running ∧
    (((((atLine (encodeWord 0)).coreAtIssue 5 .b).stream .b).halfOf false).line 0).2.2.poison = false ∧
    (((atLine (encodeWord 0)).coreAtIssue 5 .b).stream .b).peek = none := by decide +kernel

theorem witness_body : ∀ (_ : CoreEnv) (x : Core) (_ : StreamId) (_ : Decoded), x.canon → x.canon := fun _ _ _ _ h => h

/-- Stream B of core 5 at the last word of its half, a NOP. -/
def atLast : State :=
  withCore 5 { Core.reset with b := { Stream.reset with
    state := .running, pc := 4095, h0 := { state := .loaded, tag := 5, lines := [(1023, lineOf [0, 0, 0, (encodeInsn 3 .nop).headD 0])] } } }

theorem witness_nop : (issuing .nop).canon ∧ (issuing .nop).issues 5 .b (3, 1, .nop) := issues_of (by decide +kernel)
theorem witness_nop_at_end : (atLast.canon ∧ atLast.issues 5 .b (3, 1, .nop)) ∧ 4095 < ((atLast.coreAtIssue 5 .b).stream .b).pc.toNat + 1 :=
  ⟨issues_of (by decide +kernel), by decide +kernel⟩
theorem witness_halt : (issuing .halt).canon ∧ (issuing .halt).issues 5 .b (3, 1, .halt) := issues_of (by decide +kernel)
theorem witness_cset : (issuing (.cset 7 0xFFFFFF)).canon ∧ (issuing (.cset 7 0xFFFFFF)).issues 5 .b (3, 1, .cset 7 0xFFFFFF) :=
  issues_of (by decide +kernel)
theorem witness_cinc : (issuing (.cinc 7 0xFFFFFF)).canon ∧ (issuing (.cinc 7 0xFFFFFF)).issues 5 .b (3, 1, .cinc 7 0xFFFFFF) :=
  issues_of (by decide +kernel)
theorem witness_cmpset : (issuing (.cmpset 3 7 2 0xFFFFFF)).canon ∧
    (issuing (.cmpset 3 7 2 0xFFFFFF)).issues 5 .b (3, 1, .cmpset 3 7 2 0xFFFFFF) := issues_of (by decide +kernel)

/-- A logical context. -/
def someContext : LogicalCtx := { Stream.reset.ctx with tid := 77 }

theorem witness_lctx : (issuing (.lctx someContext)).canon ∧ (issuing (.lctx someContext)).issues 5 .b (3, 4, .lctx someContext) :=
  issues_of (by decide +kernel)

/-- Stream B about to issue EVENT with n entries in its queue. -/
def eventWith (n : Nat) : State := withCore 5 { Core.reset with b := { running (.event 0x8001) with events := List.replicate n (1, some 3) } }

theorem witness_event : ((eventWith 15).canon ∧ (eventWith 15).issues 5 .b (3, 1, .event 0x8001)) ∧
    (((eventWith 15).coreAtIssue 5 .b).stream .b).events.length < 16 := ⟨issues_of (by decide +kernel), by decide +kernel⟩
theorem witness_event_full : ((eventWith 16).canon ∧ (eventWith 16).issues 5 .b (3, 1, .event 0x8001)) ∧
    16 ≤ (((eventWith 16).coreAtIssue 5 .b).stream .b).events.length := ⟨issues_of (by decide +kernel), by decide +kernel⟩

/-- Queue 2 has launched stream B, which has queued an event and then been started by another LAUNCH. -/
def eventQueued : State :=
  let s := withCore 5 { Core.reset with b := { Stream.reset with events := [(0x8001, some 4)], launch := some 9 } }
  { s with host := { s.host with launches := [{ id := 4, queue := 2, seq := 0x55, cores := [5], smask := 2, live := true, ended := [] }] } }

theorem witness_event_posted : canonB eventQueued = true ∧ ((eventQueued.core 5).stream .b).events = (0x8001, some 4) :: [] ∧
    (eventQueued.launchOf (some 4)).isSome = true := by decide +kernel

theorem witness_br : (issuing (.br 4095)).canon ∧ (issuing (.br 4095)).issues 5 .b (3, 1, .br 4095) := issues_of (by decide +kernel)
theorem witness_brc : (issuing (.brc 9 2)).canon ∧ (issuing (.brc 9 2)).issues 5 .b (3, 1, .brc 9 2) := issues_of (by decide +kernel)
theorem witness_brn : (issuing (.brn 9 2)).canon ∧ (issuing (.brn 9 2)).issues 5 .b (3, 1, .brn 9 2) := issues_of (by decide +kernel)

/-- Stream B about to switch halves with tag 9, the other half as given. -/
def switching (h : Half) : State := withCore 5 { Core.reset with b := { running (.hswitch 8 9) with h1 := h } }

/-- The state of the half that stream B would enter, and its tag. -/
def other (s : State) : HalfState × BitVec 16 := let h := ((s.coreAtIssue 5 .b).stream .b).halfOf true; (h.state, h.tag)

/-- The other half, Loaded with a tag. -/
def tagged (tag : BitVec 16) : Half := { state := .loaded, tag := tag, lines := [] }

theorem witness_hswitch : ((switching (tagged 9)).canon ∧ (switching (tagged 9)).issues 5 .b (3, 1, .hswitch 8 9)) ∧
    other (switching (tagged 9)) = (.loaded, 9) := ⟨issues_of (by decide +kernel), by decide +kernel⟩
theorem witness_hswitch_tag : ((switching (tagged 8)).canon ∧ (switching (tagged 8)).issues 5 .b (3, 1, .hswitch 8 9)) ∧
    other (switching (tagged 8)) = (.loaded, 8) := ⟨issues_of (by decide +kernel), by decide +kernel⟩
theorem witness_hswitch_empty :
    ((switching Stream.reset.h1).canon ∧ (switching Stream.reset.h1).issues 5 .b (3, 1, .hswitch 8 9)) ∧
    (other (switching Stream.reset.h1)).1 ≠ .loaded := ⟨issues_of (by decide +kernel), by decide +kernel⟩

/-! Tokens. -/

/-- A core whose token 3 stands at n, stream F running. -/
def tokensAt (n : BitVec 8) : Core :=
  { Core.reset with tokens := Core.reset.tokens.set 3 n, f := { Stream.reset with state := .running } }

theorem witness_visible_post : (∀ k, ((tokensAt 250).stream k).state ≠ .waiting) ∧ (tokensAt 250).tokens[3].toNat + 5 = 255 ∧
    (tokensAt 250).tokens[3].toNat + 6 = 256 ∧ ((tokensAt 250).stream .f).state = .running :=
  ⟨fun k => by cases k <;> decide, by decide, by decide, by decide⟩

/-- Stream B about to wait for 5 tokens. -/
def waitingFor (n : BitVec 8) : State :=
  withCore 5 { Core.reset with b := running (.twait 3 5), tokens := Core.reset.tokens.set 3 n }

theorem witness_twait (n : BitVec 8) (h : n = 4 ∨ n = 5) :
    ((waitingFor n).canon ∧ (waitingFor n).issues 5 .b (3, 1, .twait 3 5)) ∧
    (∀ j, j ≠ .b → (((waitingFor n).coreAtIssue 5 .b).stream j).state ≠ .waiting) ∧
    (((waitingFor n).coreAtIssue 5 .b).stream .b).pc.toNat + 1 ≤ 4095 ∧ ((waitingFor n).coreAtIssue 5 .b).tokens[3] = n := by
  rcases h with rfl | rfl
  · exact ⟨issues_of (by decide +kernel), fun j => by cases j <;> decide +kernel, by decide +kernel, by decide +kernel⟩
  · exact ⟨issues_of (by decide +kernel), fun j => by cases j <;> decide +kernel, by decide +kernel, by decide +kernel⟩

/-- The same with a post visible in the issue cycle that takes another counter above 255. -/
def waitingOver : State :=
  withCore 5 { Core.reset with
    b := running (.twait 3 5), tokens := Core.reset.tokens.set 4 250, posts := [{ due := 0, token := 4, count := 6 }] }

theorem witness_twait_over :
    (waitingOver.canon ∧ waitingOver.issues 5 .b (3, 1, .twait 3 5)) ∧
    (∀ j, j ≠ .b → ((waitingOver.coreAtIssue 5 .b).stream j).state ≠ .waiting) ∧
    ((waitingOver.coreAtIssue 5 .b).stream .b).pc.toNat + 1 ≤ 4095 ∧
    (let x := waitingOver.coreAtIssue 5 .b
     let cnt := x.countsWith (x.visiblePosts x.cycle)
     cnt[3] < 5 ∧ 255 < cnt[4]) :=
  ⟨issues_of (by decide +kernel), fun j => by cases j <;> decide +kernel, by decide +kernel, by decide +kernel⟩

/-- Stream B waits for 5 tokens of counter 3, which stands at n. -/
def waits (n : BitVec 8) (limit : BitVec 24) : State :=
  withCore 5 { Core.reset with
    b := { Stream.reset with state := .waiting, waitToken := 3, waitCount := 5, wdogLimit := limit }, tokens := Core.reset.tokens.set 3 n }

theorem witness_grant (n : BitVec 8) (h : n = 4 ∨ n = 5) :
    canonB (waits n 1) = true ∧ (waits n 1).coresRun = true ∧ (waits n 1).coreOn 5 = true ∧ (((waits n 1).core 5).stream .b).state = .waiting ∧
    (∀ j, j ≠ .b → (((waits n 1).core 5).stream j).state ≠ .waiting) ∧ ((waits n 1).core 5).posts = [] ∧
    (let x := (waits n 1).core 5
     let cnt := x.countsWith (x.visiblePosts x.cycle)
     cnt[3] = n.toNat ∧ ∀ i : Fin 32, (cnt.set 3 (cnt[3] - 5))[i] ≤ 255) ∧
    ((waits n 1).core 5).tokens[3] = n := by
  rcases h with rfl | rfl
  · exact ⟨by decide +kernel, by decide +kernel, by decide +kernel, by decide +kernel, fun j => by cases j <;> decide +kernel,
      by decide +kernel, by decide +kernel, by decide +kernel⟩
  · exact ⟨by decide +kernel, by decide +kernel, by decide +kernel, by decide +kernel, fun j => by cases j <;> decide +kernel,
      by decide +kernel, by decide +kernel, by decide +kernel⟩

theorem witness_watchdog :
    let x := (waits 4 1).core 5
    let y := x.advanceTo ((waits 4 1).coreEnv 5) 1024
    let cnt := y.countsWith (y.visiblePosts y.cycle)
    (x.stream .b).wdogLimit ≠ 0 ∧ x.anyPaged = false ∧ (y.stream .b).state = .waiting ∧
    (∀ j, (y.stream j).state = .waiting → cnt[(y.stream j).waitToken.toFin] < (y.stream j).waitCount.toNat) ∧
    (∀ i : Fin 32, cnt[i] ≤ 255) ∧ (((waits 4 0).core 5).stream .b).wdogLimit = 0 :=
  ⟨by decide +kernel, by decide +kernel, by decide +kernel, fun j => by cases j <;> decide +kernel, by decide +kernel, by decide +kernel⟩

/-- Stream B waits, and the tokens come in the cycle in which its limit is reached. -/
def waitsUntil : State :=
  withCore 5 { Core.reset with
    b := { Stream.reset with state := .waiting, waitToken := 3, waitCount := 5, wdogLimit := 1 },
    posts := [{ due := 1024, token := 3, count := 5 }] }

theorem witness_watchdog_grant :
    let x := waitsUntil.core 5
    let y := x.advanceTo (waitsUntil.coreEnv 5) 1024
    let cnt := y.countsWith (y.visiblePosts y.cycle)
    (x.stream .b).wdogLimit ≠ 0 ∧ x.anyPaged = false ∧ (y.stream .b).state = .waiting ∧
    (∀ j, j ≠ .b → (y.stream j).state ≠ .waiting) ∧ (y.stream .b).waitToken.toFin = 3 ∧ (y.stream .b).waitCount.toNat ≤ cnt[3] ∧
    (y.stream .b).pc.toNat + 1 ≤ 4095 ∧ ∀ i : Fin 32, cnt[i] ≤ 255 :=
  ⟨by decide +kernel, by decide +kernel, by decide +kernel, fun j => by cases j <;> decide +kernel, by decide +kernel, by decide +kernel,
    by decide +kernel, by decide +kernel⟩

theorem witness_watchdog_paged :
    ({ (waits 4 1).core 5 with ch := Core.reset.ch.set 1 { Channel.reset with state := .paged } } : Core).anyPaged = true := by decide +kernel

/-- A module with 200 enabled cores, core 5 about to post. -/
def posting (remote : Bool) (to_ : BitVec 8) : State :=
  let s := issuing (.tpost 3 1 remote to_)
  { s with ident := { s.ident with enabled := BitVec.ofNat 224 (2 ^ 200 - 1) } }

theorem witness_tpost_own : ((posting false 0).canon ∧ (posting false 0).issues 5 .b (3, 1, .tpost 3 1 false 0)) :=
  issues_of (by decide +kernel)
theorem witness_tpost_other : ((posting true 199).canon ∧ (posting true 199).issues 5 .b (3, 1, .tpost 3 1 true 199)) ∧
    199 < (posting true 199).coreCount := ⟨issues_of (by decide +kernel), by decide +kernel⟩
theorem witness_tpost_none : ((posting true 200).canon ∧ (posting true 200).issues 5 .b (3, 1, .tpost 3 1 true 200)) ∧
    (posting true 200).coreCount ≤ 200 := ⟨issues_of (by decide +kernel), by decide +kernel⟩

theorem witness_token_post : let s := withCore 5 { Core.reset with inbound := [(1, 2), (3, 4)] }
    canonB s = true ∧ s.coresRun = true ∧ s.coreOn 5 = true ∧ (s.core 5).inbound[1]? = some (3, 4) := by decide +kernel

theorem witness_token_set :
    jobUp.linked = true ∧ jobUp.coreOn 5 = true ∧ (∀ k, ((jobUp.core 5).stream k).state = .idle ∨ ((jobUp.core 5).stream k).state = .halted) ∧
    ¬∀ k, (((waits 4 1).core 5).stream k).state = .idle ∨ (((waits 4 1).core 5).stream k).state = .halted :=
  ⟨by decide +kernel, by decide +kernel, fun k => by cases k <;> decide +kernel, fun h => absurd (h .b) (by decide +kernel)⟩

/-! The array. -/

/-- An address of 64 bytes, without counter terms. -/
def addr64 (n : BitVec 21) : AddrTerm := { base := n, ca := 0, ena := false, stepA := 0, cb := 0, enb := false, stepB := 0 }

/-- Core 5 about to push to channel 1, which holds n descriptors. -/
def pushing (n : Nat) (a : BitVec 21) : State :=
  let d : QDesc := { w0 := 0, w1 := 0, adjust := none, stream := .b, step := 11, launch := none, ctx := { l := 0, k := 0, lcols := 0, tid := 0 }, earliest := 0 }
  withCore 5 { Core.reset with
    b := running (.qpush 1 0 false 0 (addr64 a)), ch := Core.reset.ch.set 1 { Channel.reset with queue := List.replicate n d } }

theorem witness_qpush : ((pushing 15 64).canon ∧ (pushing 15 64).issues 5 .b (3, 2, .qpush 1 0 false 0 (addr64 64))) ∧
    ((pushing 15 64).coreAtIssue 5 .b).ch[1].queue.length = 15 := ⟨issues_of (by decide +kernel), by decide +kernel⟩
theorem witness_qpush_full : ((pushing 16 64).canon ∧ (pushing 16 64).issues 5 .b (3, 2, .qpush 1 0 false 0 (addr64 64))) ∧
    16 ≤ ((pushing 16 64).coreAtIssue 5 .b).ch[1].queue.length := ⟨issues_of (by decide +kernel), by decide +kernel⟩
theorem witness_qpush_misaligned : ((pushing 0 65).canon ∧ (pushing 0 65).issues 5 .b (3, 2, .qpush 1 0 false 0 (addr64 65))) ∧
    (((pushing 0 65).coreAtIssue 5 .b).stream .b).addrOf (addr64 65) % 32 ≠ 0 := ⟨issues_of (by decide +kernel), by decide +kernel⟩

/-! Several posts visible in one cycle, one stream waiting. -/

/-- Counter 3 at 250, stream B waiting for two tokens of counter 4. -/
def overflowing : Core := { tokensAt 250 with b := { Stream.reset with state := .waiting, waitToken := 4, waitCount := 2 } }
/-- Three posts: two to counter 3, one to counter 4. -/
def threePosts : List TokenPost := [{ due := 9, token := 3, count := 4 }, { due := 9, token := 4, count := 1 }, { due := 9, token := 3, count := 2 }]

theorem witness_visible_posts :
    let n := fun (i : Fin 32) => (overflowing.tokens[i]).toNat + ((threePosts.filter fun p => p.token.toFin == i).map fun p => p.count.toNat).sum
    (∀ k, (overflowing.stream k).state = .waiting →
      n (overflowing.stream k).waitToken.toFin < (overflowing.stream k).waitCount.toNat) ∧
    255 < n 3 ∧ (∀ j : Fin 32, j < 3 → n j ≤ 255) ∧ (overflowing.stream .f).state = .running ∧ (overflowing.stream .b).state = .waiting ∧
    (overflowing.stream .u).state = .idle :=
  ⟨fun k => by cases k <;> decide +kernel, by decide +kernel, by decide +kernel, by decide +kernel, by decide +kernel, by decide +kernel⟩

end Sys2Proof.Tests
end

