-- ==== Sys2Proof/Tests/WitnessFabric.lean ====
section
/-! SUPPORT. For every statement about links, Erg and the reduction engine a state and operands that meet its hypotheses, for each of
its clauses. -/

namespace Sys2Proof.Tests

set_option Elab.async false

open Sys2Proof.Machine

/-! Links. -/

/-- Port 3 in a state, with two frames in its replay buffer. -/
def linkIn (l : LinkState) (f : Port → Port) : State :=
  jobUp.modPort 3 fun q => f { q with
    lstate := l, laneLock := 0xFF, rxSeq := 4095, txSeq := 7,
    replayBuf := [(5, { hdr := ErgHdr.zero, payload := [] }), (6, { hdr := ErgHdr.zero, payload := [] })] }

/-- What a frame's check says. -/
def checked (b : Bool) : FrameCheck := { crcOk := b, corr := 3, uncorr := 70000 }
theorem witness_frame_check (b : Bool) : (checked b).crcOk = b := rfl
theorem witness_frame (b : Bool) : ((linkIn .up fun q => { q with discarding := b }).port 3).lstate = .up ∧
    ((linkIn .up fun q => { q with discarding := b }).port 3).discarding = b ∧ (5 : BitVec 12) ≠ 4095 := by cases b <;> decide +kernel
theorem witness_nak (n : Nat) (h : n = 3 ∨ n = 4) : let q := (linkIn .up fun q => { q with failSeq := 5, fails := n }).port 3
    q.lstate = .up ∧ (q.replayBuf.dropWhile fun e => e.1 != 5) ≠ [] ∧ (if q.failSeq = 5 then q.fails else 0) = n := by
  rcases h with rfl | rfl <;> decide +kernel
theorem witness_training (l : LinkState) : ((linkIn l id).port 3).lstate = l ∧ (linkIn l id).linked = true := by
  cases l <;> decide +kernel
/-- A packet of a lane. -/
def lanePkt (vl : Nat) : ErgPacket := { hdr := { ErgHdr.zero with vl := BitVec.ofNat 2 vl }, payload := [] }
/-- A port in training whose lanes from a number on wait, and whose receiver has room or none for responses. -/
def queuedIn (from_ : Nat) (turn : Bool) (room : Nat) : State :=
  linkIn .training fun q => { q with
    lanes := #v[[lanePkt 0], if from_ ≤ 1 then [lanePkt 1] else [], [lanePkt 2], if from_ = 0 then [lanePkt 3] else []],
    credits := q.credits.set 1 room, collTurn := turn }
theorem witness_lane_management : let q := (queuedIn 0 false 2048).port 3
    q.lstate = .training ∧ q.ready 3 = true ∧ q.lanes[3] = lanePkt 3 :: [] := by decide +kernel
theorem witness_lane_response : let q := (queuedIn 1 false 2048).port 3
    q.ready 3 = false ∧ q.ready 1 = true ∧ q.lanes[1] = lanePkt 1 :: [] := by decide +kernel
theorem witness_lane_turns (n : Nat) (t : Bool) (h : n = 1 ∨ n = 2) : let q := (queuedIn n t 0).port 3
    q.ready 3 = false ∧ q.ready 1 = false ∧ q.ready 0 = true ∧ q.ready 2 = true ∧ q.collTurn = t ∧ q.lanes[0] = lanePkt 0 :: [] ∧
    q.lanes[2] = lanePkt 2 :: [] := by
  rcases h with rfl | rfl <;> cases t <;> decide +kernel
theorem witness_lanes_empty : ((linkIn .training id).port 3).queued = 0 := by decide +kernel
theorem witness_port_en : let s := linkIn .off id
    s.linked = true ∧ s.ident.coordLock = true ∧ (8 : BitVec 16).getLsbD 3 = true ∧ s.erg.portEn.getLsbD 3 = false ∧
    (0 : BitVec 16).getLsbD 3 = false ∧ ({ s.erg with portEn := 8 } : Fabric).portEn.getLsbD 3 = true := by decide +kernel

/-! Erg packets: port 3 Up, module 5 reached by every port. -/

/-- The module with port 3 Up and modules 1 to 5, 64 and 65 reached by every port. -/
def fabricUp : State :=
  let s := linkIn .up fun q => { q with replayBuf := [] }
  let e : BitVec 32 := 0x8000FFFF
  { s with erg := { s.erg with route0 := [(1, e), (2, e), (3, e), (5, e), (64, e), (65, e)] } }

/-- A header from a module of the job. -/
def headOf (src opc vl len addr csum seq : Nat) : ErgHdr :=
  { ErgHdr.zero with
    src := BitVec.ofNat 12 src, gen := 5, opc := BitVec.ofNat 6 opc, vl := BitVec.ofNat 2 vl, len := BitVec.ofNat 6 len,
    addr := BitVec.ofNat 48 addr, csum := BitVec.ofNat 64 csum, seq := BitVec.ofNat 32 seq }

/-- A packet is taken. -/
def takesB (s : State) (p : Fin 16) (pkt : ErgPacket) : Bool := s.receives p && s.ident.coordLock && decide (s.dropCounter pkt = none)

theorem takes_of {s : State} {p : Fin 16} {pkt : ErgPacket} (h : takesB s p pkt = true) : s.takes p pkt := by
  simp only [takesB, Bool.and_eq_true, decide_eq_true_eq] at h
  exact ⟨h.1.1, h.1.2, h.2⟩

/-- A packet carries words that are read clean. -/
def carriesB (pkt : ErgPacket) (ws : List Data) : Bool :=
  decide (pkt.payload = ws.map encodeWord) && decide (pkt.hdr.len.toNat = ws.length) && pkt.hdr.psn == 0 && ws.all cleanB

theorem carries_of {pkt : ErgPacket} {ws : List Data} (h : carriesB pkt ws = true) : packetCarries pkt ws := by
  simp only [carriesB, Bool.and_eq_true, decide_eq_true_eq, beq_iff_eq, List.all_eq_true] at h
  exact ⟨h.1.1.1, h.1.1.2, h.1.2, fun w hw => clean_of (h.2 w hw)⟩

/-- A request of n words reaches words that may be accessed. -/
def reachesB (s : State) (h : ErgHdr) (n region off : Nat) (write : Bool) : Bool :=
  let a := BitVec.ofNat 64 ((if h.space then 2 ^ 60 else 0) + h.addr.toNat)
  (!h.space || h.rank == s.job.rank) && (s.translate a).toOption == some (region, off) && (decide (region < 5) || region == 8)
    && adr a 0 5 == 0 && decide (adr a 0 10 + 32 * n ≤ 1024) && decide (off + 32 * n ≤ s.regionSize region)
    && (!decide (region < 5) || decide (s.ownerRefuses region off write = none))

theorem reaches_of {s : State} {h : ErgHdr} {n region off : Nat} {w : Bool} (hh : reachesB s h n region off w = true) :
    s.reaches h n region off w := by
  simp only [reachesB, Bool.and_eq_true, Bool.or_eq_true, Bool.not_eq_true', beq_iff_eq, decide_eq_true_eq, decide_eq_false_iff_not] at hh
  obtain ⟨⟨⟨⟨⟨⟨h0, h1⟩, h2⟩, h3⟩, h4⟩, h5⟩, h6⟩ := hh
  refine ⟨fun hs => h0.resolve_left (by simp [hs]), ?_, h2, h3, h4, h5, fun hr => h6.resolve_left (fun hn => hn hr)⟩
  revert h1
  cases s.translate _ with
  | error e => intro h; cases h
  | ok v => intro h; cases h; rfl

/-- A WRITE of two words from byte 4 of the word 0x40 of a region to byte 27 of the next, and a READ of the word, from module 5. -/
def writeTo (a : Nat) : ErgPacket :=
  { hdr := headOf 5 0x01 0 2 a (2 ^ 16 * 4 + 27 * 2 ^ 21 + 77) 0, payload := [encodeWord 0x1234567, encodeWord 0x89] }
def writePkt : ErgPacket := writeTo (4 * 2 ^ 44 + 0x40)
def readPkt : ErgPacket := { hdr := headOf 5 0x02 0 0 (4 * 2 ^ 44 + 0x40) 77 0, payload := [] }

theorem witness_dropped (b : Bool) :
    let pkt := if b then { writePkt with hdr := { writePkt.hdr with rsv := 1 } } else { writePkt with hdr := { writePkt.hdr with gen := 1 } }
    fabricUp.receives 3 = true ∧ pkt.hdr.opc.toNat = 0x01 ∧ (fabricUp.dropCounter pkt).isSome = true := by cases b <;> decide +kernel
/-- The module with the words that the WRITE changes in part, in region 4 and in the scratchpad of logical core 5. -/
def writable : State :=
  (put (put fabricUp 4 0x40 7) 4 0x60 8).setCore 5 { Core.reset with spad := [(2, encodeWord 7), (3, encodeWord 8)] }

theorem witness_write (region off : Nat) (h : (region, off) = (4, 0x40) ∨ (region, off) = (8, 5 * 2 ^ 21 + 0x40)) : let s := writable
    let pkt := writeTo (region * 2 ^ 44 + off)
    s.canon ∧ s.takes 3 pkt ∧ pkt.hdr.seq = (s.erg.rxOf 5 0xFFFF).x ∧ (s.erg.rxOf 5 0xFFFF).held = [] ∧
    pkt.payload = [0x1234567, 0x89].map encodeWord ∧ pkt.hdr.len.toNat = 2 ∧ cleanData 0x1234567 ∧ cleanData 0x89 ∧
    s.reaches pkt.hdr 2 region off true ∧ s.wordAt region off = encodeWord 7 ∧ s.wordAt region (off + 32) = encodeWord 8 ∧
    cleanData 7 ∧ cleanData 8 ∧ writeMask 2 0 4 27 = 0xFFFFFFF0 ∧ writeMask 2 1 4 27 = 0x0FFFFFFF ∧
    (s.usable 5).getLsbD 3 = true ∧ s.sendsAt 3 1 ∧ pkt.hdr.psn = 0 := by
  simp only [Prod.mk.injEq] at h
  rcases h with ⟨rfl, rfl⟩ | ⟨rfl, rfl⟩ <;>
    exact ⟨canon_of (by decide +kernel), takes_of (by decide +kernel), by decide +kernel, by decide +kernel, by decide +kernel,
      by decide +kernel, clean_of (by decide +kernel), clean_of (by decide +kernel), reaches_of (by decide +kernel), by decide +kernel,
      by decide +kernel, clean_of (by decide +kernel), clean_of (by decide +kernel), by decide +kernel, by decide +kernel,
      by decide +kernel, ⟨by decide +kernel, by decide +kernel⟩, by decide +kernel⟩
theorem witness_write_poisoned : let h := { (writeTo (4 * 2 ^ 44 + 0x40)).hdr with psn := 2 }
    h.psn.getLsbD 1 = true ∧ h.psn.getLsbD 0 = false ∧ writable.takes 3 { writeTo (4 * 2 ^ 44 + 0x40) with hdr := h } :=
  ⟨by decide +kernel, by decide +kernel, takes_of (by decide +kernel)⟩
theorem witness_read (region off : Nat) (h : (region, off) = (4, 0x40) ∨ (region, off) = (8, 5 * 2 ^ 21 + 0x40)) : let s := writable
    let pkt := { readPkt with hdr := { readPkt.hdr with addr := BitVec.ofNat 48 (region * 2 ^ 44 + off) } }
    s.takes 3 pkt ∧ pkt.payload = [] ∧ pkt.hdr.len = 0 ∧ s.reaches pkt.hdr 1 region off false ∧ s.wordAt region off = encodeWord 7 ∧
    cleanData 7 ∧ pkt.hdr.seq = (s.erg.rxOf 5 0xFFFF).x ∧ bitsOf pkt.hdr.csum.toNat 26 6 = 0 ∧ s.sendsAt 3 3 ∧
    (∀ q, region = 8 → s.physOf (off / 2 ^ 21) = some q → (s.core q).writes = [] ∧ (s.core q).ues = [] ∧ (s.core q).remote = []) := by
  simp only [Prod.mk.injEq] at h
  rcases h with ⟨rfl, rfl⟩ | ⟨rfl, rfl⟩ <;>
    refine ⟨takes_of (by decide +kernel), by decide +kernel, by decide +kernel, reaches_of (by decide +kernel), by decide +kernel,
      clean_of (by decide +kernel), by decide +kernel, by decide +kernel, ⟨by decide +kernel, by decide +kernel⟩, fun q _ _ => ?_⟩ <;>
    exact core_all writable (fun x => x.writes = [] ∧ x.ues = [] ∧ x.remote = []) (by decide +kernel) (by decide +kernel) q

/-- A read of channel 1 of core 5 in another module. -/
def readAccess : ErgAccess :=
  { issuer := .qanat 5 1, tag := 77, step := some 11, opc := 2, addr := BitVec.ofNat 64 (5 * 2 ^ 48 + 4 * 2 ^ 44 + 0x40), rlen := 0,
    fbyte := 0, lbyte := 31, payload := [] }
/-- The module with that read under way, and one more of its row. -/
def readingAway : State :=
  { fabricUp with erg := { fabricUp.erg with reqs := [readAccess], nextTag := 78 } }.setCore 5 { Core.reset with
    ch := Core.reset.ch.set 1 { Channel.reset with state := .active, phase := .reading, waitingOn := [(77, 4), (78, 5)] } }
/-- Its answers. -/
def dataPkt : ErgPacket := { hdr := headOf 5 0x08 1 1 (4 * 2 ^ 44 + 0x40) 77 0, payload := [encodeWord 9] }
def statusPkt (st : Nat) : ErgPacket := { hdr := headOf 5 0x09 1 0 st 77 0, payload := [] }

theorem witness_answers (pkt : ErgPacket) (h : pkt = dataPkt ∨ pkt = statusPkt 0x11 ∨ pkt = statusPkt stNoRoute.toNat) :
    readingAway.takes 3 pkt ∧ readingAway.erg.reqOf (pkt.hdr.csum.toNat % 65536) = some readAccess ∧
    (readingAway.chan 5 1).waitingOn.find? (fun w => w.1 == 77) = some (77, 4) ∧ (readingAway.chan 5 1).refused = [] ∧
    (readingAway.chan 5 1).waitingOn.filter (fun w => w.1 != 77) = [(78, 5)] ∧ (∀ b ∈ readingAway.erg.parked, b.tag ≠ 77) := by
  rcases h with rfl | rfl | rfl <;>
    exact ⟨takes_of (by decide +kernel), by decide +kernel, by decide +kernel, by decide +kernel, by decide +kernel, by decide +kernel⟩
theorem witness_read_data : packetCarries dataPkt [9] ∧ (statusPkt stNoRoute.toNat).hdr.addr.extractLsb' 0 16 = stNoRoute ∧
    (statusPkt 0x11).hdr.addr.extractLsb' 0 16 ≠ stNoRoute := ⟨carries_of (by decide +kernel), by decide +kernel, by decide +kernel⟩

/-- A packet kept for its ACK. -/
def kept (seq : Nat) : Retained := { pkt := { hdr := headOf 5 1 0 1 0 0 seq, payload := [] }, access := none, resends := 1 }
/-- The module with four packets kept for module 5. -/
def sending : State :=
  { fabricUp with erg := { fabricUp.erg with tx := [{ dst := 5, sid := 0xFFFF, next := 9, unacked := [kept 4, kept 5, kept 6, kept 7], waiting := [] }] } }
theorem witness_ack : let pkt : ErgPacket := { hdr := headOf 5 0x0A 1 0 (2 ^ 32 * 0xFFFF) 2 5, payload := [] }
    sending.takes 3 pkt ∧ sending.erg.quietBusy = false ∧ (sending.erg.txOf 5 0xFFFF).waiting = [] ∧
    (∀ r ∈ (sending.erg.txOf 5 0xFFFF).unacked, r.access = none) ∧ pkt.hdr.addr.extractLsb' 32 16 = 0xFFFF :=
  ⟨takes_of (by decide +kernel), by decide +kernel, by decide +kernel, by decide +kernel, by decide +kernel⟩

/-- A WRITE of channel 1 of core 5 under way. -/
def writeAccess : ErgAccess := { readAccess with opc := 1, fbyte := 0, lbyte := 31, payload := [5] }
/-- The module with its packet alone in its stream. -/
def writingAway : State :=
  { fabricUp with erg := { fabricUp.erg with
      reqs := [writeAccess]
      tx := [{ dst := 5, sid := 0xFFFF, next := 5, unacked := [{ kept 4 with access := some writeAccess }], waiting := [] }] } }.setCore 5
    { Core.reset with ch := Core.reset.ch.set 1 { Channel.reset with state := .active, phase := .writing, waitingOn := [(77, 4)] } }
theorem witness_ack_write : let s := writingAway
    let pkt : ErgPacket := { hdr := headOf 5 0x0A 1 0 (2 ^ 32 * 0xFFFF) 0 5, payload := [] }
    s.takes 3 pkt ∧ s.erg.quietBusy = false ∧ (s.erg.txOf 5 0xFFFF).waiting = [] ∧
    (s.erg.txOf 5 0xFFFF).unacked.filter (fun r => ackCovers pkt.hdr.seq pkt.hdr.csum r.pkt.hdr.seq)
      = [{ kept 4 with access := some writeAccess }] ∧
    (∃ b ∈ s.erg.reqs, b.tag = writeAccess.tag) ∧ (s.chan 5 1).waitingOn.find? (fun w => w.1 == 77) = some (77, 4) ∧
    (s.chan 5 1).refused = [] ∧ (s.chan 5 1).waitingOn.filter (fun w => w.1 != 77) = [] :=
  ⟨takes_of (by decide +kernel), by decide +kernel, by decide +kernel, by decide +kernel, ⟨writeAccess, by decide +kernel, rfl⟩,
    by decide +kernel, by decide +kernel, by decide +kernel⟩

/-- A QUIET of this module back from its plane, with probes out. -/
def quietPkt : ErgPacket := { hdr := headOf 0 0x30 3 0 0 0 0, payload := [] }
theorem witness_quiet (m : Nat) (h : m = 8 ∨ m = 9) :
    let s := { fabricUp with erg := { fabricUp.erg with probes := BitVec.ofNat 16 m, quietBusy := true } }
    s.takes 3 quietPkt ∧ quietPkt.hdr.src = s.ident.id ∧ quietPkt.hdr.dst = s.ident.id ∧ s.quietWaiter = none ∧ s.erg.tx = [] ∧
    (s.erg.probes &&& ~~~ BitVec.ofNat 16 (2 ^ 3) = 0 ↔ m = 8) := by
  rcases h with rfl | rfl <;> exact ⟨takes_of (by decide +kernel), by decide +kernel, by decide +kernel, by decide +kernel, by decide +kernel,
    by decide +kernel⟩
/-- A BOUNCE of a packet to module 5. -/
def bouncePkt (b : BitVec 5) : ErgPacket := { hdr := { headOf 0 0x31 3 0 0 0 5 with dst := 5, bopc := b }, payload := [] }
theorem witness_bounced_answers (b : BitVec 5) (h : b = 0x08 ∨ b = 0x09) :
    sending.takes 3 (bouncePkt b) ∧ (bouncePkt b).hdr.src = sending.ident.id := by
  rcases h with rfl | rfl <;> exact ⟨takes_of (by decide +kernel), by decide +kernel⟩
/-- A BOUNCE of a packet of collective 6. -/
theorem witness_bounced_collective :
    let s := { fabricUp with erg := { fabricUp.erg with
      tx := [{ dst := 5, sid := 6, next := 9, unacked := [kept 5], waiting := [] }] } }
    let pkt : ErgPacket := { hdr := { headOf 0 0x31 3 0 (2 ^ 32 * 6) 0 5 with dst := 5, bopc := 0x10 }, payload := [] }
    s.takes 3 pkt ∧ pkt.hdr.src = s.ident.id ∧ 0x10 ≤ pkt.hdr.bopc.toNat ∧ pkt.hdr.addr.extractLsb' 32 16 = 6 ∧
    (s.erg.txOf 5 6).unacked.find? (fun r => r.pkt.hdr.seq == 5) = some (kept 5) :=
  ⟨takes_of (by decide +kernel), by decide +kernel, by decide +kernel, by decide +kernel, by decide +kernel⟩
theorem witness_bounce (b : BitVec 5) (h : b = 0x0A ∨ b = 0x01 ∨ b = 0x02) : sending.takes 3 (bouncePkt b) ∧ (bouncePkt b).hdr.src = sending.ident.id ∧
    (sending.erg.txOf 5 0xFFFF).unacked.find? (fun r => r.pkt.hdr.seq == 5) = some (kept 5) ∧
    (kept 5).resends < (if sending.erg.resendMax = 0 then 16 else sending.erg.resendMax.toNat) := by
  rcases h with rfl | rfl | rfl <;> exact ⟨takes_of (by decide +kernel), by decide +kernel, by decide +kernel, by decide +kernel⟩

/-! Timers and bad packets. -/

/-- The module owing an ACK to module 5, with the read parked. -/
def owing : State :=
  { sending with erg := { sending.erg with
      rx := [{ src := 5, sid := 0xFFFF, x := 6, received := [(8, 3)], held := [], sinceAck := 2, plane := some 3 }], parked := [readAccess] } }.setCore 5
    { Core.reset with ch := Core.reset.ch.set 1 { Channel.reset with state := .active, phase := .reading, waitingOn := [(77, 4), (78, 5)] } }
theorem witness_ack_timer : (owing.erg.rxOf 5 0xFFFF).plane = some 3 ∧ (owing.usable 5).getLsbD 3 = true ∧
    owing.sendsAt 3 1 ∧ (sending.erg.rxOf 5 0xFFFF).plane = none := by
  unfold State.sendsAt
  decide +kernel
theorem witness_resend_timer : owing.erg.quietBusy = false ∧
    (owing.erg.txOf 5 0xFFFF).unacked.find? (fun r => r.pkt.hdr.seq == 5) = some (kept 5) ∧
    (kept 5).resends < (if owing.erg.resendMax = 0 then 16 else owing.erg.resendMax.toNat) ∧ 1 ≤ (kept 5).resends ∧ (kept 5).access = none := by
  decide +kernel
theorem witness_park_timer : owing.canon ∧ owing.erg.parked[0]? = some readAccess ∧ readAccess.issuer = .qanat 5 1 ∧
    (owing.chan 5 1).waitingOn.find? (fun w => w.1 == 77) = some (77, 4) ∧ (owing.chan 5 1).refused = [] ∧
    (owing.chan 5 1).waitingOn.filter (fun w => w.1 != 77) = [(78, 5)] :=
  ⟨canon_of (by decide +kernel), by decide +kernel, rfl, by decide +kernel, by decide +kernel, by decide +kernel⟩
theorem witness_bad_packet : fabricUp.receives 3 = true ∧ fabricUp.ident.coordLock = true ∧ opcKnown 0x20 = false ∧
    fabricUp.dropCounter { writePkt with hdr := { writePkt.hdr with rsv := 3 } } = some 4 ∧ fabricUp.cairn.queue.length < 32 := by
  decide +kernel
theorem witness_unlocked : let s := { fabricUp with ident := { fabricUp.ident with coordLock := false } }
    s.receives 3 = true ∧ s.ident.coordLock = false := by decide +kernel

/-! The reduction engine. -/

/-- Collective 6 of rank sets of four, in arrival mode or not. -/
def collective (arrival : Bool) (nbkt : BitVec 16) : CollEntry :=
  { cid := 6, kind := 0, fmt := 9, staged := false, nbkt := nbkt, ownerOnly := false, arrival := arrival, headroom := 0, rfirst := 0,
    rstep := 1, rcount := 4, sbase := 3, result := BitVec.ofNat 64 (4 * 2 ^ 44 + 0x100000), rhdr := BitVec.ofNat 64 (4 * 2 ^ 44 + 0x200000),
    tokCore0 := 0, tokBpc := 0, tokCtr := 0, frows := 1, frank := 1, gen := 5 }

/-- The module with that collective, ranks 2 and 3 in two modules. -/
def collUp (e : CollEntry) (m2 m3 : Nat) : State :=
  { fabricUp with
    erg := { fabricUp.erg with rank0 := [(0, 0x80000001), (2, BitVec.ofNat 32 (2 ^ 31 + m2)), (3, BitVec.ofNat 32 (2 ^ 31 + m3))] }
    coll := { fabricUp.coll with table := [(6, some e)] } }

/-- A contribution of channel 1 of core 5 to a bucket. -/
def contribution (b : Nat) : Contrib :=
  { id := { cid := 6, bucket := BitVec.ofNat 16 b, step := 11 }, words := [5], summary := none, epoch := 3, issuer := .qanat 5 1, tag := 77 }

/-- An admitted instance of a bucket in a phase. -/
def instAt (b : Nat) (ph : InstPhase) : Inst :=
  { id := { cid := 6, bucket := BitVec.ofNat 16 b, step := 11 }, phase := ph, attempt := false, q := -3, noScale := false, own := none,
    badEpoch := none, fault := none, inputs := [], arrived := [], rack := none, down := none, resent := false, kept := none, owed := [], upOwed := false,
    fwd := false, slots := 4, delivered := false, writes := [], tokenDue := false }

/-- A collective packet of module src to bucket b, packet k, with words. -/
def collPkt (opc src b k : Nat) (ws : List Data) : ErgPacket :=
  { hdr := { headOf src opc 2 ws.length (2 ^ 32 * 6 + 2 ^ 16 * b + 2 ^ 8 * k + 11) 0 0 with
      epoch := 3, plane := BitVec.ofNat 4 b }, payload := ws.map encodeWord }

/-- A META's first word: kind 0, a format, attempt, number of packets, checksum, step 11. -/
def metaOf (fmt att packets csum : Nat) : Data :=
  BitVec.ofNat 256 (2 ^ 80 * fmt + 2 ^ 73 * att + 2 ^ 104 * packets + 2 ^ 128 * csum + 2 ^ 192 * 11)
/-- Such a word of four packets. -/
def metaWord (fmt att : Nat) : Data := metaOf fmt att 4 0

/-- What takesColl asks. -/
def takesCollB (s : State) (p : Fin 16) (pkt : ErgPacket) (e : CollEntry) (i : Inst) (ws : List Data) : Bool :=
  let a := pkt.hdr.addr.toNat
  takesB s p pkt && carriesB pkt ws && decide (pkt.hdr.seq = (s.erg.rxOf pkt.hdr.src (pkt.hdr.addr.extractLsb' 32 16)).x)
    && decide ((s.erg.rxOf pkt.hdr.src (pkt.hdr.addr.extractLsb' 32 16)).received = []) && decide (s.collEntry i.id.cid = some e)
    && decide (s.instOf i.id = some i) && collShape e pkt.hdr && decide (i.id.cid.toNat = bitsOf a 32 16) && decide (i.id.bucket.toNat = bitsOf a 16 16)
    && decide (i.id.bucket.toNat < e.nbkt.toNat) && !s.job.fence && decide (s.stepOfBits (bitsOf a 0 8) = some i.id.step)
    && decide (pkt.hdr.epoch = s.job.epochFor i.id.step)

theorem takesColl_of {s : State} {p : Fin 16} {pkt : ErgPacket} {e : CollEntry} {i : Inst} {ws : List Data}
    (h : takesCollB s p pkt e i ws = true) : s.takesColl p pkt e i ws := by
  simp only [takesCollB, Bool.and_eq_true, decide_eq_true_eq, Bool.not_eq_true'] at h
  obtain ⟨⟨⟨⟨⟨⟨⟨⟨⟨⟨⟨⟨h0, h1⟩, h2⟩, h3⟩, h4⟩, h5⟩, hs⟩, h6⟩, h7⟩, h8⟩, h9⟩, h10⟩, h11⟩ := h
  exact ⟨takes_of h0, carries_of h1, h2, h3, h4, h5, hs, h6, h7, h8, h9, h10, h11⟩

/-- A bucket whose tree in this module's rack has this module as a parent. -/
def plain : CollEntry := collective false 4
/-- The module with an instance of it. -/
def withInst (i : Inst) : State := (collUp plain 2 64).putInst i
/-- An UP packet or META from a child reaches a gathering instance. -/
theorem witness_up (att : Bool) (opc : Nat) (ws : List Data)
    (h : opc = (if att then 0x11 else 0x10) ∧ ws = [1, 2] ∨ opc = 0x14 ∧ ws = [metaWord 9 (if att then 1 else 0)]) :
    let i := { instAt 1 .gather with attempt := att }
    (withInst i).takesColl 3 (collPkt opc 2 1 (if opc = 0x14 then 0 else 3) ws) plain i ws ∧
    (2 : BitVec 12) ∈ ((withInst i).topo plain 1).rackKids := by
  rcases h with ⟨rfl, rfl⟩ | ⟨rfl, rfl⟩ <;> cases att <;> exact ⟨takesColl_of (by decide +kernel), by decide +kernel⟩
theorem witness_up_meta (att : Bool) : let first := metaWord 9 (if att then 1 else 0)
    hfield first 84 2 = plain.kind.toNat ∧ hfield first 192 32 = 11 ∧ hfield first 80 4 = plain.fmt.toNat ∧
    hfield first 73 1 = (if att then 1 else 0) := by cases att <;> decide +kernel

/-- A DOWN packet or META from the parent reaches one that has sent. -/
theorem witness_down (opc : Nat) (ws : List Data) (h : opc = 0x12 ∧ ws = [1, 2] ∨ opc = 0x15 ∧ ws = [metaWord 9 0]) :
    let i := instAt 0 .sent
    (withInst i).takesColl 3 (collPkt opc 1 0 (if opc = 0x15 then 0 else 3) ws) plain i ws ∧
    ((withInst i).topo plain 0).parent = some 1 ∧ plain.ownerOnly = false := by
  rcases h with ⟨rfl, rfl⟩ | ⟨rfl, rfl⟩ <;> exact ⟨takesColl_of (by decide +kernel), by decide +kernel, by decide +kernel⟩
theorem witness_down_incomplete :
    ({ src := 1, pkts := spSet [] [] 3 ([1, 2].map encodeWord), header := none } : NodeInput).complete = false ∧
    ({ src := 1, pkts := [], header := some [encodeWord (metaWord 9 0)] } : NodeInput).complete = false := by decide +kernel
/-- The META of an empty result completes it; its checksum is the result's or not. -/
theorem witness_down_complete (csum : Nat) (h : csum = 0 ∨ csum = 1) : let i := instAt 0 .sent
    let s := withInst i
    let d : NodeInput := { src := 1, pkts := [], header := some [encodeWord (metaOf 9 0 0 csum)] }
    let b := d.bucket plain.kind (s.resultFmt plain) i.q (bucketSize * i.id.bucket.toNat) true
    s.takesColl 3 (collPkt 0x15 1 0 0 [metaOf 9 0 0 csum]) plain i [metaOf 9 0 0 csum] ∧ d.complete = true ∧
    (b.check = b.csum ↔ csum = 0) ∧ i.resent = false := by
  rcases h with rfl | rfl <;> exact ⟨takesColl_of (by decide +kernel), by decide +kernel, by decide +kernel, rfl⟩
/-- The same of a result that was asked for again. -/
theorem witness_down_again : let i := { instAt 0 .sent with resent := true }
    (withInst i).takesColl 3 (collPkt 0x15 1 0 0 [metaOf 9 0 0 1]) plain i [metaOf 9 0 0 1] ∧ i.resent = true :=
  ⟨takesColl_of (by decide +kernel), rfl⟩

/-- The collective with results to the owner only. -/
def owned : CollEntry := { collective false 8 with ownerOnly := true }
/-- The module with an instance of it. -/
def withOwned (i : Inst) : State := (collUp owned 2 64).putInst i
/-- The root's result reaches the owner, which has had the META of the tree; bucket 1 is owned here and rooted in module 64. -/
theorem witness_down_owner (opc : Nat) (ws : List Data) (h : opc = 0x12 ∧ ws = [1, 2] ∨ opc = 0x15 ∧ ws = [metaWord 9 0]) :
    let i := { instAt 1 .sent with fwd := true }
    let s := withOwned i
    s.takesColl 3 (collPkt opc 64 1 (if opc = 0x15 then 0 else 3) ws) owned i ws ∧ owned.ownerOnly = true ∧
    (s.topo owned 1).owner = s.ident.id ∧ (s.topo owned 1).root = 64 ∧ i.fwd = true := by
  rcases h with ⟨rfl, rfl⟩ | ⟨rfl, rfl⟩ <;>
    exact ⟨takesColl_of (by decide +kernel), by decide +kernel, by decide +kernel, by decide +kernel, rfl⟩
/-- The META of the tree reaches a member that is not the owner, the owner whose parent is the root, and an owner that is done. -/
theorem witness_down_tree :
    (let i := instAt 0 .sent
     let s := withOwned i
     s.takesColl 3 (collPkt 0x15 1 0 0 [metaWord 9 0]) owned i [metaWord 9 0] ∧ (s.topo owned 0).parent = some 1 ∧
     (s.topo owned 0).owner ≠ s.ident.id) ∧
    (∀ ph, ph = InstPhase.sent ∨ ph = .done → let i := instAt 1 ph
     let s := withOwned i
     s.takesColl 3 (collPkt 0x15 64 1 0 [metaOf 9 0 0 0]) owned i [metaOf 9 0 0 0] ∧ (s.topo owned 1).parent = some 64 ∧
     (s.topo owned 1).owner = s.ident.id ∧ hfield (metaOf 9 0 0 0) 104 9 = 0) := by
  refine ⟨⟨takesColl_of (by decide +kernel), by decide +kernel, by decide +kernel⟩, ?_⟩
  rintro _ (rfl | rfl) <;> exact ⟨takesColl_of (by decide +kernel), by decide +kernel, by decide +kernel, by decide +kernel⟩

theorem witness_back : let i := { instAt 1 .done with owed := [1, 2] }
    (withInst i).takesColl 3 (collPkt 0x16 2 1 0 []) plain i [] ∧ (2 : BitVec 12) ∈ i.owed := ⟨takesColl_of (by decide +kernel), by decide⟩
theorem witness_back_parent : let i := { instAt 0 .sent with upOwed := true }
    (withInst i).takesColl 3 (collPkt 0x16 1 0 0 []) plain i [] ∧ (1 : BitVec 12) ∉ i.owed ∧ ((withInst i).topo plain 0).parent = some 1 :=
  ⟨takesColl_of (by decide +kernel), by decide, by decide +kernel⟩
theorem witness_resend : let i := { instAt 1 .done with owed := [1, 2], kept := some ((withInst (instAt 1 .done)).keep plain (instAt 1 .done) (Bucket.empty 9 (-3))) }
    (withInst i).takesColl 3 (collPkt 0x17 2 1 0 []) plain i [] ∧ (2 : BitVec 12) ∈ i.owed := ⟨takesColl_of (by decide +kernel), by decide⟩
theorem witness_redo : let i := instAt 0 .sent
    (withInst i).takesColl 3 (collPkt 0x18 1 0 0 [0xFFFE]) plain i [0xFFFE] ∧ ((withInst i).topo plain 0).parent = some 1 ∧
    i.attempt = false ∧ i.phase ≠ .done := ⟨takesColl_of (by decide +kernel), by decide +kernel, by decide, by decide⟩

/-- Collective 6 in arrival mode, its bucket 4 rooted here. -/
def arriving : CollEntry := collective true 8
theorem witness_arrive (opc : Nat) (ws : List Data) (h : opc = 0x19 ∧ ws = [1, 2] ∨ opc = 0x1A ∧ ws = [metaWord 6 0]) :
    let i := instAt 4 .gather
    let s := (collUp arriving 64 1).putInst i
    s.takesColl 3 (collPkt opc 64 4 (if opc = 0x1A then 0 else 3) ws) arriving i ws ∧ arriving.arrival = true ∧
    (s.topo arriving 4).root = s.ident.id ∧ (64 : BitVec 12) ∈ (s.topo arriving 4).roots ∧ (∀ x ∈ i.arrived, x.src ≠ 64) := by
  rcases h with ⟨rfl, rfl⟩ | ⟨rfl, rfl⟩ <;>
    exact ⟨takesColl_of (by decide +kernel), by decide +kernel, by decide +kernel, by decide +kernel, by decide⟩
theorem witness_arrive_incomplete :
    ((modInput [] 64 fun n => { n with pkts := spSet [] n.pkts 3 ([1, 2].map encodeWord) }).find? fun n => n.src == 64 && n.complete) = none ∧
    ((modInput [] 64 fun n => { n with header := some [encodeWord (metaWord 6 0)] }).find? fun n => n.src == 64 && n.complete) = none := by
  decide +kernel
theorem witness_arrive_complete : let i := instAt 4 .gather
    let s := (collUp arriving 64 1).putInst i
    s.takesColl 3 (collPkt 0x1A 64 4 0 [metaOf 6 0 0 0]) arriving i [metaOf 6 0 0 0] ∧ (64 : BitVec 12) ∉ (s.topo arriving 4).rackKids ∧
    ((modInput [] 64 fun n => { n with header := some [encodeWord (metaOf 6 0 0 0)] }).find? fun n => n.src == 64 && n.complete).isSome :=
  ⟨takesColl_of (by decide +kernel), by decide +kernel, by decide +kernel⟩

/-! The engine's own events. -/

/-- The module with contributions to buckets 1 and 0 at the exchange port, channel 1 of core 5 waiting for the first. -/
def offering (i : Option Inst) : State :=
  let s := collUp plain 2 64
  let s := put { s with job := { s.job with xscale := BitVec.ofNat 64 (4 * 2 ^ 44 + 0x4000) } } 4 0x4000 (BitVec.ofNat 256 (2 ^ 128 * 0x10000))
  let s := { s with coll := { s.coll with contribs := [contribution 1, contribution 0] } }.setCore 5 { Core.reset with
    ch := Core.reset.ch.set 1 { Channel.reset with state := .active, phase := .writing, waitingOn := [(77, 4), (78, 5)] } }
  match i with
  | none => s
  | some i => s.putInst i
theorem witness_contribution (o : Option Inst) (h : o = none ∨ o = some (instAt 1 .gather) ∨ o = some (instAt 1 .sent)) : let s := offering o
    s.canon ∧ s.coll.contribs = contribution 1 :: [contribution 0] ∧ (contribution 1).issuer = .qanat 5 1 ∧ (s.chan 5 1).refused = [] ∧
    s.collEntry 6 = some plain ∧ s.instOf (contribution 1).id = o ∧ s.coll.known = [] ∧
    (({ s with coll := { s.coll with contribs := [contribution 0] } } : State).handleOk (BitVec.ofNat 64 (6 + 65536 * 1)) 1
      plain.entryFmt).1 = true := by
  rcases h with rfl | rfl | rfl <;>
    exact ⟨canon_of (by decide +kernel), by decide +kernel, rfl, by decide +kernel, by decide +kernel, by decide +kernel, by decide +kernel,
      by decide +kernel⟩

/-- An instance that the engine knows and has not admitted. -/
def known : Known := { id := (contribution 0).id, own := some (contribution 0) }
theorem witness_admit : let s := { collUp plain 2 64 with coll := { (collUp plain 2 64).coll with known := [known] } }
    s.coll.known.find? (fun k => !s.coll.heldBack k.id) = some known ∧ s.collEntry known.id.cid = some plain ∧
    plain.need ≤ s.coll.slotsFree ∧ s.coll.waiting = [] ∧ s.instOf known.id = none := by decide +kernel

/-- A META of a hall tree's child: its format is FP32's sum. -/
theorem witness_up_hall : let i := instAt 4 .gather
    let e := collective false 8
    let s := (collUp e 2 64).putInst i
    s.takesColl 3 (collPkt 0x14 64 4 0 [metaWord 10 0]) e i [metaWord 10 0] ∧ (64 : BitVec 12) ∈ (s.topo e 4).hallKids ∧
    (64 : BitVec 12) ∉ (s.topo e 4).rackKids ∧ e.arrival = false ∧ hfield (metaWord 10 0) 80 4 = 10 :=
  ⟨takesColl_of (by decide +kernel), by decide +kernel, by decide +kernel, rfl, by decide +kernel⟩

/-- A leaf with its own contribution. -/
def leaf : Inst := { instAt 0 .gather with own := some (contribution 0) }
theorem witness_leaf : (withInst leaf).instOf leaf.id = some leaf ∧ (withInst leaf).collEntry leaf.id.cid = some plain ∧
    leaf.phase = .gather ∧ leaf.rack = none ∧ leaf.own = some (contribution 0) ∧
    leaf.inputsOf plain plain.fmt.toNat ((withInst leaf).topo plain 0).rackKids = some [] ∧
    ((withInst leaf).topo plain 0).rackParent = some 1 := by decide +kernel
/-- A node of a bucket with the empty inputs of children. -/
def node (b : Nat) (kids : List (BitVec 12)) : Inst :=
  { instAt b .gather with
    own := some (contribution b)
    inputs := kids.map fun k => { src := k, pkts := [], header := some [encodeWord (metaOf 9 0 0 0)] } }
/-- With ranks 2 and 3 in modules 2 and 3, bucket 0 has a parent above this node, and bucket 1 its root here. -/
theorem witness_node :
    (let s := (collUp plain 2 3).putInst (node 0 [3])
     s.instOf (node 0 [3]).id = some (node 0 [3]) ∧ s.collEntry 6 = some plain ∧ (s.topo plain 0).rackParent = some 1 ∧
     (s.topo plain 0).rackKids = [3] ∧ ((node 0 [3]).inputsOf plain plain.fmt.toNat (s.topo plain 0).rackKids).isSome = true) ∧
    (let s := (collUp plain 2 3).putInst (node 1 [2, 3])
     s.instOf (node 1 [2, 3]).id = some (node 1 [2, 3]) ∧ s.collEntry 6 = some plain ∧ (s.topo plain 1).rackParent = none ∧
     (s.topo plain 1).roots.length ≤ 1 ∧ plain.staged = false ∧ (s.topo plain 1).rackKids = [2, 3] ∧
     ((node 1 [2, 3]).inputsOf plain plain.fmt.toNat (s.topo plain 1).rackKids).isSome = true) := by decide +kernel
theorem witness_bucket_timeout : (withInst (instAt 0 .sent)).instOf (instAt 0 .sent).id = some (instAt 0 .sent) ∧
    (withInst (instAt 0 .sent)).collEntry 6 = some plain ∧ (instAt 0 .sent).phase ≠ .done := by decide +kernel

/-! A link that enters Down, a packet given up with others waiting, a bucket ready in the cycle of its timeout. -/

/-- The link of port 3 has entered Down in this control cycle. -/
def falling : State :=
  { sending with cycle := some { CycleMarks.none with downs := [3] }, erg := { sending.erg with ports := sending.erg.ports.set 3 Port.reset } }
theorem witness_ack_down : let pkt : ErgPacket := { hdr := headOf 5 0x0A 1 0 (2 ^ 32 * 0xFFFF) 2 5, payload := [] }
    (falling.cycle.any fun k => k.downs.contains 3) = true ∧ falling.receives 3 = false ∧ falling.dropCounter pkt = none ∧
    falling.erg.quietBusy = false ∧ (falling.erg.txOf 5 0xFFFF).waiting = [] ∧
    (∀ r ∈ (falling.erg.txOf 5 0xFFFF).unacked, r.access = none) := by decide +kernel
/-- The last resend of packet 5 is behind it, and another packet waits for its place. -/
def givingUp : State :=
  { sending with erg := { sending.erg with tx := [{ dst := 5, sid := 0xFFFF, next := 9, unacked := [{ kept 5 with resends := 16 }], waiting := [kept 9] }] } }
theorem witness_resend_last : let x := givingUp.erg.txOf 5 0xFFFF
    givingUp.erg.quietBusy = false ∧ x.unacked.find? (fun r => r.pkt.hdr.seq == 5) = some { kept 5 with resends := 16 } ∧
    (if givingUp.erg.resendMax = 0 then 16 else givingUp.erg.resendMax.toNat) ≤ 16 ∧ (kept 5).access = none ∧ x.waiting ≠ [] ∧
    (x.unacked.filter fun r => r.pkt.hdr.seq != 5).length < 512 := by decide +kernel
theorem witness_timeout_ready : let i := instAt 0 .gather
    let s := { withInst i with cycle := some { CycleMarks.none with ready := [i.id] } }
    s.instOf i.id = some i ∧ (s.cycle.any fun k => k.ready.contains i.id) = true := by decide +kernel

end Sys2Proof.Tests
end

