-- ==== Sys2Proof/Tests/WitnessHost.lean ====
section
/-! SUPPORT. For every statement about the host channel, its queues, mailboxes and window a state and operands that meet its
hypotheses, for each of its clauses. -/

namespace Sys2Proof.Tests

set_option Elab.async false

open Sys2Proof.Machine

/-! Replies. -/

/-- The state after a command has been answered. -/
def answers (s : State) (c : Cmd) (st : BitVec 16) : State :=
  (((({ s with free := s.free + 1 } : State).cmdOutcome c st).replyTo c
    (cplEntry st (BitVec.ofNat 16 c.opc) c.seq 0 0 0 0) st).dropCmd c.id)

theorem answered_of (s : State) (c : Cmd) (st : BitVec 16) : s.answered (answers s c st) c st 0 0 := ⟨0, Nat.zero_le _, rfl⟩

/-- NOP_ECHO from a source. -/
def echo (src : CmdSrc) : Cmd := command src 0x0001 0 [(0, 0x77)]

/-- The module with queue 2 at a tail, with held entries. -/
def ringAt (tail : BitVec 16) (held : List HeldEntry) : State :=
  jobUp.modQueue 2 fun x => { x with cplTail := tail, held := held }

theorem witness_answer_ring : jobUp.answered (answers jobUp (echo (.queue 2)) stOk) (echo (.queue 2)) stOk 0 0 ∧
    ((ringAt 14 []).queue 2).held = [] ∧ (14 + 1) % 2 ^ ((ringAt 14 []).queue 2).cplSize.toNat.succ.succ.succ.succ ≠ 0 :=
  ⟨answered_of .., by decide +kernel, by decide +kernel⟩
theorem witness_answer_full : let x := (ringAt 15 []).queue 2
    (15 + 1) % 2 ^ (x.cplSize.toNat + 4) = x.cplHead.toNat ∧ x.state = .running ∧ x.enable = true := by decide +kernel
theorem witness_answer_held : let x := (ringAt 3 [{ entry := 5, irq := true }]).queue 2
    x.held ≠ [] ∧ x.state = .running ∧ x.enable = true := by decide +kernel
theorem witness_answer_mailbox (st : MailState) (o : Bool) :
    let c := { echo (.mailbox 4) with orphan := o }
    let s := jobUp.modMail 4 fun x => { x with state := st }
    s.answered (answers s c stOk) c stOk 0 0 ∧ (s.mailbox 4).state = st := ⟨answered_of .., by cases st <;> decide +kernel⟩

theorem witness_answer_masterless : jobUp.power.busMaster = true ∧
    ({ jobUp with power := { jobUp.power with busMaster := false } } : State).power.busMaster = false := by decide +kernel

/-! Queue registers. -/

theorem witness_doorbell : jobUp.linked = true ∧ 2 ^ ((jobUp.queue 2).cmdSize.toNat + 4) = 16 ∧ 2 ^ ((jobUp.queue 2).cplSize.toNat + 4) = 16 := by
  decide +kernel
theorem witness_head_makes_room : let x := (ringAt 15 [{ entry := 5, irq := true }]).queue 2
    (ringAt 15 [{ entry := 5, irq := true }]).linked = true ∧ x.held = { entry := 5, irq := true } :: [] ∧
    ((x.cplTail.toNat + 1) % 2 ^ (x.cplSize.toNat + 4) == 0) = true ∧ ((x.cplTail.toNat + 1) % 2 ^ (x.cplSize.toNat + 4) == 1) = false := by
  decide +kernel
theorem witness_enable : (jobUp.queue 1).enable = false ∧ (jobUp.queue 1).held = [] ∧ (jobUp.queue 2).enable = true ∧
    (1 : BitVec 32).getLsbD 0 = true := by decide +kernel
theorem witness_disable_idle : (jobUp.queue 2).enable = true ∧ (∀ c ∈ jobUp.host.cmds, c.src = .queue 2 → c.replied = true) :=
  ⟨by decide +kernel, fun _ h => absurd h List.not_mem_nil⟩
theorem witness_disable_busy : ∃ c ∈ (hand jobUp (echo (.queue 2))).host.cmds, c.src = .queue 2 ∧ c.replied = false :=
  ⟨_, List.mem_cons_self .., rfl, rfl⟩
theorem witness_qstep : (jobUp.queue 2).cmdHead = (jobUp.queue 2).cmdTail ∧ jobUp.job.committed.toNat < (12 : BitVec 32).toNat ∧
    (12 : BitVec 32).toNat ≤ jobUp.job.committed.toNat + 2 ∧ jobUp.job.committed.toNat + 2 < (13 : BitVec 32).toNat ∧
    (10 : BitVec 32).toNat ≤ jobUp.job.committed.toNat := by decide +kernel
theorem witness_qstep_busy : let s := jobUp.modQueue 2 fun x => { x with cmdTail := 1 }
    (s.queue 2).cmdHead ≠ (s.queue 2).cmdTail := by decide +kernel

/-! Fetch and delivery. -/

/-- A page of the window with its owner, at page 3 of region 4. -/
def pageOf (s : State) (owner : BitVec 2) (page : Nat) : State :=
  { s with host := { s.host with window := spSet WinEntry.reset s.host.window page { owner := owner, region := 4, ppn := 3 } } }

/-- A LAUNCH packet's first word. -/
def launchWord : Data := (packet 0x0201 0 []).extractLsb' 0 256

/-- Queue 2 with one packet at its last entry, its ring in a page of an owner. -/
def fetching (owner : BitVec 2) : State :=
  let s := jobUp.modQueue 2 fun x => { x with cmdHead := 15, cmdTail := 0, qstep := 12 }
  put (put (pageOf s owner 0) 4 (3 * 2 ^ 21 + 0x1000 + 64 * 15) launchWord) 4 (3 * 2 ^ 21 + 0x1000 + 64 * 15 + 32) 5

theorem witness_fetch : let s := fetching 1
    let off := (s.queue 2).cmdBase.toNat + 64 * (s.queue 2).cmdHead.toNat
    s.fetches 2 = true ∧ off / 2 ^ 21 < s.host.winPages ∧ (spGet WinEntry.reset s.host.window 0).owner = 1 ∧ off / 2 ^ 21 = 0 ∧
    s.mem.raw 4 (2 ^ 21 * 3 + off % 2 ^ 21) = encodeWord launchWord ∧ s.mem.raw 4 (2 ^ 21 * 3 + off % 2 ^ 21 + 32) = encodeWord 5 ∧
    cleanB launchWord = true ∧ cleanB 5 = true ∧ opcListed (launchWord.toNat % 65536) = true ∧ isStepped (launchWord.toNat % 65536) = true := by
  decide +kernel
theorem witness_fetch_refused : (fetching 2).fetches 2 = true ∧ (spGet WinEntry.reset (fetching 2).host.window 0).owner ≠ 1 := by
  decide +kernel

/-- A Sent mailbox of the host with an opcode. -/
def sentMail (m : Fin 16) (opc : BitVec 32) : State :=
  jobUp.modMail m fun x => { x with state := .sent, sender := 0x001, data := x.data.set 0 opc }

theorem witness_delivery (m : Fin 16) (h : m = 0 ∨ m = 7 ∨ m = 8 ∨ m = 15) : let s := sentMail m 0x0600
    (s.mailbox m).state = .sent ∧ (s.mailbox m).taken = false ∧ s.agentUp m ((s.mailbox m).agent m) = true ∧
    opcListed ((s.mailbox m).data[0].toNat % 65536) = true ∧ 0x0600 ≤ (s.mailbox m).data[0].toNat % 65536 := by
  rcases h with rfl | rfl | rfl | rfl <;> decide +kernel

/-! Mailboxes. -/

/-- Mailbox m in a state, of a sender, to a target. -/
def mailIn (m : Fin 16) (st : MailState) (sender : BitVec 12) (target : Byte) : State :=
  jobUp.modMail m fun x => { x with state := st, sender := sender, target := target }

theorem witness_claim : (mailIn 0 .free 0 0).agentUp 0 .host = true ∧ ((mailIn 0 .free 0 0).mailbox 0).state = .free ∧
    mailPermits 0 .host = true ∧ mailPermits 8 .rmc = false := by decide +kernel
theorem witness_go : let s := mailIn 0 .claimed 0x001 0
    s.agentUp 0 .host = true ∧ (s.mailbox 0).state = .claimed ∧ (s.mailbox 0).sender = agentCode .host ∧ s.mainOff = false := by
  decide +kernel
theorem witness_go_core : let s := mailIn 14 .claimed 0x001 3
    s.agentUp 14 .host = true ∧ (s.mailbox 14).state = .claimed ∧ (s.mailbox 14).sender = agentCode .host ∧
    (s.mailbox 14).target.toNat < s.coreCount ∧ s.mainOff = false := by decide +kernel
theorem witness_go_no_core : let s := mailIn 14 .claimed 0x001 255
    (s.mailbox 14).state = .claimed ∧ s.coreCount ≤ (s.mailbox 14).target.toNat := by decide +kernel

/-- A Claimed mailbox while main power is off. -/
def mailOff (m : Fin 16) (sender : BitVec 12) : State :=
  let s := mailIn m .claimed sender 3
  { s with power := { s.power with stage := .standby, mainGood := false } }

theorem witness_go_off : let s := mailOff 14 (agentCode .mgmt)
    s.agentUp 14 .mgmt = true ∧ (s.mailbox 14).state = .claimed ∧ (s.mailbox 14).sender = agentCode .mgmt ∧
    (s.mailbox 14).target.toNat < s.coreCount ∧ s.mainOff = true := by decide +kernel
theorem witness_go_off_host : let s := mailOff 9 (agentCode .notar)
    s.agentUp 9 .notar = true ∧ (s.mailbox 9).state = .claimed ∧ (s.mailbox 9).sender = agentCode .notar ∧
    (s.mailbox 9).receiver 9 = 0x001 ∧ s.mainOff = true := by decide +kernel
theorem witness_release : let s := mailIn 0 .acked 0x001 0
    (s.mailbox 0).state ≠ .free ∧ (s.mailbox 0).sender = agentCode .host ∧ ¬((s.mailbox 0).state ≠ .free ∧ (s.mailbox 0).sender = agentCode .rmc) := by
  decide +kernel
theorem witness_code : let s := mailIn 8 .sent 0x001 0
    s.agentUp 8 ((s.mailbox 8).agent 8) = true ∧ (s.mailbox 8).state = .sent ∧ (s.mailbox 8).receiver 8 = agentCode ((s.mailbox 8).agent 8) ∧
    ¬((s.mailbox 8).receiver 8 = agentCode .rmc) := by decide +kernel

/-! The window: pages of each owner, the last word of a page. -/

/-- The module with page 1 of the window of an owner, its last word holding 0x1122. -/
def windowOf (owner : BitVec 2) : State := put (pageOf up owner 1) 4 (4 * 2 ^ 21 - 32) 0x1122

theorem witness_window_read (o : BitVec 2) (h : o = 1 ∨ o = 2 ∨ o = 3) : let s := windowOf o
    let off := 2 * 2 ^ 21 - 16
    canonB s = true ∧ s.ident.state ≠ 0x1 ∧ s.windowHit off 16 = true ∧ off % 32 + 16 ≤ 32 ∧
    (spGet WinEntry.reset s.host.window (off / 2 ^ 21)).owner = o ∧ s.mem.raw 4 (2 ^ 21 * 3 + off % 2 ^ 21) = encodeWord 0x1122 ∧
    cleanB 0x1122 = true := by
  rcases h with rfl | rfl | rfl <;> decide +kernel
theorem witness_window_write (o : BitVec 2) (h : o = 1 ∨ o = 2 ∨ o = 3) : let s := windowOf o
    let off := 2 * 2 ^ 21 - 32
    canonB s = true ∧ s.windowHit off (List.replicate 32 (7 : Byte)).length = true ∧ off % 32 + 32 ≤ 32 ∧
    (spGet WinEntry.reset s.host.window (off / 2 ^ 21)).owner = o := by
  rcases h with rfl | rfl | rfl <;> decide +kernel
theorem witness_window_narrow : let s := windowOf 1
    let off := 2 * 2 ^ 21 - 1
    canonB s = true ∧ s.windowHit off (List.replicate 1 (7 : Byte)).length = true ∧ off % 32 + 1 ≤ 32 ∧ 1 < 32 ∧
    (spGet WinEntry.reset s.host.window (off / 2 ^ 21)).owner = 1 ∧ (spGet WinEntry.reset s.host.window (off / 2 ^ 21)).region.toNat < 5 := by
  decide +kernel

/-! Information, pages, the window's owners. -/

theorem witness_echo : let c := echo (.queue 2)
    Ready (hand jobUp c) (.queue 2) (go jobUp c) fun s c => [(c.rsvBad [(0, 128)], stBadParam), s.stateCheck c] :=
  ready_of (by decide +kernel)

/-- MODULE_INFO from a source. -/
def infoC (src : CmdSrc) : Cmd := command src 0x0010 0 [(0, 0x4000)]

theorem witness_info (src : CmdSrc) (h : src = .queue 2 ∨ src = .mailbox 4) :
    Ready (hand jobUp (infoC src)) src (go jobUp (infoC src)) fun s c => [(c.rsvBad [(0, 64)], stBadParam), s.stateCheck c] := by
  rcases h with rfl | rfl <;> exact ready_of (by decide +kernel)

/-- PAGE_MAP of the last two job pages, or its unmapping. -/
def mapC (on : Nat) : Cmd := command (.queue 2) 0x0102 5 [(0, 2 ^ 19 - 2), (19, 2), (39, on), (40, if on = 1 then 4 else 0), (44, if on = 1 then 9 else 0)]

theorem witness_page_map (n : Nat) (h : n = 0 ∨ n = 1) :
    Ready (hand jobUp (mapC n)) (.queue 2) (go jobUp (mapC n)) checksPageMap ∧ (go jobUp (mapC n)).par 39 1 = n := by
  rcases h with rfl | rfl <;> exact ⟨ready_of (by decide +kernel), by decide +kernel⟩

/-- PAGE_RESIDENT of one page. -/
def residentC : Cmd := command (.queue 2) 0x0103 5 [(0, 3), (19, 1), (39, 1)]
theorem witness_page_resident : let s := { jobUp with erg := { jobUp.erg with pages := [(3, 65)] } }
    Ready (hand s residentC) (.queue 2) (go s residentC) checksPageResident := ready_of (by decide +kernel)

/-- WINDOW_OWN of two pages, given new places. -/
def windowC : Cmd := command (.queue 2) 0x0104 0 [(0, 3), (15, 2), (31, 1), (33, 1), (34, 4), (38, 9)]
theorem witness_window_own : Ready (hand jobUp windowC) (.queue 2) (go jobUp windowC) checksWindow := ready_of (by decide +kernel)

/-! Streams. -/

/-- A core whose stream F has halted and whose stream B waits, both halves of F and one of B Loaded. -/
def twoStreams : Core :=
  let h : Half := { state := .loaded, tag := 5, lines := [(0, 5)] }
  { Core.reset with
    f := { Stream.reset with h0 := h, state := .halted }
    b := { Stream.reset with h1 := h, pc := 9, state := .waiting } }

/-- LAUNCH of stream F of core 0 at word 77 with tag 5. -/
def launchC : Cmd := command (.queue 2) 0x0201 5 [(0, 1), (224, 1), (228, 77), (240, 5)]
theorem witness_launch : Ready (hand (jobUp.setCore 0 twoStreams) launchC) (.queue 2) (go jobUp launchC) checksLaunch :=
  ready_of (by decide +kernel)

/-- CORE_HALT of streams F and B of core 0. -/
def haltC : Cmd := command (.queue 2) 0x0203 5 [(0, 1), (224, 3)]
theorem witness_core_halt :
    Ready (hand (jobUp.setCore 0 twoStreams) haltC) (.queue 2) (go jobUp haltC) fun s c =>
      [(c.rsvBad [(0, 224), (224, 3)], stBadParam), s.maskBad (c.par 0 224), s.stateCheck c] := ready_of (by decide +kernel)

/-- IMEM_LOAD of one word from region 4 into half 1 of stream B of cores 0 and 1. -/
def imemC (mask : Nat) : Cmd := command (.queue 2) 0x0200 5 [(0, mask), (224, 1), (226, 1), (227, 0x77), (243, 4), (262, 4 * 2 ^ 44 + 64)]
theorem witness_imem_load : let s := put (hand (jobUp.setCore 0 twoStreams) (imemC 3)) 4 64 0x99
    Ready s (.queue 2) (go jobUp (imemC 3)) checksImem ∧ (go jobUp (imemC 3)).unused ∧ (go jobUp (imemC 3)).par 243 13 ≤ 4 ∧
    s.jobStands ∧ s.holds (BitVec.ofNat 64 ((go jobUp (imemC 3)).par 262 64)) 0x99 :=
  ⟨ready_of (by decide +kernel), by unfold Cmd.unused; decide +kernel, by decide +kernel, by unfold State.jobStands; decide +kernel,
    holds_of (by decide +kernel)⟩

/-- The same command with its word read, for core 0 alone. -/
def imemRead : Cmd := { go jobUp (imemC 1) with phase := 1, got := [(0, { data := 0x99, poison := false })] }
/-- Core 0 with its half Loading. -/
def halfLoading : State :=
  hand (jobUp.setCore 0 { twoStreams with b := { twoStreams.b with h1 := { twoStreams.b.h1 with state := .loading } } }) imemRead
theorem witness_half_loaded : let s := halfLoading
    canonB s = true ∧ s.host.cmds = [imemRead] ∧ imemRead.opc = 0x0200 ∧ imemRead.started = true ∧ imemRead.phase = 1 ∧
    imemRead.replied = false ∧ imemRead.bad = false ∧ imemRead.par 0 224 = 2 ^ s.logOf 0 ∧ imemRead.accA = 0 ∧ imemRead.par 256 1 = 0 ∧
    s.coreOn 0 = true ∧ (((s.core 0).stream (streamOf (imemRead.par 224 2))).halfOf true).state = .loading := by decide +kernel

theorem witness_launch_complete : let c := go jobUp launchC
    let s := hand (jobUp.setCore 0 twoStreams) c
    canonB s = true ∧ s.host.cmds = [c] ∧ c.src = .queue 2 ∧ c.opc = 0x0201 ∧ c.started = true ∧ c.replied = false ∧ c.bad = false ∧
    (∀ y ∈ s.namedStreams c, ((s.core y.1).stream y.2).state = .halted ∧ (s.core y.1).streamBusy y.2 = false) := by decide +kernel

/-! Vector 12 as a refusal raises it, and the end of a LAUNCH. -/

/-- The window with vector 12 masked or not. -/
def windowVector (masked : Bool) : State :=
  let s := windowOf 2
  { s with host := { s.host with msix := spSet MsixEntry.reset [] 12 { MsixEntry.reset with masked := masked } } }
theorem witness_vector (b : Bool) : let s := windowVector b
    canonB s = true ∧ s.windowHit (2 * 2 ^ 21 - 16) 16 = true ∧ (spGet WinEntry.reset s.host.window 1).owner = 2 ∧ s.signals 12 = !b := by
  cases b <;> decide +kernel

/-- Core 0 with the streams of a LAUNCH of F and B halted for causes. -/
def endedWith (f b : Byte) : State :=
  let h := fun (x : Byte) => { Stream.reset with state := .halted, haltCause := x, launch := some 7 }
  jobUp.setCore 0 { Core.reset with f := h f, b := h b }
/-- LAUNCH of streams F and B of core 0. -/
def launchBoth : Cmd := command (.queue 2) 0x0201 5 [(0, 1), (224, 3)]
theorem witness_launch_result :
    (∀ y ∈ (endedWith 1 0).namedStreams launchBoth, (((endedWith 1 0).core y.1).stream y.2).launch = some launchBoth.id ∧
      (((endedWith 1 0).core y.1).stream y.2).haltCause.toNat ≤ 1) ∧
    (endedWith 1 0).physCores (launchBoth.par 0 224) = [0] ∧
    (∀ y ∈ (endedWith 9 5).namedStreams launchBoth, (((endedWith 9 5).core y.1).stream y.2).launch = some launchBoth.id) ∧
    ((0, StreamId.b) ∈ (endedWith 9 5).namedStreams launchBoth ∧ (((endedWith 9 5).core 0).stream .b).haltCause.toNat = 5) ∧
    (∀ z ∈ (endedWith 9 5).namedStreams launchBoth, 1 < (((endedWith 9 5).core z.1).stream z.2).haltCause.toNat →
      5 < (((endedWith 9 5).core z.1).stream z.2).haltCause.toNat ∨
        (5 = (((endedWith 9 5).core z.1).stream z.2).haltCause.toNat ∧ 0 ≤ z.1)) := by decide +kernel

end Sys2Proof.Tests
end

