-- ==== Sys2Proof/Tests/WitnessWork.lean ====
section
/-! SUPPORT. For every statement about Qanat, memory commands, the job and its steps a state and operands that meet its hypotheses,
for each of its clauses. -/

namespace Sys2Proof.Tests

set_option Elab.async false

open Sys2Proof.Machine

/-- No stream of any core is under way, on what a state lists. -/
def idleCoresB (s : State) : Bool := s.cores.all fun x => !x.2.streamBusy .f && !x.2.streamBusy .b && !x.2.streamBusy .u

theorem idle_of {s : State} (h : idleCoresB s = true) : ∀ p k, (s.core p).streamBusy k = false := by
  intro p
  refine core_all s (fun x => ∀ k, x.streamBusy k = false) (fun k => by cases k <;> decide +kernel) (fun x hx k => ?_) p
  have := List.all_eq_true.mp h x hx
  simp only [Bool.and_eq_true, Bool.not_eq_true'] at this
  cases k
  · exact this.1.1
  · exact this.1.2
  · exact this.2

/-! Qanat. -/

/-- A descriptor with fields by their first bit of the 512. -/
def qdesc (fs : List (Nat × Nat)) : QDesc :=
  let x := (fs.map fun p => 2 ^ p.1 * p.2).sum
  { w0 := encodeWord (BitVec.ofNat 256 (x % 2 ^ 256)), w1 := encodeWord (BitVec.ofNat 256 (x / 2 ^ 256)), adjust := none, stream := .f,
    step := 11, launch := none, ctx := { l := 0, k := 0, lcols := 0, tid := 0 }, earliest := 0 }

/-- One word from the scratchpad to region 4. -/
def outDesc : QDesc := qdesc [(0, 0x40), (64, 4 * 2 ^ 44 + 0x80), (442, 1), (444, 0x1F), (449, 0x1F), (224, 31), (408, 32), (424, 32)]

/-- One word from region 4 to the scratchpad, with tokens on reading and on completion. -/
def inDesc : QDesc :=
  qdesc [(64, 0x40), (0, 4 * 2 ^ 44 + 0x80), (440, 1), (444, 0x1F), (449, 0x1F), (224, 31), (408, 32), (424, 32), (480, 1), (481, 9),
    (486, 1), (487, 3)]

/-- Channel 1 of core 5 with a head. -/
def channel (d : QDesc) (ph : HeadPhase) : Channel := { Channel.reset with queue := [d], state := .active, phase := ph }
/-- The module with channel 1 of core 5. -/
def qanat (c : Channel) : State := withCore 5 { Core.reset with ch := Core.reset.ch.set 1 c }

/-- What every clause about a channel's head asks. -/
def headB (s : State) (d : QDesc) : Bool :=
  canonB s && s.coresRun && s.coreOn 5 && (s.chan 5 1).state == .active && decide ((s.chan 5 1).queue.head? = some d)
    && d.fields.dst.kind != 2 && (s.core 5).remote.isEmpty

theorem witness_qanat_start : headB (qanat (channel outDesc .waiting)) outDesc = true ∧ outDesc.poisoned = false ∧
    ((qanat (channel outDesc .waiting)).descOk outDesc.fields outDesc.ctx).1 = true ∧ outDesc.fields.src.kind = 0 := by decide +kernel
theorem witness_qanat_poisoned : let d := { outDesc with w0 := poisonWord }
    d.poisoned = true ∧ ((qanat (channel d .waiting)).chan 5 1).phase = .waiting := by decide +kernel
theorem witness_qanat_refused : let d := qdesc [(444, 0x1F)]
    headB (qanat (channel d .waiting)) d = true ∧ d.poisoned = false ∧ ((qanat (channel d .waiting)).descOk d.fields d.ctx).1 = false := by
  decide +kernel

/-- The head of channel 1 with its word read. -/
def wordRead : Channel := { channel inDesc .reading with fetched := [(4 * 2 ^ 44 + 0x80, { data := 0xABCDEF, poison := false })] }

theorem witness_qanat_read : let s := qanat wordRead
    let x := s.chan 5 1
    let f := inDesc.fields
    headB s inDesc = true ∧ x.phase = .reading ∧ x.waitingOn = [] ∧ x.refused = [] ∧ x.moved = 0 ∧ f.rows = 1 ∧ f.converts = false ∧
    f.plane = 0 ∧ f.src.kind = 1 ∧ f.dst.kind = 0 ∧ f.n0 * qBits f.src.fmt = 256 ∧ compBytes f.src.fmt f.n0 = 0 ∧ f.rtokEn = true ∧
    inDesc.earliest ≤ (s.core 5).cycle ∧ { inDesc with earliest := 5 }.earliest > (s.core 5).cycle ∧
    gotAt x.fetched (f.src.step (f.rowAddr f.src 0) 0).toNat = { data := 0xABCDEF, poison := false } := by decide +kernel
theorem witness_qanat_retire : let s := qanat { channel inDesc .writing with headFlags := 4, queue := [inDesc, outDesc] }
    headB s inDesc = true ∧ (s.chan 5 1).phase = .writing ∧ (s.chan 5 1).waitingOn = [] ∧ (s.chan 5 1).refused = [] ∧
    inDesc.fields.ctokEn = true ∧ s.physOf (if inDesc.fields.cremote then inDesc.fields.ccore else s.logOf 5) = some 5 ∧
    (s.chan 5 1).headFlags ≠ 0 := by decide +kernel

/-- STREAM_RESUME of channel 1 of core 5 in a mode. -/
def resumeC (m : Nat) : Cmd := command (.queue 2) 0x0202 5 [(0, 5), (8, 1), (10, m)]
/-- The module with that channel in a state, two descriptors queued. -/
def paused (st : ChanState) (m : Nat) : State :=
  hand (qanat { channel inDesc .reading with state := st, queue := [inDesc, outDesc] }) (resumeC m)

theorem witness_resume (m : Nat) (st : ChanState) (h : (m = 0 ∨ m = 1 ∨ m = 2) ∧ (st = .paged ∨ st = .fault ∨ st = .active)) :
    Ready (paused st m) (.queue 2) (go jobUp (resumeC m)) checksResume ∧ (paused st m).physOf ((go jobUp (resumeC m)).par 0 8) = some 5 ∧
    ((paused st m).chan 5 1).state = st := by
  rcases h with ⟨rfl | rfl | rfl, rfl | rfl | rfl⟩ <;> exact ⟨ready_of (by decide +kernel), by decide +kernel, by decide +kernel⟩
theorem witness_resume_3 : let s := paused .paged 3
    canonB s = true ∧ (s.nextCmd (.queue 2)).isSome = true ∧ s.physOf ((go jobUp (resumeC 3)).par 0 8) = some 5 ∧
    (go jobUp (resumeC 3)).par 10 2 = 3 := by decide +kernel

/-! Memory. -/

/-- A command on which no work has been done. -/
theorem unused_go (s : State) (src : CmdSrc) (o g : Nat) (ps : List (Nat × Nat)) : (go s (command src o g ps)).unused :=
  ⟨rfl, rfl, rfl, rfl, rfl, rfl, rfl, rfl⟩

/-- MEM_FILL of the word 0x40 of region 4. -/
def fillC : Cmd := command (.queue 2) 0x0101 5 [(0, 4 * 2 ^ 44 + 0x40), (64, 32), (104, 0x11223344)]
theorem witness_mem_fill : let s := hand jobUp fillC
    let c := go jobUp fillC
    Ready s (.queue 2) c checksFill ∧ c.unused ∧ s.jobStands ∧ c.par 64 40 = 32 ∧ s.dramWord (BitVec.ofNat 64 (c.par 0 64)) true ∧
    cleanData (BitVec.ofNat 256 (packBits 32 (List.replicate 8 (c.par 104 32)))) :=
  ⟨ready_of (by decide +kernel), unused_go .., by unfold State.jobStands; decide +kernel, by decide +kernel, dram_of (by decide +kernel),
    clean_of (by decide +kernel)⟩

/-- MEM_COPY of a word of region 4 to region 2. -/
def copyC : Cmd := command (.queue 2) 0x0100 5 [(0, 4 * 2 ^ 44 + 0x60), (64, 2 * 2 ^ 44 + 0x40), (128, 32)]
theorem witness_mem_copy : let s := put (hand jobUp copyC) 4 0x60 9
    let c := go jobUp copyC
    Ready s (.queue 2) c checksCopy ∧ c.unused ∧ s.jobStands ∧ c.par 128 40 = 32 ∧ s.holds (BitVec.ofNat 64 (c.par 0 64)) 9 ∧
    s.dramWord (BitVec.ofNat 64 (c.par 64 64)) true :=
  ⟨ready_of (by decide +kernel), unused_go .., by unfold State.jobStands; decide +kernel, by decide +kernel, holds_of (by decide +kernel),
    dram_of (by decide +kernel)⟩

/-- CHECKPOINT of a word of region 4 into region 2. -/
def checkpointC : Cmd := command (.queue 2) 0x0405 5 [(0, 4 * 2 ^ 44 + 0x60), (64, 2 * 2 ^ 44 + 0x40), (128, 32), (168, 10)]
/-- A checkpoint's header word. -/
def imageHead (sum : Nat) : Data := BitVec.ofNat 256 (9 + 2 ^ 32 * 10 + 2 ^ 64 * 5 + 2 ^ 80 * 32 + 2 ^ 128 * sum)
theorem witness_checkpoint : let s := put (hand jobUp checkpointC) 4 0x60 9
    let c := go jobUp checkpointC
    let b := BitVec.ofNat 64 (c.par 64 64)
    (Ready s (.queue 2) c fun s c =>
      [(c.rsvBad [(0, 64), (64, 64), (128, 40), (168, 32)], stBadParam)] ++ s.genCheck c ++
        [(moveBad s c (BitVec.ofNat 64 (c.par 0 64)) (BitVec.ofNat 64 (c.par 64 64)), stBadParam), s.stateCheck c]) ∧
    c.unused ∧ c.par 128 40 = 32 ∧ s.holds (BitVec.ofNat 64 (c.par 0 64)) 9 ∧ s.dramWord b true ∧ s.dramWord (adrAdd b 32) true ∧
    cleanData (imageHead 9) :=
  ⟨ready_of (by decide +kernel), unused_go .., by decide +kernel, holds_of (by decide +kernel), dram_of (by decide +kernel),
    dram_of (by decide +kernel), clean_of (by decide +kernel)⟩

/-- RESTORE of that image, with or without `SET`. -/
def restoreC (set : Nat) : Cmd :=
  command (.queue 2) 0x0406 5 [(0, 2 * 2 ^ 44 + 0x40), (64, 4 * 2 ^ 44 + 0x60), (128, 32), (168, 10), (200, set)]
/-- The module with an image of a checksum. -/
def imaged (set sum : Nat) : State :=
  put (put (hand { jobUp with job := { jobUp.job with begun := 10 } } (restoreC set)) 2 0x40 (imageHead sum)) 2 0x60 9
theorem witness_restore (set sum : Nat) (h : (set = 0 ∨ set = 1) ∧ (sum = 9 ∨ sum = 8)) : let s := imaged set sum
    let c := go jobUp (restoreC set)
    let b := BitVec.ofNat 64 (c.par 64 64)
    (Ready s (.queue 2) c fun s c =>
      [(c.rsvBad [(0, 64), (64, 64), (128, 40), (168, 32), (200, 1)], stBadParam)] ++ s.genCheck c ++
        [(moveBad s c (BitVec.ofNat 64 (c.par 64 64)) (BitVec.ofNat 64 (c.par 0 64)), stBadParam), s.stateCheck c]) ∧
    c.unused ∧ s.holds (BitVec.ofNat 64 (c.par 0 64)) (imageHead sum) ∧ s.holds (adrAdd (BitVec.ofNat 64 (c.par 0 64)) 32) 9 ∧
    s.dramWord b true ∧ s.coll.waiting = [] ∧ bitsOf (imageHead sum).toNat 0 32 = s.job.jobId.toNat ∧
    bitsOf (imageHead sum).toNat 32 32 = c.par 168 32 ∧ bitsOf (imageHead sum).toNat 80 40 = 32 ∧ s.job.begun = s.job.committed ∧
    bitsOf (imageHead sum).toNat 128 61 = sum := by
  rcases h with ⟨rfl | rfl, rfl | rfl⟩ <;>
    exact ⟨ready_of (by decide +kernel), unused_go .., holds_of (by decide +kernel), holds_of (by decide +kernel),
      dram_of (by decide +kernel), by decide +kernel, by decide +kernel, by decide +kernel, by decide +kernel, by decide +kernel,
      by decide +kernel⟩

/-! A job's opening and its end. -/

/-- Region 4. -/
def r4 : Nat := 4 * 2 ^ 44

/-- A context block. -/
def context : Nat :=
  ([(0, 77), (32, 1), (48, 3), (64, 4), (80, 55), (96, 20), (128, r4 + 0x400), (192, r4 + 0x1000), (256, 2), (288, 100), (320, 6),
    (384, r4 + 0x2000), (448, 16), (512, r4 + 0x3000)].map fun p => 2 ^ p.1 * p.2).sum + 2 ^ 768 * 0xFEED
/-- Word i of it. -/
def ctxWord (i : Nat) : Data := BitVec.ofNat 256 (context / 2 ^ (256 * i))
/-- A rank table of three ranks, this module's entry as given. -/
def rankWord (own : Nat) : Data := BitVec.ofNat 256 (2 ^ 31 + 5 + 2 ^ 32 * own + 2 ^ 64 * (2 ^ 31 + 6))
/-- JOB_OPEN. -/
def openC : Cmd := command (.queue 2) 0x0400 5 [(0, r4 + 0x40)]
/-- The module with the context block and the rank table. -/
def opening (own : Nat) : State :=
  put (put (put (put (put (hand up openC) 4 0x40 (ctxWord 0)) 4 0x60 (ctxWord 1)) 4 0x80 (ctxWord 2)) 4 0xA0 (ctxWord 3)) 4 0x400 (rankWord own)

theorem witness_job_open (own : Nat) (h : own = 2 ^ 31 ∨ own = 0 ∨ own = 2 ^ 31 + 1) : let s := opening own
    let c := go up openC
    let a := BitVec.ofNat 64 (c.par 0 64)
    let x := packBits 256 [(ctxWord 0).toNat, (ctxWord 1).toNat, (ctxWord 2).toNat, (ctxWord 3).toNat]
    Ready s (.queue 2) c checksOpen ∧ s.holds a (ctxWord 0) ∧ s.holds (adrAdd a 32) (ctxWord 1) ∧
    s.holds (adrAdd (adrAdd a 32) 32) (ctxWord 2) ∧ s.holds (adrAdd (adrAdd (adrAdd a 32) 32) 32) (ctxWord 3) ∧
    s.dramWord (adrAdd a 96) true ∧ ctxBad s x = false ∧ bitsOf x 48 13 ≤ 8 ∧ s.holds (BitVec.ofNat 64 (bitsOf x 128 64)) (rankWord own) ∧
    bitsOf (rankWord own).toNat (32 * bitsOf x 32 12) 32 = own ∧ s.ident.id.toNat = 0 := by
  rcases h with rfl | rfl | rfl <;>
    exact ⟨ready_of (by decide +kernel), holds_of (by decide +kernel), holds_of (by decide +kernel), holds_of (by decide +kernel),
      holds_of (by decide +kernel), dram_of (by decide +kernel), by decide +kernel, by decide +kernel, holds_of (by decide +kernel),
      by decide +kernel, by decide +kernel⟩

/-- A core with a stream that waits. -/
def waiter : Core := { Core.reset with b := { Stream.reset with pc := 4, state := .waiting, waitCount := 3, step := 11 } }
/-- JOB_CLOSE. -/
def closeC : Cmd := command (.queue 2) 0x0401 5 []
theorem witness_job_close : let s := hand (jobUp.setCore 3 waiter) closeC
    let c := go jobUp closeC
    Ready s (.queue 2) c checksClose ∧ (s.keepCmd c).host.cmds = [c] ∧ s.silent.replay = none ∧
    (∀ p k, (s.core p).streamBusy k = false) ∧ s.upPlanes = 0 ∧ (∀ x ∈ s.erg.tx, x.unacked = []) :=
  ⟨ready_of (by decide +kernel), by decide +kernel, by decide +kernel, idle_of (by decide +kernel), by decide +kernel,
    fun _ h => absurd h List.not_mem_nil⟩

/-- JOB_CLOSE waiting for the links to be quiet, and at its scrub. -/
def closing (ph pr : Nat) : Cmd := { go jobUp closeC with phase := ph, progress := BitVec.ofNat 8 pr }
theorem witness_teardown : (hand jobUp (closing 3 2)).quietWaiter = some (closing 3 2) ∧ (closing 3 2).opc = 0x0401 := by decide +kernel
theorem witness_scrub_done : let s := hand ({ jobUp with erg := { jobUp.erg with pages := [(0, BitVec.ofNat 32 (1 + 4 * 4 + 64 * 9))] } }) (closing 5 4)
    canonB s = true ∧ (∀ d ∈ s.host.cmds, d.bad = false) ∧
    s.host.cmds.find? (fun c => c.started && c.opc == 0x0401 && c.phase == 5) = some (closing 5 4) ∧ (closing 5 4).replied = false ∧
    bitsOf (s.pageEntry 0).toNat 0 1 = 1 ∧ bitsOf (s.pageEntry 0).toNat 2 4 ≤ 4 := by decide +kernel

/-! Steps. -/

/-- MODE_SET for step 12. -/
def modeC : Cmd := command (.queue 2) 0x0402 5 [(0, 12), (32, 9), (40, 1), (41, 1), (42, 1), (43, 99)]
theorem witness_mode_set : Ready (hand jobUp modeC) (.queue 2) (go jobUp modeC) checksMode := ready_of (by decide +kernel)

/-- STEP_COMMIT of a step with `OP` 0 or 1. -/
def stepC (n op : Nat) : Cmd := command (.queue 2) 0x0403 5 [(0, n), (32, op)]
theorem witness_close_request (n : Nat) (h : n = 11 ∨ n = 12 ∨ n = 13 ∨ n = 10) : let s := hand jobUp (stepC n 0)
    Ready s (.queue 2) (go jobUp (stepC n 0)) checksStep ∧ (go jobUp (stepC n 0)).par 0 32 = n ∧ s.job.committed.toNat = 10 ∧
    (spGet StepInfo.reset s.job.steps n).asked = false := by
  rcases h with rfl | rfl | rfl | rfl <;> exact ⟨ready_of (by decide +kernel), by decide +kernel, by decide +kernel, by decide +kernel⟩

/-- Step 11 about to close, with its record so far. -/
def stepAt (i : StepInfo) : State :=
  { jobUp with
    job := { jobUp.job with closing := [{ step := 11, src := .queue 2, seq := 0x55, sent := false, tags := [] }], steps := [(11, i)] }
    silent := { jobUp.silent with layers := 0 } }
theorem witness_step_close (i : StepInfo) (h : i = { StepInfo.reset with asked := true } ∨
      i = { StepInfo.reset with asked := true, flags := flagSat, nbad := 3 } ∨ i = { StepInfo.reset with asked := true, hung := true }) :
    (stepAt i).job.closing.find? (fun x => x.step == 11) = some { step := 11, src := .queue 2, seq := 0x55, sent := false, tags := [] } ∧
    (stepAt i).stepDone 11 = true ∧ (stepAt i).silent.fpLayers = 0 ∧ (stepAt i).silent.replay = none := by
  rcases h with rfl | rfl | rfl <;> decide +kernel

/-- Step 11 reported, a change of mode pending for it or not. -/
def reported (n : Nat) (pend ok : Bool) : State :=
  hand { jobUp with
    job := { jobUp.job with
      steps := [(11, { StepInfo.reset with asked := true, reported := true, committable := ok })], jbase := 100, jcount := 2,
      pendValid := pend, pendStep := 11, pendEpoch := 7, pendTrunk := some 9 }
    erg := { jobUp.erg with pages := [(100, 65), (102, 129)] } } (stepC n 1)
theorem witness_step_commit (n : Nat) (pend ok : Bool) (h : n = 11 ∨ n = 12) : let s := reported n pend ok
    let c := go jobUp (stepC n 1)
    Ready s (.queue 2) c checksStep ∧ c.par 32 1 = 1 ∧ s.job.nscale = 0 ∧ s.coll.waiting = [] ∧ s.silent.replay = none ∧
    (BitVec.ofNat 32 (c.par 0 32) = s.job.committed + 1 ↔ n = 11) ∧ (spGet StepInfo.reset s.job.steps 11).committable = ok ∧
    s.job.pendValid = pend := by
  rcases h with rfl | rfl <;> cases pend <;> cases ok <;>
    exact ⟨ready_of (by decide +kernel), by decide +kernel, by decide +kernel, by decide +kernel, by decide +kernel, by decide +kernel,
      by decide +kernel, by decide +kernel⟩

/-- STEP_ABORT of a step with a phase. -/
def abortC (n ph : Nat) : Cmd := command (.queue 2) 0x0404 5 [(0, n), (32, ph)]
theorem witness_step_abort (n : Nat) (h : n = 11 ∨ n = 12) : let s := hand (jobUp.setCore 3 waiter) (abortC n 0)
    let c := go jobUp (abortC n 0)
    Ready s (.queue 2) c checksStep ∧ (s.keepCmd c).host.cmds = [c] ∧ s.silent.replay = none ∧
    (∀ p k, (s.core p).streamBusy k = false) ∧ s.upPlanes = 0 ∧ (∀ x ∈ s.erg.tx, x.unacked = [] ∧ x.waiting = []) := by
  rcases h with rfl | rfl <;>
    exact ⟨ready_of (by decide +kernel), by decide +kernel, by decide +kernel, idle_of (by decide +kernel), by decide +kernel,
      fun _ h => absurd h List.not_mem_nil⟩
theorem witness_fence_clear : Ready (hand jobUp (abortC 11 1)) (.queue 2) (go jobUp (abortC 11 1)) checksStep :=
  ready_of (by decide +kernel)

/-! Collective commands. -/

/-- COLL_SETUP of collective 6, of a kind and row count. -/
def setupC (kind rows : Nat) : Cmd :=
  command (.queue 2) 0x0300 5 [(0, 6), (16, kind), (18, 9), (23, 4), (44, 0), (56, 1), (68, 4), (81, 3), (102, r4 + 0x100000),
    (166, r4 + 0x200000), (259, rows)]
theorem witness_coll_setup : Ready (hand jobUp (setupC 0 1)) (.queue 2) (go jobUp (setupC 0 1)) checksColl := ready_of (by decide +kernel)

/-- An entry of the collective table. -/
def someEntry : CollEntry :=
  { cid := 6, kind := 2, fmt := 9, staged := false, nbkt := 4, ownerOnly := false, arrival := false, headroom := 0, rfirst := 0, rstep := 1,
    rcount := 4, sbase := 3, result := BitVec.ofNat 64 (r4 + 0x100000), rhdr := BitVec.ofNat 64 (r4 + 0x200000), tokCore0 := 0, tokBpc := 0,
    tokCtr := 0, frows := 1, frank := 1, gen := 5 }
/-- EXCHANGE of bucket 0. -/
def exchangeC : Cmd := command (.queue 2) 0x0301 5 [(0, 6), (16, 0), (32, 1), (48, r4 + 0x40)]
/-- A bucket's words. -/
def bucketWord (i : Nat) : Data := BitVec.ofNat 256 (i + 7)
/-- The module with collective 6 and a bucket in region 4. -/
def exchanging : State :=
  let s := { hand jobUp exchangeC with
    coll := { jobUp.coll with table := [(6, some someEntry)] }, job := { jobUp.job with xscale := BitVec.ofNat 64 (r4 + 0x4000) } }
  put ((List.range someEntry.exchangeWords).foldl (fun s i => put s 4 (0x40 + 32 * i) (bucketWord i)) s) 4 0x4000
    (BitVec.ofNat 256 (2 ^ 96 * 0x10000))
theorem witness_exchange : let s := exchanging
    let c := go jobUp exchangeC
    Ready s (.queue 2) c checksExchange ∧ c.unused ∧ s.jobStands ∧ c.par 32 16 = 1 ∧ s.collEntry (BitVec.ofNat 16 (c.par 0 16)) = some someEntry ∧
    someEntry.kind ≠ 1 ∧ someEntry.fmt ≠ 11 ∧ 0 < someEntry.exchangeWords ∧
    (∀ i, i < someEntry.exchangeWords → s.holds (adrAdd (BitVec.ofNat 64 (c.par 48 64)) (32 * i : Nat)) (bucketWord i)) :=
  ⟨ready_of (by decide +kernel), unused_go .., by unfold State.jobStands; decide +kernel, by decide +kernel, by decide +kernel, by decide,
    by decide, by decide +kernel,
    all_hold (by decide +kernel)⟩

/-- SCALE_SET of bucket 2 to 0xFFFE. -/
def scaleC : Cmd := command (.queue 2) 0x0302 5 [(0, 6), (16, 2), (32, 1), (48, 0xFFFE)]
/-- The module with collective 6 and its scale table. -/
def scaling : State :=
  put { hand jobUp scaleC with
    coll := { jobUp.coll with table := [(6, some someEntry)] }, job := { jobUp.job with xscale := BitVec.ofNat 64 (r4 + 0x400) } }
    4 0x400 (BitVec.ofNat 256 (2 ^ 256 - 3))
theorem witness_scale_set : let s := scaling
    let c := go jobUp scaleC
    let z := adr s.job.xscale 0 48 + 4 * (someEntry.sbase.toNat + c.par 16 16)
    let w := BitVec.ofNat 64 (2 ^ 48 * adr s.job.xscale 48 16 + z / 32 * 32)
    Ready s (.queue 2) c checksScale ∧ c.par 32 16 = 1 ∧ s.collEntry (BitVec.ofNat 16 (c.par 0 16)) = some someEntry ∧ z % 4 = 0 ∧
    z < 2 ^ 48 ∧ s.holds w (BitVec.ofNat 256 (2 ^ 256 - 3)) ∧ s.dramWord w true :=
  ⟨ready_of (by decide +kernel), by decide +kernel, by decide +kernel, by decide +kernel, by decide +kernel, holds_of (by decide +kernel),
    dram_of (by decide +kernel)⟩

/-! A discarded head with flags. -/

theorem witness_resume_flags (m : Nat) (h : m = 1 ∨ m = 2) :
    let s := hand (qanat { channel inDesc .reading with state := .paged, queue := [inDesc, outDesc], headFlags := 4 }) (resumeC m)
    Ready s (.queue 2) (go jobUp (resumeC m)) checksResume ∧ (s.chan 5 1).queue = inDesc :: [outDesc] ∧ (s.chan 5 1).headFlags ≠ 0 := by
  rcases h with rfl | rfl <;> exact ⟨ready_of (by decide +kernel), by decide +kernel, by decide +kernel⟩

end Sys2Proof.Tests
end

