-- ==== Sys2Proof/Tests/WitnessRuns.lean ====
section
/-! SUPPORT. For every statement about routes, timeouts, diagnosis, firmware and Cairn a state and operands that meet its hypotheses, for
each of its clauses. -/

namespace Sys2Proof.Tests

set_option Elab.async false

open Sys2Proof.Machine

/-! Routes and timeouts. -/

/-- RANK_REMAP of rank 2. -/
def remapC : Cmd := command (.queue 2) 0x0407 5 [(0, 2), (12, 0x345), (24, 1)]
/-- The module with an active bank. -/
def withBank (b : Bool) : State := { jobUp with erg := { jobUp.erg with active := b, rank1 := [(2, 7)], route0 := [(3, 9)], bounced := [(4, 1)] } }

theorem witness_rank_remap (b : Bool) : Ready (hand (withBank b) remapC) (.queue 2) (go jobUp remapC) fun s c =>
    [(c.rsvBad [(0, 12), (12, 12), (24, 1)], stBadParam)] ++ s.genCheck c ++
      [(decide (s.job.nranks.toNat ≤ c.par 0 12) || c.par 0 12 == s.job.rank.toNat, stBadParam), s.stateCheck c,
       (s.erg.swapPending, stBusy)] := by
  cases b <;> exact ready_of (by decide +kernel)

/-- ROUTE_SWAP, copying back or not. -/
def swapC (copy : Nat) : Cmd := command (.queue 2) 0x0408 5 [(0, copy)]
theorem witness_route_swap (b : Bool) (n : Nat) (h : n = 0 ∨ n = 1) : let s := hand (withBank b) (swapC n)
    let c := go jobUp (swapC n)
    (Ready s (.queue 2) c fun s c => [(c.rsvBad [(0, 1)], stBadParam), s.stateCheck c, (s.erg.swapPending, stBusy)]) ∧
    (s.keepCmd c).host.cmds = [c] ∧ s.upPlanes = 0 ∧ (∀ x ∈ s.erg.tx, x.unacked = [] ∧ x.waiting = []) ∧ s.erg.parked = [] := by
  rcases h with rfl | rfl <;> cases b <;>
    exact ⟨ready_of (by decide +kernel), by decide +kernel, by decide +kernel, fun _ h => absurd h List.not_mem_nil, by decide +kernel⟩

/-- The module with probes out. -/
def probing (l : List Cmd) : State :=
  { jobUp with erg := { jobUp.erg with quietBusy := true, probes := 5, swapPending := true }, host := { jobUp.host with cmds := l } }
/-- A ROUTE_SWAP that waits for them, and a STEP_ABORT of a mailbox. -/
def swapWaits : Cmd := { go jobUp (swapC 1) with phase := 1 }
def abortWaits : Cmd := { go jobUp (command (.mailbox 8) 0x0404 5 [(0, 11), (32, 1)]) with phase := 6, progress := 3, sender := 0x200 }

theorem witness_quiet_timeout : (probing []).erg.quietBusy = true ∧ (probing []).isQuiet = false ∧ (probing []).quietWaiter = none := by
  decide +kernel
theorem witness_quiet_timeout_waiter (c : Cmd) (h : c = swapWaits ∨ c = abortWaits) : (probing [c]).isQuiet = false ∧
    (probing [c]).quietWaiter = some c ∧ (∀ d ∈ (probing [c]).host.cmds, d.bad = false) ∧ c.replied = false ∧ c.opc ≠ 0x0401 := by
  rcases h with rfl | rfl <;> decide +kernel

/-- A LAUNCH in hand, and a command outside the accessing ones. -/
def launched : Cmd := { go jobUp (command (.queue 2) 0x0201 5 [(0, 1), (224, 1), (228, 77), (240, 5)]) with phase := 1 }
def waitingCmd : Cmd := { go jobUp (command (.queue 2) 0x0402 5 []) with phase := 1 }
theorem witness_timeout_launch : let s := hand (jobUp.setCore 0 { Core.reset with f := { Stream.reset with state := .waiting, launch := some 7 } }) launched
    (s.host.cmds.filter fun c => c.src == .queue 2 && c.started && !c.replied)[0]? = some launched ∧ s.quietWaiter = none ∧
    launched.opc = 0x0201 := by decide +kernel
theorem witness_timeout : let s := hand jobUp waitingCmd
    (s.host.cmds.filter fun c => c.src == .queue 2 && c.started && !c.replied)[0]? = some waitingCmd ∧ s.quietWaiter = none ∧
    (∀ o ∈ [0x0100, 0x0101, 0x0200, 0x0201, 0x0301, 0x0400, 0x0405, 0x0406, 0x0501, 0x0601], waitingCmd.opc ≠ o) := by decide +kernel

/-- COMPUTE_RESET. -/
def resetC : Cmd := command (.queue 2) 0x0504 5 []
/-- The module with core 3 in use and two mailboxes of core controllers. -/
def inUse (s : State) : State :=
  hand (((s.setCore 3 { waiter with spad := [(4, 5)] }).modMail 15 fun m => { m with state := .sent }).modMail 3 fun m =>
    { m with state := .sent, sender := 0x104 }) resetC
theorem witness_compute_reset (b : Bool) : let s := inUse (if b then jobUp else up)
    let c := go jobUp resetC
    (Ready s (.queue 2) c fun s c =>
      [(c.rsvBad [], stBadParam), s.stateCheck c, (!(s.ident.state == 0x2 || s.ident.state == 0x3), stBadState)]) ∧
    (s.keepCmd c).host.cmds = [c] ∧ (∀ p k, (s.core p).streamBusy k = false) ∧ (s.mailbox 15).state ≠ .free ∧
    (s.mailbox 3).state ≠ .free ∧ 0x100 ≤ (s.mailbox 3).sender.toNat := by
  cases b <;> exact ⟨ready_of (by decide +kernel), by decide +kernel, idle_of (by decide +kernel), by decide +kernel, by decide +kernel,
    by decide +kernel⟩

/-! Replay, dump, margins, patrol, link pattern. -/

/-- REPLAY of step 11 against a reference. -/
def replayC : Cmd := command (.queue 2) 0x0501 5 [(0, 11), (64, r4 + 0x40), (128, 5)]
/-- A reference of two layers for step n. -/
def refWord (n i : Nat) : Data := if i = 0 then BitVec.ofNat 256 (n + 2 ^ 96 * 2) else BitVec.ofNat 256 (i + 70)
/-- The module with that reference. -/
def replaying (n : Nat) : State :=
  (List.range 3).foldl (fun s i => put s 4 (0x40 + 32 * i) (refWord n i))
    (hand { jobUp with silent := { jobUp.silent with layers := 2 }, job := { jobUp.job with begun := 10 } } replayC)
theorem witness_replay (n : Nat) (h : n = 11 ∨ n = 12) : let s := replaying n
    let c := go jobUp replayC
    Ready s (.queue 2) c checksReplay ∧ c.unused ∧ s.silent.fpLayers = 2 ∧
    (∀ i, i < 3 → s.holds (adrAdd (BitVec.ofNat 64 (c.par 64 64)) (32 * i : Nat)) (refWord n i)) ∧
    (bitsOf (refWord n 0).toNat 0 32 = c.par 0 32 ↔ n = 11) ∧ bitsOf (refWord n 0).toNat 96 13 = 2 := by
  rcases h with rfl | rfl <;>
    exact ⟨ready_of (by decide +kernel), unused_go .., by decide +kernel, all_hold (by decide +kernel), by decide +kernel, by decide +kernel⟩

/-- REPLAY_DISARM. -/
def disarmC : Cmd := command (.queue 2) 0x0501 5 [(32, 1)]
/-- An armed replay. -/
def armed : Replay := { cmd := { replayC with replied := true }, step := 11, ref := 5, kmask := 3 }
theorem witness_disarm (o : Option Replay) (h : o = none ∨ o = some armed) :
    let s := hand { jobUp with silent := { jobUp.silent with replay := o, replayStep := 11 } } disarmC
    (Ready s (.queue 2) (go jobUp disarmC) fun s c =>
      [(c.rsvBad [(0, 32), (32, 1), (64, 64), (128, 4)], stBadParam)] ++ s.genCheck c ++ [s.stateCheck c]) ∧ s.silent.replay = o ∧
    armed.cmd.src = .queue 2 ∧ s.power.busMaster = true ∧ (s.queue 2).held = [] ∧ (s.queue 2).cplFull = false := by
  rcases h with rfl | rfl <;>
    exact ⟨ready_of (by decide +kernel), by decide +kernel, by decide +kernel, by decide +kernel, by decide +kernel, by decide +kernel⟩

/-- DUMP_SAMPLE of cores 0 and 2. -/
def dumpC : Cmd := command (.queue 2) 0x0505 0 [(0, r4 + 0x1000), (64, 3), (69, 5)]
theorem witness_dump : Ready (hand jobUp dumpC) (.queue 2) (go jobUp dumpC) checksDump := ready_of (by decide +kernel)
/-- That dump under way. -/
def dumping : DumpRun := { cmd := 7, dst := BitVec.ofNat 64 (r4 + 0x1000), slice := 3, cores := [0, 2], unread := [5], poisoned := [6143] }
theorem witness_dump_timeout : let s := hand { jobUp with silent := { jobUp.silent with dump := some dumping } } { dumpC with started := true, phase := 1 }
    s.canon ∧ s.silent.dump = some dumping ∧ s.cmdOf dumping.cmd = some { dumpC with started := true, phase := 1 } ∧ dumpC.opc = 0x0505 ∧
    dumpC.replied = false ∧ 2 ∈ dumping.cores ∧ 2048 * 2 + 128 * 15 + 127 ∉ dumping.unread ∧
    s.dramWord (adrAdd dumping.dst (65536 * 2 + 4096 * 15 + 32 * 127 : Nat)) true :=
  ⟨canon_of (by decide +kernel), by decide +kernel, by decide +kernel, by decide +kernel, by decide +kernel, by decide, by decide,
    dram_of (by decide +kernel)⟩

/-- MARGIN_SET of core 57. -/
def marginC (st ck : Nat) : Cmd := command (.queue 2) 0x0502 0 [(0, 57), (8, st), (11, ck)]
/-- The module with die 1's rail at an offset that its core asks for. -/
def railAt (v : Nat) : State :=
  { jobUp with silent := { jobUp.silent with
      voff := jobUp.silent.voff.set 1 (BitVec.ofNat 3 v), margins := if v = 0 then [] else [(57, BitVec.ofNat 5 v)] } }
theorem witness_margin (v st : Nat) (h : (v, st) = (0, 0) ∨ (v, st) = (0, 4) ∨ (v, st) = (3, 1)) :
    (Ready (hand (railAt v) (marginC st 2)) (.queue 2) (go jobUp (marginC st 2)) fun s c =>
      [(c.rsvBad [(0, 8), (8, 3), (11, 2)] || 4 < c.par 8 3, stBadParam),
        (decide (c.par 0 8 < 224) && !s.coreOn (c.par 0 8), stEngineFused), (decide (224 ≤ c.par 0 8), stBadParam), s.stateCheck c]) ∧
    (railAt v).silent.voff[1] = BitVec.ofNat 3 v ∧ (railAt v).silent.settled[1] = true := by
  simp only [Prod.mk.injEq] at h
  rcases h with ⟨rfl, rfl⟩ | ⟨rfl, rfl⟩ | ⟨rfl, rfl⟩ <;> exact ⟨ready_of (by decide +kernel), by decide +kernel, by decide +kernel⟩
/-- MARGIN_SET waiting for its rail. -/
def marginWaits (ph : Nat) : Cmd := { marginC 1 2 with started := true, phase := ph, progress := 1 }
theorem witness_settled (ph : Nat) (h : ph = 1 ∨ ph = 2) :
    let s := hand { railAt 1 with silent := { (railAt 1).silent with settled := jobUp.silent.settled.set 1 false } } (marginWaits ph)
    s.silent.settled[1] = false ∧ (∀ d ∈ s.host.cmds, d.bad = false) ∧ (marginWaits ph).replied = false ∧
    s.host.cmds.find? (fun c => c.opc == 0x0502 && c.started && c.par 0 8 / 56 == 1) = some (marginWaits ph) ∧ (marginWaits ph).par 0 8 < 224 := by
  rcases h with rfl | rfl <;> decide +kernel

/-- DIAG_PATROL of one test on cores 0 and 2. -/
def patrolC : Cmd := command (.queue 2) 0x0500 0 [(0, 5), (224, 9), (240, 2)]
/-- A patrol image of item 9 stands. -/
def patrolling : State := { jobUp with silent := { jobUp.silent with patrol := some { cmd := 7, cores := [0, 2], test := 9, reps := 2 } } }
theorem witness_patrol_end : let s := hand patrolling { patrolC with started := true, phase := 1 }
    s.canon ∧ s.silent.patrol = some { cmd := 7, cores := [0, 2], test := 9, reps := 2 } ∧
    s.cmdOf 7 = some { patrolC with started := true, phase := 1 } ∧ (∀ d ∈ s.host.cmds, d.bad = false) :=
  ⟨canon_of (by decide +kernel), by decide +kernel, by decide +kernel, by decide +kernel⟩
theorem witness_patrol : let s := hand jobUp patrolC
    canonB s = true ∧ (s.nextCmd (.queue 2)).map (fun d => { d with started := true, limit := s.timeLimit d }) = some (go jobUp patrolC) ∧
    patrolC.opc = 0x0500 := by decide +kernel

/-- LINK_PATTERN of link class k on index n, 2²² bits, whose check of lanes is as given. -/
def patternC (k n w : Nat) : Cmd := command (.queue 2) 0x0503 0 [(0, k), (4, n), (12, w), (22, 7)]
theorem witness_pattern : let s := hand up (patternC 0 3 2)
    Ready s (.queue 2) (go up (patternC 0 3 2)) checksPattern := ready_of (by decide +kernel)
theorem witness_pattern_end (errors : BitVec 32) (lanes : Byte) (h : (errors, lanes) = (0, 0) ∨ (errors, lanes) = (2, 1)) :
    let c := { patternC 3 0 0 with started := true, phase := 1 }
    let s := hand { up with
      power := { up.power with endpoint := .starting }
      silent := { up.silent with lpClass := 3, lpCmd := some 7, lpState := 1, lpLock := true } } c
    s.silent.lpCmd = some 7 ∧ s.cmdOf 7 = some c ∧ c.replied = false ∧ (∀ d ∈ s.host.cmds, d.bad = false) ∧
    (errors = 0 ∧ lanes = 0 ↔ errors = 0) := by
  simp only [Prod.mk.injEq] at h
  rcases h with ⟨rfl, rfl⟩ | ⟨rfl, rfl⟩ <;> decide +kernel

/-! Firmware. -/

/-- FW_UPDATE through Notar's mailbox. -/
def fwC (op kind : Nat) (ps : List (Nat × Nat)) : Cmd := { command (.mailbox 7) 0x0601 0 ([(0, op), (3, kind)] ++ ps) with sender := 0x001 }
/-- The module with that command in the mailbox. -/
def fwAt (s : State) (c : Cmd) : State := hand (s.modMail 7 fun x => { x with state := .sent, sender := 0x001 }) c
/-- An image's header word. -/
def imageHeader (kind : Nat) : Data := BitVec.ofNat 256 (0x57465841 + 2 ^ 32 + 2 ^ 48 * kind + 2 ^ 128 * 64)
/-- The words of an image of kind 2. -/
def imageWord (i : Nat) : Data := if i = 0 then imageHeader 2 else BitVec.ofNat 256 i
/-- The module with an image in region 4. -/
def staging (c : Cmd) : State := (List.range 12).foldl (fun s i => put s 4 (0x40 + 32 * i) (imageWord i)) (fwAt jobUp c)

theorem witness_fw_stage : let c := go jobUp (fwC 0 2 [(64, r4 + 0x40)])
    let s := staging (fwC 0 2 [(64, r4 + 0x40)])
    (Ready s (.mailbox 7) c fun s c => checksFw s c ++ [(!s.power.mainGood, stBadState)]) ∧ c.unused ∧ c.fwOp = 0 ∧
    (let head := putWords [] 0 ((List.range 10).map imageWord)
     (if imageLenOk head then imageLen head / 32 else 0) = 2) ∧
    (∀ i, i < 12 → s.holds (adrAdd (BitVec.ofNat 64 (c.par 64 64)) (32 * i : Nat)) (imageWord i)) :=
  ⟨ready_of (by decide +kernel), ⟨rfl, rfl, rfl, rfl, rfl, rfl, rfl, rfl⟩, by decide +kernel, by decide +kernel, all_hold (by decide +kernel)⟩
theorem witness_fw_chunk (n : Nat) (h : n = 0x20 ∨ n = 2 ^ 23 + 320) : let c := fwC 1 2 [(64, n), (128, 77)]
    Ready (fwAt jobUp c) (.mailbox 7) (go jobUp c) fun s c =>
      (c.par 64 24 % 32 != 0 || decide (2 ^ 23 + 320 < c.par 64 24), stBadParam) :: checksFw s c := by
  rcases h with rfl | rfl <;> exact ready_of (by decide +kernel)
theorem witness_fw_verify : let c := fwC 2 1 []
    Ready (fwAt { jobUp with notar := jobUp.notar.setSlot true 1 { state := .verified, words := [(0, imageHeader 1)] } } c) (.mailbox 7)
      (go jobUp c) checksFw := ready_of (by decide +kernel)
theorem witness_fw_activate (k : Nat) (x : SlotState) (h : (k = 1 ∨ k = 2 ∨ k = 3) ∧ (x = .written ∨ x = .verified)) :
    let s := fwAt { up with notar := up.notar.setSlot true k { state := x, words := [(0, imageHeader k)] } } (fwC 3 k [])
    Ready s (.mailbox 7) (go up (fwC 3 k [])) checksFw ∧ (s.notar.slot (!s.notar.active k) k).state = x ∧ s.ident.state = 0x2 ∧
    s.silent.patrol = none := by
  rcases h with ⟨rfl | rfl | rfl, rfl | rfl⟩ <;>
    exact ⟨ready_of (by decide +kernel), by decide +kernel, by decide +kernel, by decide +kernel⟩
theorem witness_fw_burn :
    let s := fwAt { up with notar := up.notar.setSlot false 3 { state := .verified, words := [(0, BitVec.ofNat 256 (2 ^ 96 * 80))] } } (fwC 4 3 [])
    Ready s (.mailbox 7) (go up (fwC 4 3 [])) fun s c => checksFw s c ++
      [(decide (imageField (s.notar.slot (s.notar.active c.fwKind) c.fwKind).words 12 1 ≤ (s.notar.svn c.fwKind).toNat), stBadState)] :=
  ready_of (by decide +kernel)

/-! Cairn. -/

/-- A submission. -/
def submission (type : BitVec 16) : CairnEntry := { type := type, origin := 1, payload := [1, 2, 3] }
/-- The module with a submission and how many of its type the second has had. -/
def submitting (type : BitVec 16) (n : Nat) : State :=
  { jobUp with cairn := { jobUp.cairn with queue := [submission type, submission 1], second := [(type.toNat, n)], unsealed := 62 } }
theorem witness_record (type : BitVec 16) (n : Nat) (h : (type, n) = (0x20, 63) ∨ (type, n) = (0x20, 64) ∨ (type, n) = (1, 64)) :
    let s := submitting type n
    s.power.stage ≠ .auxOff ∧ s.cairn.sealing = none ∧ s.cairn.queue = submission type :: [submission 1] ∧
    spGet 0 s.cairn.second type.toNat = n ∧ (unlimited type = true ↔ type = 1) := by
  simp only [Prod.mk.injEq] at h
  rcases h with ⟨rfl, rfl⟩ | ⟨rfl, rfl⟩ | ⟨rfl, rfl⟩ <;> decide +kernel
theorem witness_seal : (submitting 0x20 3).cairn.unsealed ≠ 0 ∧
    ({ (submitting 0x20 3).cairn with sealing := some { body := 77 } } : Cairn).sealing = some { body := 77 } := by decide +kernel
theorem witness_second_end (l : Sparse Nat) (h : l = [] ∨ l = [(3, 4)]) :
    ({ (submitting 0x20 3).cairn with suppressed := l } : Cairn).suppressed = l ∧ (submitting 0x20 3).cairn.queue.length < 32 := by
  rcases h with rfl | rfl <;> decide +kernel

/-- ATTEST with either key, and CAIRN_READ. -/
def attestC (k : Nat) : Cmd := command (.queue 2) 0x0600 0 [(0, 99), (256, 0x12340000), (320, k)]
def cairnC (ps : List (Nat × Nat)) : Cmd := command (.queue 2) 0x0602 0 ps
theorem witness_attest (k : Nat) (h : k = 0 ∨ k = 1) :
    Ready (hand { jobUp with notar := { jobUp.notar with m2 := some 5 } } (attestC k)) (.queue 2) (go jobUp (attestC k)) fun s c =>
      [(c.rsvBad [(0, 256), (256, 64), (320, 1)] || c.fromRmc, stBadParam), s.stateCheck c,
        (c.par 320 1 == 1 && s.notar.m2.isNone, stBadState)] := by
  rcases h with rfl | rfl <;> exact ready_of (by decide +kernel)
/-- The module with three records. -/
def threeRecords : State := { jobUp with cairn := { jobUp.cairn with next := 3 } }
theorem witness_cairn_read (a : Nat) (h : a = 0 ∨ a = 2) : let c := cairnC [(64, a), (128, 4096), (192, 0x1000000)]
    Ready (hand threeRecords c) (.queue 2) (go jobUp c) fun s c =>
      [(c.rsvBad readFields || c.fromRmc || c.par 128 13 == 0 || 4096 < c.par 128 13 || decide (s.cairn.next.toNat ≤ c.par 64 64),
        stBadParam), s.stateCheck c] := by
  rcases h with rfl | rfl <;> exact ready_of (by decide +kernel)
theorem witness_cairn_status : Ready (hand threeRecords (cairnC [(0, 1)])) (.queue 2) (go jobUp (cairnC [(0, 1)])) fun s c =>
    [(c.rsvBad readFields, stBadParam), s.stateCheck c] := ready_of (by decide +kernel)

/-! Commands that share a control cycle with others, and what ends them there. -/

/-- A control cycle that commands share. -/
def shared (s : State) : State := { s with cycle := some CycleMarks.none }
theorem witness_route_swap_shared : let s := shared (hand (withBank true) (swapC 1))
    Ready s (.queue 2) (go jobUp (swapC 1)) (fun s c => [(c.rsvBad [(0, 1)], stBadParam)] ++ s.genCheck c ++ [s.stateCheck c]) ∧
    s.cycle ≠ none := ⟨ready_of (by decide +kernel), by decide +kernel⟩
/-- A step closes in the control cycle of its REPLAY_DISARM. -/
theorem witness_disarm_closes :
    let s := hand { jobUp with
      silent := { jobUp.silent with replay := some armed, replayStep := 11 }, cycle := some { CycleMarks.none with closed := [11] } } disarmC
    (Ready s (.queue 2) (go jobUp disarmC) fun s c =>
      [(c.rsvBad [(0, 32), (32, 1), (64, 64), (128, 4)], stBadParam)] ++ s.genCheck c ++ [s.stateCheck c]) ∧ s.closesNow armed.step = true :=
  ⟨ready_of (by decide +kernel), by decide +kernel⟩
/-- A second LINK_PATTERN while one runs. -/
theorem witness_pattern_busy : let s := hand { up with silent := { up.silent with lpState := 1 } } (patternC 0 3 2)
    canonB s = true ∧ s.nextCmd (.queue 2) = some (patternC 0 3 2) ∧
    firstFail (checksPattern (s.keepCmd (go up (patternC 0 3 2))) (go up (patternC 0 3 2))) ≠ none := by decide +kernel

/-- Activations and burns that a check ends, and a burn of a version not above the fused one. -/
theorem witness_fw_checked (op : Nat) (h : op = 3 ∨ op = 4) : let s := fwAt up (fwC op 5 [])
    canonB s = true ∧ (s.nextCmd (.mailbox 7)).map (fun d => { d with started := true, limit := s.timeLimit d }) = some (go up (fwC op 5 [])) ∧
    (firstFail (checksFw (s.keepCmd (go up (fwC op 5 []))) (go up (fwC op 5 [])))).isSome = true := by
  rcases h with rfl | rfl <;> decide +kernel
theorem witness_fw_burn_low :
    let s := fwAt { up with notar := up.notar.setSlot false 3 { state := .verified, words := [(0, imageHeader 3)] } } (fwC 4 3 [])
    firstFail (checksFw (s.keepCmd (go up (fwC 4 3 []))) (go up (fwC 4 3 []))) = none ∧
    imageField (s.notar.slot (s.notar.active 3) 3).words 12 1 ≤ (s.notar.svn 3).toNat := by decide +kernel
theorem witness_fw_activate_job :
    let s := fwAt { jobUp with notar := jobUp.notar.setSlot true 1 { state := .verified, words := [(0, imageHeader 1)] } } (fwC 3 1 [])
    Ready s (.mailbox 7) (go jobUp (fwC 3 1 [])) checksFw ∧ s.ident.state ≠ 0x0 ∧ s.ident.state ≠ 0x2 :=
  ⟨ready_of (by decide +kernel), by decide +kernel, by decide +kernel⟩

/-- Records submitted in a shared control cycle: one of origin 1 stands, and one of origin 0 comes. -/
theorem witness_second_end_shared :
    let s : State := { jobUp with
      cairn := { jobUp.cairn with queue := [submission 1, submission 2], suppressed := [(3, 4)] }, cycle := some { CycleMarks.none with records := 1 } }
    s.cairn.suppressed ≠ [] ∧ s.cairn.queue.length < 32 ∧
    (after (exec .suppressionSecondEnd s)).cairn.queue.map (·.origin) = [1, 0, 1] := by decide +kernel

end Sys2Proof.Tests
end

