-- ==== Sys2Proof/Tests/WitnessUnits.lean ====
section
/-! SUPPORT. For every statement about power, scrubbing, registers, I3C, SPDM, MCTP and the encoding a state and operands that meet its
hypotheses, for each of its clauses, at boundary values. -/

namespace Sys2Proof.Tests

set_option Elab.async false

open Sys2Proof.Machine

/-! Start-up and power-off. -/

/-- The module in a stage of its power, held by PERST_N. -/
def stageOf (x : PowerStage) (main : Bool) (st : BitVec 4) : State :=
  { up with
    power := { up.power with
      stage := x, mainGood := main, pwrGood := main, endpoint := .held, perstLow := true, perstTaken := true, memSpace := false,
      i3cOn := x != .auxOff && x != .auxRising && x != .island }
    ident := { up.ident with state := st } }

theorem witness_stages (x : PowerStage) : (stageOf x true 1).power.stage = x ∧ (stageOf .island false 0).power.i3cOn = false ∧
    (stageOf .island false 0).power.stage ≠ .auxOff ∧ (stageOf .island false 0).power.stage ≠ .auxRising := by
  cases x <;> decide +kernel
theorem witness_main_on : let s := stageOf .standby false 0
    s.i3cUp = true ∧ s.power.mainUp = false ∧ s.ident.state = 0x0 ∧ s.power.stage = .standby ∧ s.notar.fwRuns = true ∧
    (∃ x, some 300 = some x ∧ x ≤ 300) ∧ (∀ x, some 301 = some x → 300 < x) :=
  ⟨by decide +kernel, by decide +kernel, by decide +kernel, by decide +kernel, by decide +kernel, ⟨300, rfl, by decide⟩,
    fun _ h => by cases h; decide⟩
theorem witness_endpoint : let s := { up with power := { up.power with endpoint := .starting }, silent := { up.silent with lpState := 1, lpClass := 2 } }
    s.power.endpoint = .starting ∧ ¬(s.silent.lpState = 1 ∧ s.silent.lpClass = 3) ∧ s.retrying = true ∧ s.pcieUp = false := by decide +kernel
theorem witness_power_off : jobUp.rmcUp = true ∧ jobUp.power.mainUp = true ∧ jobUp.power.stage ≠ .auxOff := by decide +kernel

/-! Protections and throttling. -/

/-- Readings of one temperature from every source. -/
def readings (t : Nat) : Readings :=
  { vin := 54, pin := 99, vaux := 3, paux := 4, energy := 77,
    temps := (List.finRange 12).map fun i => List.replicate (sensorsOf i.val) (BitVec.ofNat 12 t) }

/-- What a source with these readings shows. -/
def shown (s : State) (r : Readings) (i : Fin 12) : BitVec 12 :=
  if s.power.mainBusy = true ∨ i.val = 10 then highest i.val (r.temps.getD i.val []) else 0

/-- The module at a temperature, its levels at 3 and calm for n evaluations. -/
def heated (t n : Nat) (brake : Bool) : State :=
  { jobUp with power := { jobUp.power with
      nearTrip := Vector.replicate 12 true, brake := brake, pin := 100, temp := Vector.replicate 12 (BitVec.ofNat 12 t),
      calm := Vector.replicate 4 n, level := Vector.replicate 4 3 } }

theorem witness_protections : jobUp.power.mainUp = true ∧ 50999 < 51000 ∧ 64000 < 64001 ∧ 75000 ≤ 75000 ∧ 75000 < 75001 ∧ 45000 < 45001 ∧
    jobUp.power.mainGood = true := by decide +kernel
theorem witness_trip : let s := heated 0x100 9 false
    s.notarUp = true ∧ (∃ i : Fin 12, s.power.nearTrip[i] = true ∧ tripAt i.val ≤ degOf (shown s (readings 920) i)) ∧ s.power.mainUp = true ∧
    (∀ i : Fin 12, degOf (shown s (readings 0x100) i) < tripAt i.val) := by decide +kernel
theorem witness_hot : let s := heated 801 9 false
    s.notarUp = true ∧ s.power.tripping = false ∧ (sourcesOf 0).any (fun i => decide (throttleAt i.val ≤ degOf s.power.temp[i])) = true ∧ s.power.brake = false := by
  decide +kernel
theorem witness_cool (n : Nat) (h : n = 9 ∨ n = 8) : let s := heated 0x100 n false
    (sourcesOf 0).any (fun i => decide (throttleAt i.val ≤ degOf s.power.temp[i])) = false ∧
    decide (s.power.lowerLimit < s.power.pin.toNat) = false ∧
    ((sourcesOf 0).all (fun i => decide (degOf s.power.temp[i] < releaseBelow i.val)) && decide (100 * s.power.pin.toNat < 98 * s.power.lowerLimit))
      = true ∧ s.power.calm[0] = n := by
  rcases h with rfl | rfl <;> decide +kernel
theorem witness_over_limit : let s := { jobUp with power := { jobUp.power with pin := 2201 } }
    decide (s.power.lowerLimit < s.power.pin.toNat) = true := by decide +kernel
theorem witness_brake : (heated 0 0 true).power.brake = true ∧ (heated 0 0 false).power.brake = false ∧ (heated 0 0 false).notarUp = true ∧
    (heated 0 0 false).power.tripping = false := by
  decide +kernel
theorem witness_perst (x : PowerStage) (h : x = .on ∨ x = .training ∨ x = .filling) : (stageOf x true 1).power.perstLow = true ∧
    999 < 1000 ∧ 1000 ≤ 1000 ∧ 1999 < 2000 ∧ 2000 ≤ 2000 ∧ (stageOf x true 1).power.perstTaken = true ∧ (stageOf x true 1).power.stage = x := by
  rcases h with rfl | rfl | rfl <;> decide +kernel

/-! The scrubber and an internal fault. -/

/-- The module with the passes at positions, the first overdue. -/
def scrubbing (bd lp : Nat) : State := put { jobUp with mem := { jobUp.mem with bdPos := bd, lpPos := lp, bdOver := true } } 0 160 7

theorem witness_scrub (bd lp : Nat) (h : (bd, lp) = (5, 5) ∨ (bd, lp) = (4 * 2 ^ 29 - 1, 2 ^ 25 * 512 - 1)) : let s := scrubbing bd lp
    canonB s = true ∧ s.mem.fillDone = true ∧ s.power.stage = .on ∧ s.mem.bdPeriod ≠ 0 ∧ s.mem.bdPos < 4 * 2 ^ 29 ∧ s.mem.bdPos = bd ∧
    s.mem.lpPeriod ≠ 0 ∧ s.mem.lpPos < 2 ^ 25 * s.ident.lpddrGib.toNat ∧ s.mem.lpPos = lp := by
  simp only [Prod.mk.injEq] at h
  rcases h with ⟨rfl, rfl⟩ | ⟨rfl, rfl⟩ <;> decide +kernel
theorem witness_scrub_ctrl : let v : Reg := 0x00010002
    jobUp.linked = true ∧ v.extractLsb' 0 16 ≠ 0 ∧ v.extractLsb' 0 16 ≠ jobUp.mem.bdPeriod ∧ v.extractLsb' 16 16 ≠ 0 ∧
    v.extractLsb' 16 16 ≠ jobUp.mem.lpPeriod := by decide +kernel
theorem witness_internal_fault : jobUp.ident.state = 0x3 ∧ jobUp.cairn.queue.length < 32 := by decide +kernel

/-! Registers. -/

/-- A module with cores 0 to 7 alone. -/
def eightCores : State := { jobUp with ident := { jobUp.ident with enabled := 0xFF } }
theorem witness_window_fused : eightCores.canon ∧ eightCores.linked = true ∧ eightCores.coreOn 8 = false ∧ eightCores.coreOn 7 = true :=
  ⟨canon_of (by decide +kernel), by decide +kernel, by decide +kernel, by decide +kernel⟩
theorem witness_registers : jobUp.linked = true ∧ (jobUp.queue 3).enable = false ∧ (jobUp.queue 2).enable = true ∧ 0x1001 % 4 ≠ 0 ∧
    (stageOf .training true 1).linked = false ∧ spWf MsixEntry.reset jobUp.host.msix = true ∧ 2 ^ 26 ≤ 2 ^ 26 ∧ 0x4000 ≤ 0x4000 := by
  decide +kernel
theorem witness_configuration : jobUp.pcieUp = true ∧ jobUp.host.pba = 0 ∧ (0x2 : BitVec 64).getLsbD 2 = false ∧
    (stageOf .training true 1).pcieUp = false := by decide +kernel
/-- Mailbox 15, claimed by an agent inside the module. -/
def claimedBy (a : Agent) : State := jobUp.modMail 15 fun x => { x with state := .claimed, sender := agentCode a }
theorem witness_agent_write (a : Agent) (h : a = .core 7 ∨ a = .notar) :
    onModule a = true ∧ (claimedBy a).agentUp 15 a = true ∧ ((claimedBy a).mailbox 15).state = .claimed ∧
    ((claimedBy a).mailbox 15).sender = agentCode a := by
  rcases h with rfl | rfl <;> decide +kernel
theorem witness_same_cycle : jobUp.power.brake = false ∧ jobUp.notarUp = true ∧ jobUp.power.tripping = false := by decide +kernel
theorem witness_reset_key : jobUp.linked = true ∧ jobUp.power.stage = .on ∧ (0x123456A5 : Reg).extractLsb' 0 8 = 0xA5 ∧
    (0xA4 : Reg).extractLsb' 0 8 ≠ 0xA5 ∧ jobUp.rmcUp = true ∧ jobUp.power.mainUp = true ∧ jobUp.power.comingUp = false ∧
    (stageOf .standby false 0).rmcUp = true ∧ (stageOf .standby false 0).power.mainUp = false := by decide +kernel

/-- A module not yet locked, its slot strapped to 5. -/
def unlocked : State :=
  { jobUp with
    ident := { jobUp.ident with coordLock := false }
    power := { jobUp.power with slotStrap := 5 }
    erg := { jobUp.erg with portEn := 3 } }
/-- LOCK of a slot. -/
def lockOf (slot : Nat) : Reg := BitVec.ofNat 32 (2 ^ 31 + slot + 64 * 7 + 4096 * 9)
theorem witness_lock : unlocked.rmcUp = true ∧ (lockOf 5).getLsbD 31 = true ∧ unlocked.ident.coordLock = false ∧
    (lockOf 5).extractLsb' 0 6 = unlocked.power.slotStrap ∧ (lockOf 4).extractLsb' 0 6 ≠ unlocked.power.slotStrap ∧
    unlocked.cairn.queue.length < 32 := by decide +kernel
theorem witness_sel_load : let s := { jobUp with cairn := { jobUp.cairn with next := 1, slots := [(slotOf 0, some 5)] } }
    s.linked = true ∧ s.i3cUp = true ∧ s.cairn.recordAt 0 = some 5 ∧ s.cairn.recordAt 1 = none := by decide +kernel

/-! I3C, SPDM, MCTP. -/

theorem witness_i3c : jobUp.i3cUp = true ∧ jobUp.power.dynAddr ≠ 0 ∧ jobUp.notar.fwRuns = true ∧
    State.reset.i3cUp = true ∧ State.reset.power.dynAddr = 0 := by decide +kernel
theorem witness_i3c_offsets : let s := { jobUp with power := { jobUp.power with i3cOffset := 0x213 } }
    s.i3cUp = true ∧ s.power.dynAddr ≠ 0 ∧ s.power.i3cOffset.toNat % 4 ≠ 0 ∧ ((0x01 : Byte).toNat + 256 * (0x02 : Byte).toNat) % 4 ≠ 0 ∧
    ((0x14 : Byte).toNat + 256 * (0x02 : Byte).toNat) % 4 = 0 ∧ directCodes.contains 0x90 = true ∧ directCodes.contains 0x91 = false := by
  decide +kernel
theorem witness_clocks_stopped : ({ jobUp.power with clocksStopped := true } : Power).clocksStopped = true := rfl

/-- The module with both connections in a phase and a session. -/
def spdmAt (ph : SpdmPhase) (se : SpdmSession) (m2 : Option (BitVec 384)) : State :=
  let c := { SpdmConn.reset with phase := ph, session := se, delayed := some (0, [0x13, 3]) }
  { jobUp with notar := { jobUp.notar with doe := c, mctp := c, m2 := m2 } }
theorem witness_spdm (t : Transport) (ph : SpdmPhase) (se : SpdmSession) (m2 : Option (BitVec 384)) (h : m2 = none ∨ m2 = some 5) :
    (spdmAt ph se m2).spdmUp t = true ∧ ((spdmAt ph se m2).notar.conn t).phase = ph ∧ ((spdmAt ph se m2).notar.conn t).session = se ∧
    (spdmAt ph se m2).notar.m2 = m2 ∧ ((spdmAt ph se m2).notar.conn t).delayed = some (0, [0x13, 3]) := by
  cases t <;> cases ph <;> cases se <;> rcases h with rfl | rfl <;> decide +kernel
theorem witness_spdm_codes : spdmRequests.contains 0x85 = false ∧ spdmRequests.contains 0x81 = true ∧ (0x81 : Byte) ≠ 0x84 := by decide
theorem witness_mctp (b : Bool) (l : List (List Byte)) (h : l = [] ∨ l = [[1, 2, 3, 4, 5]]) :
    let s := { jobUp with notar := { jobUp.notar with txBusy := b, rxReady := b, rxWaiting := l } }
    s.spdmUp .mctp = true ∧ s.notar.txBusy = b ∧ s.notar.rxReady = b ∧ s.notar.rxWaiting = l ∧ s.pcieUp = true ∧ 3 < 4 ∧ 4 ≤ 4 ∧ 68 ≤ 68 ∧ 68 < 69 := by
  cases b <;> rcases h with rfl | rfl <;> decide +kernel

/-! The encoding. -/

theorem witness_encoding : insnWf .halt = true ∧ 7 % insnWords .halt = 0 ∧ insnWf (.wload 2 true 1023) = true ∧
    insnWf (.vmask { fn := 2, vd := 31, va := 31, vb := 31, vc := 31, lm := 7, imm := 1 } 0xFFFFFFFF) = true ∧
    insnWf (.wload 3 true 1023) = false := by decide +kernel
theorem witness_legal_words : (decodeInsn 8 ((encodeInsn 0xFFF (.br 0xFFF)).getD 0 0) 1 2 3).isSome = true := by decide +kernel

/-! Second causes, brakes and reads alone. -/

/-- A power-off under way, begun in this control cycle or an earlier one, with a cause. -/
def goingOff (now : Bool) (cause : BitVec 4) : State :=
  { stageOf .goingOff true 1 with
    power := { (stageOf .goingOff true 1).power with offReason := cause }
    cycle := some { CycleMarks.none with off := now } }
theorem witness_second_cause (b : Bool) (k : BitVec 4) (h : k = 1 ∨ k = 2 ∨ k = 3) :
    (goingOff b k).power.mainUp = false ∧ (goingOff b k).cycle.any (·.off) = b ∧ (goingOff b k).power.offReason = k := by
  cases b <;> rcases h with rfl | rfl | rfl <;> decide +kernel
theorem witness_brake_tripping : let s := { heated 0 0 false with power := { (heated 0 0 false).power with stage := .goingOff, offReason := 5 } }
    s.power.brake = false ∧ s.notarUp = true ∧ s.power.tripping = true ∧ 2000 ≤ 2000 ∧ (heated 0 0 true).power.brake = true := by decide +kernel
theorem witness_read_alone (o : BitVec 16) (h : o = 0x214 ∨ o = 0x216) :
    let s := { jobUp with power := { jobUp.power with i3cOffset := o } }
    s.i3cUp = true ∧ s.power.dynAddr ≠ 0 ∧ (s.power.i3cOffset.toNat % 4 = 0 ↔ o = 0x214) := by
  rcases h with rfl | rfl <;> decide +kernel
/-- LOCK in a control cycle in which another record has been submitted. -/
theorem witness_lock_shared :
    let s := { unlocked with cycle := some { CycleMarks.none with records := 1 }, cairn := { unlocked.cairn with queue := [{ type := 1, origin := 3, payload := [] }] } }
    s.rmcUp = true ∧ s.cairn.queue.length < 32 ∧ (after (exec (.lock (lockOf 5)) s)).cairn.queue.map (·.origin) = [0, 3] := by decide +kernel

end Sys2Proof.Tests
end

