-- ==== Sys2Proof/Tests/WitnessVector.lean ====
section
/-! SUPPORT. For every statement about the vector unit a state and operands that meet its hypotheses, for each of its clauses. -/

namespace Sys2Proof.Tests

set_option Elab.async false

open Sys2Proof.Machine

/-- The first word of a VU instruction. -/
def vu (fn vd va vb vc lm imm : Nat) : VuHead :=
  { fn := BitVec.ofNat _ fn, vd := BitVec.ofNat _ vd, va := BitVec.ofNat _ va, vb := BitVec.ofNat _ vb, vc := BitVec.ofNat _ vc,
    lm := BitVec.ofNat _ lm, imm := BitVec.ofNat _ imm }

theorem witness_vfp (fn : Nat) (h : fn = 7 ∨ fn = 8 ∨ fn = 11 ∨ fn = 16 ∨ fn = 19) : let i := Insn.vfp (vu fn 7 2 3 4 5 0)
    (issuing i).canon ∧ (issuing i).issuesVu 5 .b (3, 1, i) := by
  rcases h with rfl | rfl | rfl | rfl | rfl <;> exact issuesVu_of (by decide +kernel)
theorem witness_vint : let i := Insn.vint (vu 1 31 2 3 4 5 0)
    (issuing i).canon ∧ (issuing i).issuesVu 5 .b (3, 1, i) := issuesVu_of (by decide +kernel)
theorem witness_vxl : let i := Insn.vxl (vu 1 31 2 3 4 5 0)
    (issuing i).canon ∧ (issuing i).issuesVu 5 .b (3, 1, i) := issuesVu_of (by decide +kernel)

/-- A conversion from FP32 to MW40, whose second register is the next. -/
def toMw (vd : Nat) : Insn := .vcvt (vu 12 vd 2 6 4 5 0) { sc := 0, dc := 0, q := 0, round := 1 }

theorem witness_vcvt : ((issuing (toMw 30)).canon ∧ (issuing (toMw 30)).issuesVu 5 .b (3, 2, toMw 30)) ∧
    pairOk 6 12 = true ∧ paired 12 = true := ⟨issuesVu_of (by decide +kernel), by decide, by decide⟩
theorem witness_vcvt_illegal : ((issuing (toMw 31)).canon ∧ (issuing (toMw 31)).issuesVu 5 .b (3, 2, toMw 31)) ∧
    ¬(paired 12 = true → (31 : BitVec 5) ≠ 31) := ⟨issuesVu_of (by decide +kernel), by decide⟩

/-- An NACC-group instruction. -/
def nacc (fn vd va vb lm imm : Nat) : Insn := .vnacc (vu fn vd va vb 9 lm imm)

theorem witness_nread (round : Nat) (h : round = 0 ∨ round = 3) : let i := nacc 4 2 3 0 2 round
    (issuing i).canon ∧ (issuing i).issuesVu 5 .b (3, 1, i) := by
  rcases h with rfl | rfl <;> exact issuesVu_of (by decide +kernel)
theorem witness_accumulators (fn : Nat) (h : fn = 0 ∨ fn = 1 ∨ fn = 2 ∨ fn = 3) : let i := nacc fn 2 3 4 2 0x800
    (issuing i).canon ∧ (issuing i).issuesVu 5 .b (3, 1, i) := by
  rcases h with rfl | rfl | rfl | rfl <;> exact issuesVu_of (by decide +kernel)

/-- A mask-group instruction with a second word. -/
def maskI (fn vc imm : Nat) (w : BitVec 64) : Insn := .vmask (vu fn 2 3 4 vc 5 imm) w

theorem witness_drop : let i := maskI 2 9 1 0x80000000
    (issuing i).canon ∧ (issuing i).issuesVu 5 .b (3, 2, i) := issuesVu_of (by decide +kernel)

/-- Core 5 about to update master weights in V4 and V5, with lanes 0 and 1 in lane mask 2 and none in 3, and V6 and N3 as deltas. -/
def weights (poison : Bool) (i : Insn) : State :=
  let d : VReg := { data := BitVec.ofNat 2048 (0x3F800000 * (2 ^ 32 + 1)), poison := if poison then 1 else 0 }
  withCore 5 { Core.reset with
    b := { running i with nextIssue := 55 }, cycle := 50,
    v := (Core.reset.v.set 4 { data := BitVec.ofNat 2048 (2 ^ 30), poison := 0 }).set 6 d,
    n := Core.reset.n.set 3 { value := 12345, exp := 0xFE0, flags := 0, poison := poison }, lanes := (Core.reset.lanes.set 2 3).set 3 0 }

/-- What MWADD's and MWADDN's clauses ask of the state: the lanes, whether the delta of one is poisoned, the registers clean. -/
def weightsClean (s : State) (lm : BitVec 3) : Bool :=
  let x := s.coreAtVu 5 .b
  decide (lanesOf (x.lm lm) = [0, 1]) && !(x.vr 6).poison.getLsbD 0 && !x.n[3].poison && (x.vr 4).poison == 0 && (x.vr 5).poison == 0

theorem witness_mwadd : let i := nacc 5 4 6 0 2 0
    ((weights false i).canon ∧ (weights false i).issuesVu 5 .b (3, 1, i)) ∧ weightsClean (weights false i) 2 = true :=
  ⟨issuesVu_of (by decide +kernel), by decide +kernel⟩
theorem witness_mwadd_illegal (vd round : Nat) (h : vd = 31 ∧ round = 0 ∨ vd = 4 ∧ round = 3) : let i := nacc 5 vd 6 0 2 round
    (weights false i).canon ∧ (weights false i).issuesVu 5 .b (3, 1, i) := by
  rcases h with ⟨rfl, rfl⟩ | ⟨rfl, rfl⟩ <;> exact issuesVu_of (by decide +kernel)
theorem witness_mwadd_none : let i := nacc 5 4 6 0 3 0
    ((weights false i).canon ∧ (weights false i).issuesVu 5 .b (3, 1, i)) ∧ lanesOf (((weights false i).coreAtVu 5 .b).lm 3) = [] :=
  ⟨issuesVu_of (by decide +kernel), by decide +kernel⟩
theorem witness_mwadd_poison : let i := nacc 5 4 6 0 2 0
    ((weights true i).canon ∧ (weights true i).issuesVu 5 .b (3, 1, i)) ∧
    ∃ j ∈ lanesOf (((weights true i).coreAtVu 5 .b).lm 2), (((weights true i).coreAtVu 5 .b).vr 6).poison.getLsbD (j / 8) = true :=
  ⟨issuesVu_of (by decide +kernel), 0, by decide +kernel, by decide +kernel⟩
/-- Lanes 0 and 8 named, the delta of lane 0 alone poisoned: one element is added and the stream halts. -/
theorem witness_mwadd_part : let i := nacc 5 4 6 0 2 0
    let s := (weights true i).setCore 5 { (weights true i).core 5 with lanes := Core.reset.lanes.set 2 0x101 }
    (s.canon ∧ s.issuesVu 5 .b (3, 1, i)) ∧
    (lanesOf ((s.coreAtVu 5 .b).lm 2)).filter (fun j => !((s.coreAtVu 5 .b).vr 6).poison.getLsbD (j / 8)) = [8] :=
  ⟨issuesVu_of (by decide +kernel), by decide +kernel⟩
theorem witness_mwaddn : let i := nacc 6 4 0 3 2 4
    ((weights false i).canon ∧ (weights false i).issuesVu 5 .b (3, 1, i)) ∧ weightsClean (weights false i) 2 = true ∧
    (lanesOf (((weights false i).coreAtVu 5 .b).lm 2)).filter (fun j => j == 1) = [1] :=
  ⟨issuesVu_of (by decide +kernel), by decide +kernel, by decide +kernel⟩
theorem witness_mwaddn_poison : let i := nacc 6 4 0 3 2 4
    ((weights true i).canon ∧ (weights true i).issuesVu 5 .b (3, 1, i)) ∧ ((weights true i).coreAtVu 5 .b).n[3].poison = true :=
  ⟨issuesVu_of (by decide +kernel), by decide +kernel⟩

/-! Vector memory: word-aligned addresses and one byte past. -/

/-- An address without counter terms. -/
def addrOf64 (n : Nat) : AddrTerm := { base := BitVec.ofNat 21 n, ca := 0, ena := false, stepA := 0, cb := 0, enb := false, stepB := 0 }

/-- The address an instruction of stream B of core 5 uses. -/
def usedAddr (s : State) (a : AddrTerm) : Nat := ((s.coreAtVu 5 .b).stream .b).addrOf a

theorem witness_vld (n : Nat) (h : n = 64 ∨ n = 65) : let i := Insn.vld (vu 0 31 0 0 0 5 0) (addrOf64 n)
    ((issuing i).canon ∧ (issuing i).issuesVu 5 .b (3, 2, i)) ∧ usedAddr (issuing i) (addrOf64 n) = n := by
  rcases h with rfl | rfl <;> exact ⟨issuesVu_of (by decide +kernel), by decide +kernel⟩
theorem witness_vst (n : Nat) (h : n = 64 ∨ n = 65) : let i := Insn.vst (vu 0 0 31 7 1 5 0) (addrOf64 n)
    ((issuing i).canon ∧ (issuing i).issuesVu 5 .b (3, 2, i)) ∧ usedAddr (issuing i) (addrOf64 n) = n := by
  rcases h with rfl | rfl <;> exact ⟨issuesVu_of (by decide +kernel), by decide +kernel⟩
theorem witness_mread (n : Nat) (h : n = 64 ∨ n = 65) : let i := maskI 1 0 257 (BitVec.ofNat 64 n)
    ((issuing i).canon ∧ (issuing i).issuesVu 5 .b (3, 2, i)) ∧ usedAddr (issuing i) (termOfWord (BitVec.ofNat 64 n)) = n := by
  rcases h with rfl | rfl <;> exact ⟨issuesVu_of (by decide +kernel), by decide +kernel⟩

/-- Core 5 with a part-filled mask buffer for word w, about to write a mask. -/
def maskWrite (w n imm : Nat) : State :=
  let i := maskI 0 1 imm (BitVec.ofNat 64 n)
  withCore 5 { Core.reset with b := { running i with maskBuf := some { word := w, fmt := 1, data := 5, filled := 7, poison := false } } }

theorem witness_mwrite (w n imm : Nat) (h : (w, n, imm) = (2, 64, 1) ∨ (w, n, imm) = (3, 64, 0x401) ∨ (w, n, imm) = (2, 65, 1)) :
    let i := maskI 0 1 imm (BitVec.ofNat 64 n)
    ((maskWrite w n imm).canon ∧ (maskWrite w n imm).issuesVu 5 .b (3, 2, i)) ∧
    (((maskWrite w n imm).coreAtVu 5 .b).stream .b).maskBuf = some { word := w, fmt := 1, data := 5, filled := 7, poison := false } ∧
    usedAddr (maskWrite w n imm) (termOfWord (BitVec.ofNat 64 n)) = n := by
  simp only [Prod.mk.injEq] at h
  rcases h with ⟨rfl, rfl, rfl⟩ | ⟨rfl, rfl, rfl⟩ | ⟨rfl, rfl, rfl⟩ <;>
    exact ⟨issuesVu_of (by decide +kernel), by decide +kernel, by decide +kernel⟩

/-! Lanes of the vector unit: operands of every class. -/

theorem witness_lane_classes :
    (fpNan 0x7F800001 ∧ ¬fpNan 0x7F800000 ∧ fpFinite 0x7F7FFFFF ∧ ¬fpFinite 0xFF800000) ∧
    ((0x7F800000 : BitVec 32).extractLsb' 0 31 = 0x7F800000 ∧ (0xFF800000 : BitVec 32).extractLsb' 0 31 = 0x7F800000 ∧
      (0x7F800000 : BitVec 32).msb ≠ (0xFF800000 : BitVec 32).msb ∧ (0x80000000 : BitVec 32).extractLsb' 0 31 = 0 ∧
      (0x00000001 : BitVec 32).extractLsb' 0 31 ≠ 0) ∧
    (fpFinite 1 ∧ fpFinite 2 ∧ fpFinite 3 ∧ fpUnits 3 ≠ 0 ∧ fpUnits 1 + fpUnits 2 = fpUnits 3 ∧ fpUnits 0x3F800000 + fpUnits 0xBF800000 = 0) ∧
    (fpUnits 0x40000000 * fpUnits 0x3F800000 = fpUnits 0x40000000 * 2 ^ 149 ∧ fpUnits 0x40000000 ≠ 0 ∧ fpUnits 0x80000000 * fpUnits 3 = 0 ∧
      fpUnits 0x3F800000 * fpUnits 0x3F800000 + fpUnits 0x3F800000 * 2 ^ 149 = fpUnits 0x40000000 * 2 ^ 149 ∧
      fpUnits 0x3F800000 * fpUnits 0x3F800000 + fpUnits 0xBF800000 * 2 ^ 149 = 0) ∧
    (fpOrder 0x80000000 = fpOrder 0 ∧ fpOrder 0x80000001 < 0 ∧ fpOrder 0xFF800000 < fpOrder 0xFF7FFFFF) := by
  unfold fpNan fpFinite
  decide +kernel

end Sys2Proof.Tests
end

section
/-! What a step can do, and what of a state lasts through every command: the frame of `exec` from the frames of its arms
(Laws/LastingExec.lean, Laws/Grown.lean). -/

namespace Sys2Proof.Machine

/-- A command that writes no Cairn record leaves the waiting commands, the fuses and Cairn's records as they are. -/
theorem exec_lasting (i : Instr) (s t : State) (h1 : i ≠ .cairnRecordWrite) (h2 : i ≠ .sealSigned) (h3 : i ≠ .auxLost)
    (h : exec i s = .next t) : t.lasting = s.lasting := by
  cases i with
  | nop => exact execNop_lasting (h := h)
  | halt => exact execHalt_lasting (h := h)
  | event => exact execEvent_lasting (h := h)
  | cset => exact execCset_lasting (h := h)
  | cinc => exact execCinc_lasting (h := h)
  | cmpset => exact execCmpset_lasting (h := h)
  | br => exact execBr_lasting (h := h)
  | brc => exact execBrc_lasting (h := h)
  | brn => exact execBrn_lasting (h := h)
  | hswitch => exact execHswitch_lasting (h := h)
  | twait => exact execTwait_lasting (h := h)
  | twaitGrant => exact execTwaitGrant_lasting (h := h)
  | tpost => exact execTpost_lasting (h := h)
  | tokenPost => exact execTokenPost_lasting (h := h)
  | qpush => exact execQpush_lasting (h := h)
  | lctx => exact execLctx_lasting (h := h)
  | matmul => exact execMatmul_lasting (h := h)
  | p96Accumulate => exact execP96Accumulate_lasting (h := h)
  | wload => exact execWload_lasting (h := h)
  | wloadComplete => exact execWloadComplete_lasting (h := h)
  | wswap => exact execWswap_lasting (h := h)
  | drain => exact execDrain_lasting (h := h)
  | bankTailEnd => exact execBankTailEnd_lasting (h := h)
  | bankDrainEnd => exact execBankDrainEnd_lasting (h := h)
  | bfill => exact execBfill_lasting (h := h)
  | bfillComplete => exact execBfillComplete_lasting (h := h)
  | vfp => exact execVfp_lasting (h := h)
  | vint => exact execVint_lasting (h := h)
  | vxl => exact execVxl_lasting (h := h)
  | vcvt => exact execVcvt_lasting (h := h)
  | nopen => exact execNopen_lasting (h := h)
  | nacc => exact execNacc_lasting (h := h)
  | nsq => exact execNsq_lasting (h := h)
  | ndot => exact execNdot_lasting (h := h)
  | nread => exact execNread_lasting (h := h)
  | mwadd => exact execMwadd_lasting (h := h)
  | mwaddn => exact execMwaddn_lasting (h := h)
  | mwrite => exact execMwrite_lasting (h := h)
  | mread => exact execMread_lasting (h := h)
  | drop => exact execDrop_lasting (h := h)
  | vld => exact execVld_lasting (h := h)
  | vst => exact execVst_lasting (h := h)
  | scratchpadWriteEffect => exact execScratchpadWriteEffect_lasting (h := h)
  | vuResultWriteback => exact execVuResultWriteback_lasting (h := h)
  | progressWatchdogExpiry => exact execProgressWatchdogExpiry_lasting (h := h)
  | eventCompletionPost => exact execEventCompletionPost_lasting (h := h)
  | halfLoaded => exact execHalfLoaded_lasting (h := h)
  | launchComplete => exact execLaunchComplete_lasting (h := h)
  | qanatDescriptorStart => exact execQanatDescriptorStart_lasting (h := h)
  | qanatReadDone => exact execQanatReadDone_lasting (h := h)
  | qanatDescriptorRetire => exact execQanatDescriptorRetire_lasting (h := h)
  | patrolScrubRead => exact execPatrolScrubRead_lasting (h := h)
  | scrubPeriodExpiry => exact execScrubPeriodExpiry_lasting (h := h)
  | fillComplete => exact execFillComplete_lasting (h := h)
  | linkFrame => exact execLinkFrame_lasting (h := h)
  | linkNak => exact execLinkNak_lasting (h := h)
  | linkTrainingComplete => exact execLinkTrainingComplete_lasting (h := h)
  | retrainBudgetExpiry => exact execRetrainBudgetExpiry_lasting (h := h)
  | write => exact execWrite_lasting (h := h)
  | read => exact execRead_lasting (h := h)
  | readData => exact execReadData_lasting (h := h)
  | status => exact execStatus_lasting (h := h)
  | ack => exact execAck_lasting (h := h)
  | quiet => exact execQuiet_lasting (h := h)
  | bounce => exact execBounce_lasting (h := h)
  | ackTimerExpiry => exact execAckTimerExpiry_lasting (h := h)
  | resendTimerExpiry => exact execResendTimerExpiry_lasting (h := h)
  | nrHoldExpiry => exact execNrHoldExpiry_lasting (h := h)
  | quietToExpiry => exact execQuietToExpiry_lasting (h := h)
  | contribution => exact execContribution_lasting (h := h)
  | instanceAdmit => exact execInstanceAdmit_lasting (h := h)
  | upData => exact execUpData_lasting (h := h)
  | upMeta => exact execUpMeta_lasting (h := h)
  | nodeOutput => exact execNodeOutput_lasting (h := h)
  | downData => exact execDownData_lasting (h := h)
  | downMeta => exact execDownMeta_lasting (h := h)
  | back => exact execBack_lasting (h := h)
  | resendReq => exact execResendReq_lasting (h := h)
  | redo => exact execRedo_lasting (h := h)
  | arriveData => exact execArriveData_lasting (h := h)
  | arriveMeta => exact execArriveMeta_lasting (h := h)
  | bucketTimeout => exact execBucketTimeout_lasting (h := h)
  | hostWindowRead => exact execHostWindowRead_lasting (h := h)
  | hostWindowWrite => exact execHostWindowWrite_lasting (h := h)
  | cmdTailDoorbell => exact execCmdTailDoorbell_lasting (h := h)
  | cplHeadDoorbell => exact execCplHeadDoorbell_lasting (h := h)
  | commandFetch => exact execCommandFetch_lasting (h := h)
  | commandTimeout => exact execCommandTimeout_lasting (h := h)
  | queueEnable => exact execQueueEnable_lasting (h := h)
  | queueDisable => exact execQueueDisable_lasting (h := h)
  | nopEcho => exact execNopEcho_lasting (h := h)
  | moduleInfo => exact execModuleInfo_lasting (h := h)
  | memCopy => exact execMemCopy_lasting (h := h)
  | memFill => exact execMemFill_lasting (h := h)
  | pageMap => exact execPageMap_lasting (h := h)
  | pageUnmap => exact execPageUnmap_lasting (h := h)
  | pageResident => exact execPageResident_lasting (h := h)
  | windowOwn => exact execWindowOwn_lasting (h := h)
  | imemLoad => exact execImemLoad_lasting (h := h)
  | launch => exact execLaunch_lasting (h := h)
  | streamResume => exact execStreamResume_lasting (h := h)
  | streamResumeDiscardHead => exact execStreamResumeDiscardHead_lasting (h := h)
  | streamResumeDiscardAll => exact execStreamResumeDiscardAll_lasting (h := h)
  | coreHalt => exact execCoreHalt_lasting (h := h)
  | collSetup => exact execCollSetup_lasting (h := h)
  | exchange => exact execExchange_lasting (h := h)
  | scaleSet => exact execScaleSet_lasting (h := h)
  | jobOpen => exact execJobOpen_lasting (h := h)
  | jobClose => exact execJobClose_lasting (h := h)
  | teardownToExpiry => exact execTeardownToExpiry_lasting (h := h)
  | jobCloseScrubDone => exact execJobCloseScrubDone_lasting (h := h)
  | modeSet => exact execModeSet_lasting (h := h)
  | stepCloseRequest => exact execStepCloseRequest_lasting (h := h)
  | stepClose => exact execStepClose_lasting (h := h)
  | stepCommit => exact execStepCommit_lasting (h := h)
  | stepAbort => exact execStepAbort_lasting (h := h)
  | stepAbortFenceClear => exact execStepAbortFenceClear_lasting (h := h)
  | checkpoint => exact execCheckpoint_lasting (h := h)
  | restore => exact execRestore_lasting (h := h)
  | rankRemap => exact execRankRemap_lasting (h := h)
  | routeSwap => exact execRouteSwap_lasting (h := h)
  | diagPatrol => exact execDiagPatrol_lasting (h := h)
  | diagPatrolEnd => exact execDiagPatrolEnd_lasting (h := h)
  | replay => exact execReplay_lasting (h := h)
  | replayDisarm => exact execReplayDisarm_lasting (h := h)
  | marginSet => exact execMarginSet_lasting (h := h)
  | marginRailSettled => exact execMarginRailSettled_lasting (h := h)
  | linkPattern => exact execLinkPattern_lasting (h := h)
  | linkPatternEnd => exact execLinkPatternEnd_lasting (h := h)
  | computeReset => exact execComputeReset_lasting (h := h)
  | dumpSample => exact execDumpSample_lasting (h := h)
  | dumpAccessTimeout => exact execDumpAccessTimeout_lasting (h := h)
  | attest => exact execAttest_lasting (h := h)
  | fwUpdateStage => exact execFwUpdateStage_lasting (h := h)
  | fwUpdateChunk => exact execFwUpdateChunk_lasting (h := h)
  | fwUpdateVerify => exact execFwUpdateVerify_lasting (h := h)
  | fwUpdateActivate => exact execFwUpdateActivate_lasting (h := h)
  | fwUpdateBurn => exact execFwUpdateBurn_lasting (h := h)
  | cairnRead => exact execCairnRead_lasting (h := h)
  | cairnReadStatus => exact execCairnReadStatus_lasting (h := h)
  | claim => exact execClaim_lasting (h := h)
  | go => exact execGo_lasting (h := h)
  | release => exact execRelease_lasting (h := h)
  | code => exact execCode_lasting (h := h)
  | mailboxDelivery => exact execMailboxDelivery_lasting (h := h)
  | tokenSet => exact execTokenSet_lasting (h := h)
  | qstepWrite => exact execQstepWrite_lasting (h := h)
  | resetKey => exact execResetKey_lasting (h := h)
  | rmcResetKey => exact execRmcResetKey_lasting (h := h)
  | lock => exact execLock_lasting (h := h)
  | mainOn => exact execMainOn_lasting (h := h)
  | orderlyPowerOff => exact execOrderlyPowerOff_lasting (h := h)
  | mainPowerOffComplete => exact execMainPowerOffComplete_lasting (h := h)
  | portEn => exact execPortEn_lasting (h := h)
  | retrain => exact execRetrain_lasting (h := h)
  | forceDown => exact execForceDown_lasting (h := h)
  | ergCntClr => exact execErgCntClr_lasting (h := h)
  | collCntClr => exact execCollCntClr_lasting (h := h)
  | hcCntClr => exact execHcCntClr_lasting (h := h)
  | codeClrCounts => exact execCodeClrCounts_lasting (h := h)
  | spClrCounts => exact execSpClrCounts_lasting (h := h)
  | peakClr => exact execPeakClr_lasting (h := h)
  | scrubCtrlWrite => exact execScrubCtrlWrite_lasting (h := h)
  | budgetLoRead => exact execBudgetLoRead_lasting (h := h)
  | energyLoRead => exact execEnergyLoRead_lasting (h := h)
  | selLoad => exact execSelLoad_lasting (h := h)
  | txGo => exact execTxGo_lasting (h := h)
  | rxDone => exact execRxDone_lasting (h := h)
  | registerWrite => exact execRegisterWrite_lasting (h := h)
  | i3cPrivateWrite => exact execI3cPrivateWrite_lasting (h := h)
  | entdaa => exact execEntdaa_lasting (h := h)
  | rstdaa => exact execRstdaa_lasting (h := h)
  | enec => exact execEnec_lasting (h := h)
  | disec => exact execDisec_lasting (h := h)
  | setmwl => exact execSetmwl_lasting (h := h)
  | setmrl => exact execSetmrl_lasting (h := h)
  | getmwl => exact execGetmwl_lasting (h := h)
  | getmrl => exact execGetmrl_lasting (h := h)
  | getpid => exact execGetpid_lasting (h := h)
  | getbcr => exact execGetbcr_lasting (h := h)
  | getdcr => exact execGetdcr_lasting (h := h)
  | getstatus => exact execGetstatus_lasting (h := h)
  | auxPowerOn straps => exact execAuxPowerOn_lasting straps s t h
  | oscStable => exact execOscStable_lasting (h := h)
  | firmwareReady => exact execFirmwareReady_lasting (h := h)
  | auxLost => exact absurd rfl h3
  | mainRailsGood => exact execMainRailsGood_lasting (h := h)
  | memoryTrainingDone => exact execMemoryTrainingDone_lasting (h := h)
  | startupStepFailed unit => exact execStartupStepFailed_lasting unit s t h
  | inputUndervoltage => exact execInputUndervoltage_lasting (h := h)
  | inputOvervoltage => exact execInputOvervoltage_lasting (h := h)
  | overCurrent => exact execOverCurrent_lasting (h := h)
  | refclkLost => exact execRefclkLost_lasting (h := h)
  | sensorRead => exact execSensorRead_lasting (h := h)
  | throttleEvaluation => exact execThrottleEvaluation_lasting (h := h)
  | powerFastPath => exact execPowerFastPath_lasting (h := h)
  | pwrBrakeAssert => exact execPwrBrakeAssert_lasting (h := h)
  | pwrBrakeRelease => exact execPwrBrakeRelease_lasting (h := h)
  | perstNAssert => exact execPerstNAssert_lasting (h := h)
  | perstNHoldExpiry => exact execPerstNHoldExpiry_lasting (h := h)
  | perstNRelease => exact execPerstNRelease_lasting (h := h)
  | doeDiscovery => exact execDoeDiscovery_lasting (h := h)
  | getVersion => exact execGetVersion_lasting (h := h)
  | getCapabilities => exact execGetCapabilities_lasting (h := h)
  | negotiateAlgorithms => exact execNegotiateAlgorithms_lasting (h := h)
  | getDigests => exact execGetDigests_lasting (h := h)
  | getCertificate => exact execGetCertificate_lasting (h := h)
  | challenge => exact execChallenge_lasting (h := h)
  | getMeasurements => exact execGetMeasurements_lasting (h := h)
  | keyExchange => exact execKeyExchange_lasting (h := h)
  | finish => exact execFinish_lasting (h := h)
  | heartbeat => exact execHeartbeat_lasting (h := h)
  | keyUpdate => exact execKeyUpdate_lasting (h := h)
  | endSession => exact execEndSession_lasting (h := h)
  | respondIfReady => exact execRespondIfReady_lasting (h := h)
  | setEndpointId => exact execSetEndpointId_lasting (h := h)
  | getEndpointId => exact execGetEndpointId_lasting (h := h)
  | getMctpVersionSupport => exact execGetMctpVersionSupport_lasting (h := h)
  | getMessageTypeSupport => exact execGetMessageTypeSupport_lasting (h := h)
  | cairnRecordWrite => exact absurd rfl h1
  | sealTimerExpiry => exact execSealTimerExpiry_lasting (h := h)
  | sealSigned => exact absurd rfl h2
  | suppressionSecondEnd => exact execSuppressionSecondEnd_lasting (h := h)
  | matmulFeedEnd => exact execMatmulFeedEnd_lasting (h := h)
  | internalFault => exact execInternalFault_lasting (h := h)
  | badPkt => exact execBadPkt_lasting (h := h)
  | hdrUe => exact execHdrUe_lasting (h := h)
  | railLeavesRegulation => exact execRailLeavesRegulation_lasting (h := h)
  | endpointReady => exact execEndpointReady_lasting (h := h)

/-- Of any command at all the waiting commands and the fuses stay, and Cairn's store takes 17 records at most. -/
theorem exec_grown (i : Instr) (s t : State) (h : exec i s = .next t) : s.grown 17 t := by
  by_cases h1 : i = .cairnRecordWrite
  · subst h1
    exact (execCairnRecordWrite_grown s t h).mono (by decide)
  by_cases h2 : i = .sealSigned
  · subst h2
    exact (execSealSigned_grown s t h).mono (by decide)
  by_cases h3 : i = .auxLost
  · subst h3
    exact execAuxLost_grown s t h
  exact (grown_of_lasting (exec_lasting i s t h1 h2 h3 h)).mono (Nat.zero_le 17)

/-- A step is one of two: on an empty queue time passes, else the front command acts on the module with the queue's rest. -/
theorem step_cases {s t : State} (h : step s = .next t) :
    (s.pending = [] ∧ t = s.idle) ∨ ∃ c r, s.pending = c :: r ∧ exec c { s with pending := r } = .next t := by
  unfold step at h
  split at h
  · next hp => exact .inl ⟨hp, (Host.Outcome.next.inj h).symm⟩
  · next c r hp => exact .inr ⟨c, r, hp, h⟩

/-- Settles O3: an idle step leaves what lasts, and a command's effect starts from the queue without it. -/
theorem fusesLastAndQueueAdvances : Obligations.FusesLastAndQueueAdvances := by
  intro s t h
  obtain ⟨hp, rfl⟩ | ⟨c, r, hp, hx⟩ := step_cases h
  · obtain ⟨hq, hf, hk, -⟩ := grown_of_lasting (State.idle_lasting s)
    exact ⟨hf, by rw [hq, hp, List.tail_nil], hk⟩
  · obtain ⟨hq, hf, hk, -⟩ := exec_grown c _ t hx
    exact ⟨hf, by rw [hq, hp, List.tail_cons], hk⟩

end Sys2Proof.Machine
end

section
/-! Register writes: the field of a value that each register takes, the register that an offset names, and the host's clears (00 R7 to R11,
01 R24). -/

namespace Sys2Proof.Machine

/-! The fields of a written value: the low 32 bits are what a register takes. -/

theorem ofNat_low (v : BitVec 64) (n : Nat) (h : n ≤ 32) : BitVec.ofNat n (v.toNat % 2 ^ 32) = v.extractLsb' 0 n := by
  apply BitVec.eq_of_toNat_eq
  rw [BitVec.toNat_ofNat, Nat.mod_mod_of_dvd _ (Nat.pow_dvd_pow 2 h), BitVec.extractLsb'_toNat, Nat.shiftRight_zero]

theorem ofNat_low_field (v : BitVec 64) (lo n : Nat) (h : lo + n ≤ 32) :
    BitVec.ofNat n (bitsOf (v.toNat % 2 ^ 32) lo n) = v.extractLsb' lo n := by
  apply BitVec.eq_of_toNat_eq
  have hm : v.toNat % 2 ^ 32 / 2 ^ lo % 2 ^ n = v.toNat / 2 ^ lo % 2 ^ n := by
    rw [show 32 = lo + (32 - lo) by omega, Nat.pow_add, Nat.mod_mul_right_div_self,
      Nat.mod_mod_of_dvd _ (Nat.pow_dvd_pow 2 (by omega))]
  rw [BitVec.toNat_ofNat, bitsOf, Nat.mod_mod, hm, BitVec.extractLsb'_toNat, Nat.shiftRight_eq_div_pow]

theorem on_low (v : BitVec 64) (i : Nat) (h : i < 32) : on_ (v.toNat % 2 ^ 32) i = v.getLsbD i := by
  rw [on_, Nat.testBit_mod_two_pow, decide_eq_true h, Bool.true_and, BitVec.getLsbD]

/-- A ring base's low half takes a page's number; its bits [11:0] become 0 (12 R365). -/
theorem setHalf_low_page (x v : BitVec 64) :
    setHalf x false (4096 * (v.toNat % 2 ^ 32 / 4096)) = x.extractLsb' 32 32 ++ v.extractLsb' 12 20 ++ (0 : BitVec 12) := by
  apply BitVec.eq_of_toNat_eq
  have hx := x.isLt
  rw [BitVec.toNat_append, BitVec.toNat_append, ← Nat.shiftLeft_add_eq_or_of_lt (BitVec.isLt _),
    ← Nat.shiftLeft_add_eq_or_of_lt (BitVec.isLt _)]
  simp only [setHalf, Bool.false_eq_true, if_false, BitVec.toNat_ofNat, BitVec.extractLsb'_toNat, Nat.shiftRight_eq_div_pow,
    Nat.shiftLeft_eq, BitVec.ofNat_eq_ofNat, Nat.zero_mod]
  omega

/-- The low half and then the high half of a value make the value. -/
theorem setHalf_low_high (x v : BitVec 64) : setHalf (setHalf x false (v.toNat % 2 ^ 32)) true (v.toNat / 2 ^ 32) = v := by
  apply BitVec.eq_of_toNat_eq
  have hx := x.isLt
  have hv := v.isLt
  simp only [setHalf, Bool.false_eq_true, if_false, if_true, BitVec.toNat_ofNat]
  omega

/-! Reads after writes of queues and mailboxes. -/

theorem State.queue_modQueue (s : State) (q r : Fin 8) (f : Queue → Queue) :
    (s.modQueue q f).queue r = if r = q then f (s.queue q) else s.queue r := by
  simp only [State.queue, State.modQueue, Fin.getElem_fin, Vector.getElem_set, Fin.ext_iff, eq_comm]

theorem State.mailbox_modMail (s : State) (m n : Fin 16) (f : Mailbox → Mailbox) :
    (s.modMail m f).mailbox n = if n = m then f (s.mailbox m) else s.mailbox n := by
  simp only [State.mailbox, State.modMail, Fin.getElem_fin, Vector.getElem_set, Fin.ext_iff, eq_comm]

/-! Where a register write goes (00 R7, R11, 01 R24, 12 R358). -/

theorem exec_registerWrite_bar0_linked {s : State} (hl : s.linked = true) (off width : Nat) (v : BitVec 64) (ho : off < 2 ^ 26) :
    exec (.registerWrite .bar0 off width v) s =
      .next (if width == 4 && off % 4 == 0 then s.writeBar0 off (v.toNat % 2 ^ 32) else s.unsupported) := by
  have hn : ¬((!s.linked) = true ∨ 2 ^ 26 ≤ off) := by
    rw [hl, eq_false (Nat.not_le.mpr ho)]
    decide
  simp only [exec, execRegisterWrite, hn, if_false]

theorem exec_registerWrite_bar0 {s : State} (hl : s.linked = true) (off : Nat) (v : BitVec 64) (ho : off < 2 ^ 26) (ha : off % 4 = 0) :
    exec (.registerWrite .bar0 off 4 v) s = .next (s.writeBar0 off (v.toNat % 2 ^ 32)) := by
  rw [exec_registerWrite_bar0_linked hl off 4 v ho, ha]
  rfl

/-- Another width or alignment in BAR0 (12 R358). -/
theorem exec_registerWrite_bar0_unsupported {s : State} (hl : s.linked = true) (off width : Nat) (v : BitVec 64) (ho : off < 2 ^ 26)
    (hw : width ≠ 4 ∨ off % 4 ≠ 0) : exec (.registerWrite .bar0 off width v) s = .next s.unsupported := by
  have hg : (width == 4 && off % 4 == 0) = false := by
    rw [Bool.and_eq_false_iff, beq_eq_false_iff_ne, beq_eq_false_iff_ne]
    exact hw
  rw [exec_registerWrite_bar0_linked hl off width v ho, hg]
  rfl

theorem exec_registerWrite_beyond_bar0 (s : State) (off width : Nat) (v : BitVec 64) (ho : 2 ^ 26 ≤ off) :
    exec (.registerWrite .bar0 off width v) s = .next s := by
  simp only [exec, execRegisterWrite, ho, or_true, if_true]

theorem exec_registerWrite_beyond_bar4 (s : State) (off width : Nat) (v : BitVec 64) (ho : 0x4000 ≤ off) :
    exec (.registerWrite .bar4 off width v) s = .next s := by
  simp only [exec, execRegisterWrite, ho, or_true, if_true]

theorem exec_registerWrite_unlinked {s : State} (hl : s.linked = false) (off width : Nat) (v : BitVec 64) :
    exec (.registerWrite .bar0 off width v) s = .next s ∧ exec (.registerWrite .bar4 off width v) s = .next s := by
  simp [exec, execRegisterWrite, hl]

/-- An aligned quadword of the MSI-X table is its two doublewords, the low one first (12 R358). -/
theorem exec_registerWrite_msix_quad {s : State} (hl : s.linked = true) (n : Fin 64) (v : BitVec 64) :
    exec (.registerWrite .bar4 (0x2000 + 16 * n.val) 8 v) s =
      .next ((s.writeMsix (16 * n.val) (v.toNat % 2 ^ 32)).writeMsix (16 * n.val + 4) (v.toNat / 2 ^ 32)) := by
  have hn := n.isLt
  have h0 : ¬ 0x4000 ≤ 0x2000 + 16 * n.val := by omega
  have h1 : ¬ 0x2000 + 16 * n.val < 0x1044 := by omega
  have h2 : (0x2000 + 16 * n.val) % 8 = 0 := by omega
  have h3 : 0x2000 + 16 * n.val < 0x2400 := by omega
  have h4 : 0x2000 + 16 * n.val - 0x2000 = 16 * n.val := Nat.add_sub_cancel_left ..
  simp [exec, execRegisterWrite, hl, h0, h1, h2, h3, h4]

theorem State.byHost_linked {s : State} (hl : s.linked = true) (f : State → State) : s.byHost f = .next (f s) := by
  rw [State.byHost, if_pos hl]

theorem State.byHost_unlinked {s : State} (hl : s.linked = false) (f : State → State) : s.byHost f = .next s := by
  rw [State.byHost, if_neg (by simp [hl])]

/-! Registers of BAR0. -/

/-- The block of a command queue in BAR0 (12 R365). -/
theorem State.writeBar0_queue (s : State) (q : Fin 8) (o v : Nat) (ho : o < 0x1000) :
    s.writeBar0 (0x10000 + 0x1000 * q.val + o) v = s.writeQueue q o v := by
  have hq := q.isLt
  have h0 : ¬ 0x10000 + 0x1000 * q.val + o < 0x10000 := by omega
  have h1 : 0x10000 + 0x1000 * q.val + o < 0x18000 := by omega
  have h2 : (0x10000 + 0x1000 * q.val + o) % 0x1000 = o := by omega
  have h3 : (0x10000 + 0x1000 * q.val + o - 0x10000) / 0x1000 % 8 = q.val := by omega
  simp only [State.writeBar0, h0, h1, h2, h3, if_false, if_true]

/-- The ownership margin and floor (12 R389). -/
theorem exec_registerWrite_margin {s : State} (hl : s.linked = true) (v : BitVec 64) :
    exec (.registerWrite .bar0 0x1000 4 v) s = .next
      { s with host := { s.host with margin := v.extractLsb' 0 8, floor_ := v.extractLsb' 8 16 } } := by
  rw [exec_registerWrite_bar0 hl _ _ (by decide) (by decide)]
  simp only [State.writeBar0, State.writeIdent, Nat.reduceLT, if_true, ofNat_low v 8 (by decide), ofNat_low_field v 8 16 (by decide)]

/-- A ring base's low half is written while its queue is disabled, and only then (12 R361). -/
theorem exec_registerWrite_cmdBase {s : State} (hl : s.linked = true) (q : Fin 8) (v : BitVec 64) :
    exec (.registerWrite .bar0 (0x10008 + 0x1000 * q.val) 4 v) s = .next (s.modQueue q fun x => if x.enable then x else
      { x with cmdBase := x.cmdBase.extractLsb' 32 32 ++ v.extractLsb' 12 20 ++ (0 : BitVec 12) }) := by
  have hq := q.isLt
  rw [exec_registerWrite_bar0 hl _ _ (by omega) (by omega), show 0x10008 + 0x1000 * q.val = 0x10000 + 0x1000 * q.val + 8 by omega,
    State.writeBar0_queue _ _ _ _ (by decide)]
  simp only [State.writeQueue, Nat.reduceEqDiff, if_false, if_true, setHalf_low_page]

/-- PM_EVENT bits written 1 are cleared (15 R470). -/
theorem exec_registerWrite_pmEvent {s : State} (hl : s.linked = true) (v : BitVec 64) :
    exec (.registerWrite .bar0 0x40080 4 v) s = .next (s.modPower fun p => { p with pmEvent := p.pmEvent &&& ~~~ v.extractLsb' 0 6 }) := by
  rw [exec_registerWrite_bar0 hl _ _ (by decide) (by decide)]
  simp only [State.writeBar0, State.writePower, State.clearPm, Nat.reduceLT, Nat.reduceLeDiff, Nat.reduceSub, Nat.reduceEqDiff, and_self,
    if_false, if_true, ofNat_low v 6 (by decide)]

/-! The MSI-X table. -/

/-- Half of a vector's address is written; no mask changes, so no vector is sent (12 R358, R359). -/
theorem State.writeMsix_addr (s : State) (n v : Nat) (high : Bool) :
    s.writeMsix (16 * n + if high then 4 else 0) v =
      let e := spGet MsixEntry.reset s.host.msix n
      { s with host := { s.host with msix := spSet MsixEntry.reset s.host.msix n { e with addr := setHalf e.addr high v } } } := by
  have hd : (16 * n + if high then 4 else 0) / 16 = n := by split <;> omega
  have hm : (16 * n + if high then 4 else 0) % 16 = if high then 4 else 0 := by split <;> omega
  unfold State.writeMsix
  rw [hd, hm]
  cases high <;> simp only [Bool.false_eq_true, if_false, if_true, Nat.reduceEqDiff] <;>
    exact if_neg fun h => absurd (h.1.symm.trans h.2.1) (by decide)

/-- A quadword reaches both halves of its vector's address and no other vector. -/
theorem exec_registerWrite_msix_addr {s : State} (hl : s.linked = true) (hw : spWf MsixEntry.reset s.host.msix = true) (n : Fin 64)
    (v : BitVec 64) : ∃ t, exec (.registerWrite .bar4 (0x2000 + 16 * n.val) 8 v) s = .next t ∧
      (spGet MsixEntry.reset t.host.msix n.val).addr = v ∧
      ∀ m, m ≠ n.val → spGet MsixEntry.reset t.host.msix m = spGet MsixEntry.reset s.host.msix m := by
  have h0 := s.writeMsix_addr n.val (v.toNat % 2 ^ 32) false
  have h1 := (s.writeMsix (16 * n.val) (v.toNat % 2 ^ 32)).writeMsix_addr n.val (v.toNat / 2 ^ 32) true
  simp only [Bool.false_eq_true, if_false, if_true, Nat.add_zero] at h0 h1
  refine ⟨_, exec_registerWrite_msix_quad hl n v, ?_, fun m hm => ?_⟩
  · rw [h1, h0]
    dsimp only
    rw [spGet_spSet _ _ _ _ (spWf_spSet _ _ _ _ hw), spGet_spSet _ _ _ _ hw]
    exact setHalf_low_high _ v
  · rw [h1, h0]
    dsimp only
    rw [spGet_spSet_ne _ _ _ hm, spGet_spSet_ne _ _ _ hm]

/-! Configuration space. -/

/-- The vectors that have waited for Bus Master: as they are sent the power state stays. -/
theorem State.writeConfig_power (s : State) (v : BitVec 64) :
    (s.writeConfig 4 (v.toNat % 2 ^ 32)).power = { s.power with memSpace := v.getLsbD 1, busMaster := v.getLsbD 2 } := by
  simp only [State.writeConfig, ne_eq, not_true_eq_false, if_false, on_low v 1 (by decide), on_low v 2 (by decide)]
  refine List.foldlRecOn (motive := fun u : State => u.power = { s.power with memSpace := v.getLsbD 1, busMaster := v.getLsbD 2 })
    _ _ rfl fun u hu n _ => ?_
  dsimp only
  split
  · exact hu
  · exact hu

/-- With no vector pending, or with Bus Master off, none is sent. -/
theorem State.writeConfig_quiet (s : State) (v : BitVec 64) (h : s.host.pba = 0 ∨ v.getLsbD 2 = false) :
    s.writeConfig 4 (v.toNat % 2 ^ 32) = s.modPower fun p => { p with memSpace := v.getLsbD 1, busMaster := v.getLsbD 2 } := by
  simp only [State.writeConfig, ne_eq, not_true_eq_false, if_false, on_low v 1 (by decide), on_low v 2 (by decide)]
  refine List.foldlRecOn
    (motive := fun u : State => u = s.modPower fun p => { p with memSpace := v.getLsbD 1, busMaster := v.getLsbD 2 }) _ _ rfl ?_
  rintro _ rfl n -
  rw [if_neg]
  obtain h | h := h
  · simp [h]
  · simp only [State.modPower_power, h, Bool.false_and, Bool.false_eq_true, not_false_eq_true]

/-- Memory Space and Bus Master are written while the endpoint answers (15 R459). -/
theorem exec_registerWrite_config {s : State} (hp : s.pcieUp = true) (v : BitVec 64) :
    exec (.registerWrite .config 4 4 v) s = .next (s.writeConfig 4 (v.toNat % 2 ^ 32)) := by
  simp [exec, execRegisterWrite, hp]

/-- On its way there the endpoint answers with Request Retry Status (15 R457). -/
theorem exec_registerWrite_config_retry {s : State} (hp : s.pcieUp = false) (v : BitVec 64) :
    exec (.registerWrite .config 4 4 v) s = .next (if s.retrying then s.send .retryStatus else s) := by
  simp [exec, execRegisterWrite, hp]

/-! Mailboxes. -/

/-- DATA of a mailbox takes what its claimer writes (12 R381). -/
theorem State.writeMail_data {s : State} {m : Fin 16} {a : Agent} (hc : (s.mailbox m).state = .claimed)
    (hs : (s.mailbox m).sender = agentCode a) (i : Fin 16) (v : Nat) :
    s.writeMail m a (4 * i.val) v = s.modMail m fun x => { x with data := x.data.set i.val (BitVec.ofNat 32 v) i.isLt } := by
  have hi := i.isLt
  have h0 : 4 * i.val < 0x40 := by omega
  have h1 : 4 * i.val / 4 % 16 = i.val := by omega
  simp only [State.writeMail, h0, h1, hc, hs, beq_self_eq_true, and_self, true_or, if_true]

/-- A register of a mailbox that an agent inside the module writes (12 R381). -/
theorem exec_registerWrite_mail {s : State} {m : Fin 16} {a : Agent} (ho : onModule a = true) (hu : s.agentUp m a = true) (i : Fin 16)
    (v : BitVec 64) :
    exec (.registerWrite (.mail a) (0x100 * m.val + 4 * i.val) 4 v) s = .next (s.writeMail m a (4 * i.val) (v.toNat % 2 ^ 32)) := by
  have hm := m.isLt
  have hi := i.isLt
  have h0 : (0x100 * m.val + 4 * i.val) % 4 = 0 := by omega
  have h1 : 0x100 * m.val + 4 * i.val < 0x1000 := by omega
  have h2 : (0x100 * m.val + 4 * i.val) / 0x100 % 16 = m.val := by omega
  have h3 : (0x100 * m.val + 4 * i.val) % 0x100 = 4 * i.val := by omega
  simp [exec, execRegisterWrite, State.writeAgent, h0, h1, h2, h3, ho, hu]

/-! PM_EVENT and the brake in one control cycle. -/

@[simp] theorem State.msix_power (s : State) (v : Nat) : (s.msix v).power = s.power := by
  unfold State.msix
  (repeat' split) <;> rfl

@[simp] theorem State.ibi_power (s : State) (b : Byte) : (s.ibi b).power = s.power := by
  unfold State.ibi
  split <;> rfl

/-- The bit that an event sets is set, whether it was before or not (15 R469). -/
theorem State.pmSet_pmEvent (s : State) (i : Fin 6) : (s.pmSet i).power.pmEvent.getLsbD i.val = true := by
  have hb : ∀ x : BitVec 6, (x &&& BitVec.ofNat 6 (2 ^ i.val) ≠ 0 → x.getLsbD i.val = true) ∧
      (x ||| BitVec.ofNat 6 (2 ^ i.val)).getLsbD i.val = true := by
    revert i
    decide
  unfold State.pmSet
  dsimp only
  split
  · next h => exact (hb _).1 h
  · rw [State.ibi_power, apply_ite State.power, State.msix_power, ite_self]
    exact (hb _).2

/-- The brake sets BRAKE_EV where Notar works and the brake was released (15 R468, R469). -/
theorem State.brakeLow_pmEvent (s : State) (hb : s.power.brake = false) (hn : s.notarUp = true) :
    s.brakeLow.power.pmEvent.getLsbD 4 = true := by
  have hn' : (s.modPower fun p => { p with brake := true }).notarUp = true := hn
  simp only [State.brakeLow, hb, hn', Bool.false_eq_true, Bool.not_true, if_false]
  exact State.pmSet_pmEvent _ 4

/-- A register write stands before the brake in a control cycle, and never behind it (00 R9, log 82). -/
theorem registerWrite_before_brake (bar : Bar) (off width : Nat) (v : BitVec 64) :
    oneControlCycle [.registerWrite bar off width v, .pwrBrakeAssert] ∧ ¬oneControlCycle [.pwrBrakeAssert, .registerWrite bar off width v] := by
  have hw : placeOf (.registerWrite bar off width v) = 1 := rfl
  have hb : placeOf .pwrBrakeAssert = 7001 := rfl
  have hr : [Instr.registerWrite bar off width v, .pwrBrakeAssert].all
      (releaseOk [.registerWrite bar off width v, .pwrBrakeAssert]) = true := rfl
  simp [oneControlCycle, hw, hb, hr]

/-- A write of PM_EVENT and then the brake: the write's bits are cleared where the host reaches the BARs, and BRAKE_EV ends set
(00 R9, 15 R469, R470). -/
theorem exec_pmEvent_then_brake (s : State) (v : BitVec 64) :
    ∃ t u, exec (.registerWrite .bar0 0x40080 4 v) s = .next t ∧ exec .pwrBrakeAssert t = .next u ∧
      (s.linked = true → t.power.pmEvent = s.power.pmEvent &&& ~~~ v.extractLsb' 0 6) ∧
      (s.power.brake = false → s.notarUp = true → u.power.pmEvent.getLsbD 4 = true) := by
  cases hl : s.linked with
  | true =>
    exact ⟨_, _, exec_registerWrite_pmEvent hl v, rfl, fun _ => rfl, fun hb hn => State.brakeLow_pmEvent _ hb hn⟩
  | false =>
    exact ⟨s, _, (exec_registerWrite_unlinked hl _ _ v).1, rfl, fun h => absurd h (by decide), State.brakeLow_pmEvent s⟩

/-- The energy counter's low half is returned and its high half latched (15 R470). -/
theorem exec_energyLoRead {s : State} (hl : s.linked = true) :
    exec .energyLoRead s = .next ((s.modPower fun p => { p with energyHi := s.power.energy.extractLsb' 32 32 }).send
      (.hostReply (leBytes 4 (s.power.energy.toNat % 2 ^ 32)) false)) := by
  have he : BitVec.ofNat 32 (s.power.energy.toNat / 2 ^ 32) = s.power.energy.extractLsb' 32 32 := by
    apply BitVec.eq_of_toNat_eq
    rw [BitVec.toNat_ofNat, BitVec.extractLsb'_toNat, Nat.shiftRight_eq_div_pow]
  simp only [exec, execEnergyLoRead, hl, if_true, he]

/-- Settles O53: each register by its lemma, and PM_EVENT with the brake as two commands in turn. -/
theorem registerWritesTakeEffect : Obligations.RegisterWritesTakeEffect := by
  intro s
  refine ⟨fun hl => ⟨?_, ?_, ?_, ?_, ?_, ?_, ?_, ?_, ?_, ?_, ?_, ?_, ?_⟩, fun hl => ⟨?_, ?_, ?_, ?_, ?_, ?_, ?_, ?_⟩,
    fun v => ⟨?_, ?_⟩, ?_, fun v => ?_⟩
  · exact fun off width v ho hw => exec_registerWrite_bar0_unsupported hl off width v ho hw
  · exact exec_registerWrite_margin hl
  · intro q v he
    refine ⟨_, exec_registerWrite_cmdBase hl q v, fun r => ?_⟩
    simp only [State.queue_modQueue, he, Bool.false_eq_true, if_false]
  · intro q v he
    refine ⟨_, exec_registerWrite_cmdBase hl q v, fun r => ?_⟩
    rw [State.queue_modQueue, if_pos he, ite_eq_right_iff]
    exact fun hr => hr ▸ rfl
  · exact State.byHost_linked hl _
  · exact State.byHost_linked hl _
  · exact State.byHost_linked hl _
  · exact fun k => State.byHost_linked hl fun s => s.clearSource k.val
  · exact State.byHost_linked hl _
  · exact ⟨_, exec_energyLoRead hl, rfl, rfl⟩
  · exact exec_registerWrite_msix_addr hl
  · exact exec_registerWrite_beyond_bar0 s
  · exact exec_registerWrite_beyond_bar4 s
  · exact exec_registerWrite_unlinked hl
  · exact State.byHost_unlinked hl _
  · exact State.byHost_unlinked hl _
  · exact State.byHost_unlinked hl _
  · exact fun k => State.byHost_unlinked hl fun s => s.clearSource k.val
  · exact fun c => State.byHost_unlinked hl fun s => s.coreWindow c.val fun x => x.writeReg 0x3010 1
  · exact State.byHost_unlinked hl _
  · simp [exec, execEnergyLoRead, hl]
  · intro hp
    refine ⟨_, exec_registerWrite_config hp v, s.writeConfig_power v, fun h => ?_⟩
    rw [s.writeConfig_quiet v h]
    exact ⟨rfl, rfl⟩
  · exact fun hp => exec_registerWrite_config_retry hp v
  · intro a m i v ho hu hc hs
    refine ⟨_, exec_registerWrite_mail ho hu i v, fun n => ?_⟩
    rw [State.writeMail_data hc hs, State.mailbox_modMail, ofNat_low v 32 (by decide)]
    rfl
  · exact ⟨(registerWrite_before_brake _ _ _ v).1, (registerWrite_before_brake _ _ _ v).2, exec_pmEvent_then_brake s v⟩

end Sys2Proof.Machine
end

section
/-! The patrol scrubber and the stop on an internal fault: a DRAM word after a write, what the logging of a decoded word leaves of the
memories, and where a record stands in Cairn's queue (09 R263 to R275, 13 R390, 16 R488). -/

namespace Sys2Proof.Machine

/-! DRAM words. -/

theorem Mem.raw_put (m : Mem) (r o : Nat) (w : CodeWord) (h : m.wf = true) : (m.put r o w).raw r o = w := by
  obtain ⟨hb, hl⟩ := Bool.and_eq_true_iff.mp h
  unfold Mem.raw Mem.put
  by_cases hr : r < 4 <;> simp only [hr, if_true, if_false]
  · exact spGet_spSet _ _ _ _ hb
  · exact spGet_spSet _ _ _ _ hl

/-- A write of one DRAM word leaves the words of other keys and those of the other store. -/
theorem Mem.raw_put_ne (m : Mem) {r o a b : Nat} (w : CodeWord) (h : dramKey a b ≠ dramKey r o ∨ ¬(a < 4 ↔ r < 4)) :
    (m.put r o w).raw a b = m.raw a b := by
  unfold Mem.raw Mem.put
  by_cases hr : r < 4 <;> by_cases ha : a < 4 <;> simp only [hr, ha, if_true, if_false]
  · exact spGet_spSet_ne _ _ _ (h.resolve_right (by simp [hr, ha]))
  · exact spGet_spSet_ne _ _ _ (h.resolve_right (by simp [hr, ha]))

@[simp] theorem Mem.put_bdPasses (m : Mem) (r o : Nat) (w : CodeWord) : (m.put r o w).bdPasses = m.bdPasses := by
  unfold Mem.put
  split <;> rfl

@[simp] theorem Mem.put_bdLate (m : Mem) (r o : Nat) (w : CodeWord) : (m.put r o w).bdLate = m.bdLate := by
  unfold Mem.put
  split <;> rfl

@[simp] theorem Mem.raw_setScrub (m : Mem) (k : ScrubClass) (pos : Nat) (ovr : Bool) (r o : Nat) :
    (m.setScrub k pos ovr).raw r o = m.raw r o := by
  cases k <;> rfl

@[simp] theorem Mem.raw_passDone (m : Mem) (k : ScrubClass) (r o : Nat) : (m.passDone k).raw r o = m.raw r o := by
  cases k <;> rfl

/-! What vectors, interrupts, records and logs leave of the rest. -/

@[simp] theorem State.msix_ident (s : State) (v : Nat) : (s.msix v).ident = s.ident := by
  unfold State.msix
  (repeat' split) <;> rfl

@[simp] theorem State.msix_mem (s : State) (v : Nat) : (s.msix v).mem = s.mem := by
  unfold State.msix
  (repeat' split) <;> rfl

@[simp] theorem State.msix_cores (s : State) (v : Nat) : (s.msix v).cores = s.cores := by
  unfold State.msix
  (repeat' split) <;> rfl

@[simp] theorem State.msix_cairn (s : State) (v : Nat) : (s.msix v).cairn = s.cairn := by
  unfold State.msix
  (repeat' split) <;> rfl

@[simp] theorem State.ibi_ident (s : State) (b : Byte) : (s.ibi b).ident = s.ident := by
  unfold State.ibi
  split <;> rfl

@[simp] theorem State.ibi_mem (s : State) (b : Byte) : (s.ibi b).mem = s.mem := by
  unfold State.ibi
  split <;> rfl

@[simp] theorem State.ibi_cores (s : State) (b : Byte) : (s.ibi b).cores = s.cores := by
  unfold State.ibi
  split <;> rfl

@[simp] theorem State.ibi_cairn (s : State) (b : Byte) : (s.ibi b).cairn = s.cairn := by
  unfold State.ibi
  split <;> rfl

@[simp] theorem State.setState_ident (s : State) (v : BitVec 4) : (s.setState v).ident = { s.ident with state := v } := by
  unfold State.setState
  split
  · next h => rw [← h]
  · rw [State.ibi_ident, State.msix_ident]

@[simp] theorem State.setState_mem (s : State) (v : BitVec 4) : (s.setState v).mem = s.mem := by
  unfold State.setState
  split
  · rfl
  · rw [State.ibi_mem, State.msix_mem]

@[simp] theorem State.setState_cores (s : State) (v : BitVec 4) : (s.setState v).cores = s.cores := by
  unfold State.setState
  split
  · rfl
  · rw [State.ibi_cores, State.msix_cores]

@[simp] theorem State.setState_cairn (s : State) (v : BitVec 4) : (s.setState v).cairn = s.cairn := by
  unfold State.setState
  split
  · rfl
  · rw [State.ibi_cairn, State.msix_cairn]

@[simp] theorem State.record_ident (s : State) (ty : BitVec 16) (o : Byte) (l : List Byte) : (s.record ty o l).ident = s.ident :=
  (s.record_onlyCore ty o l 0).2.1

@[simp] theorem State.record_mem (s : State) (ty : BitVec 16) (o : Byte) (l : List Byte) : (s.record ty o l).mem = s.mem :=
  (s.record_onlyCore ty o l 0).2.2.1

@[simp] theorem State.record_cores (s : State) (ty : BitVec 16) (o : Byte) (l : List Byte) : (s.record ty o l).cores = s.cores := by
  unfold State.record
  dsimp only
  split <;> rfl

/-- An uncorrectable word reaches the memories' own state in its source log alone (09 R280). -/
theorem State.latchUe_mem (s : State) (src : Nat) (patrol rmw : Bool) (lane : Byte) (addr : BitVec 64) (syn : BitVec 32) :
    ∃ logs, (s.latchUe src patrol rmw lane addr syn).mem = { s.mem with logs := logs } := by
  unfold State.latchUe
  dsimp only
  split <;> exact ⟨_, rfl⟩

/-- A decoding outcome changes the source logs of the memories alone. -/
theorem State.logWord_mem (s : State) (src : Nat) (o : DecodeOutcome) (raw : CodeWord) (addr : BitVec 64) (lane : Byte) (patrol rmw : Bool) :
    ∃ logs, (s.logWord src o raw addr lane patrol rmw).mem = { s.mem with logs := logs } := by
  cases o with
  | clean => exact ⟨_, rfl⟩
  | corrected => exact ⟨_, rfl⟩
  | poison => exact ⟨_, rfl⟩
  | uncorrectable =>
    simp only [State.logWord, State.ueRecord, State.record_mem, State.msix_mem]
    exact s.latchUe_mem src patrol rmw lane addr _

/-- A read of a DRAM word writes back what its decoding leaves, and the memories change nowhere else but in their logs (09 R263, R266). -/
theorem State.readDram_mem (s : State) (r o : Nat) (patrol : Bool) :
    ∃ logs, (s.readDram r o patrol).2.mem = { s.mem.put r o (decodeWord (s.mem.raw r o)).2.1 with logs := logs } :=
  State.logWord_mem _ _ _ _ _ _ _ _

/-! The patrol scrubber. -/

/-- Region and offset of a word of a patrol class. -/
def scrubCell (k : ScrubClass) (pos : Nat) : Nat × Nat :=
  match k with
  | .bonded => (pos / 2 ^ 29, pos % 2 ^ 29 * 32)
  | .lpddr6 => (4, pos * 32)

/-- The memories after a read of a pass: its word as decoding leaves it, the pass one word on, or ended with its last word. -/
def Mem.patrolled (m : Mem) (k : ScrubClass) (total : Nat) (logs : Sparse SrcLog) : Mem :=
  let r := (scrubCell k (m.scrub k).1).1
  let o := (scrubCell k (m.scrub k).1).2
  let m' := ({ m.put r o (decodeWord (m.raw r o)).2.1 with logs := logs } : Mem).setScrub k ((m.scrub k).1 + 1) (m.scrub k).2.1
  if (m.scrub k).1 + 1 = total then m'.passDone k else m'

/-- With the fill done and the module on, a pass that has words left reads its next one (09 R274). -/
theorem exec_patrolScrubRead {s : State} {k : ScrubClass} (hf : s.mem.fillDone = true) (hs : s.power.stage = .on)
    (hp : (s.mem.scrub k).2.2 ≠ 0) (hw : (s.mem.scrub k).1 < s.scrubWords k) :
    ∃ t logs, exec (.patrolScrubRead k) s = .next t ∧ t.mem = s.mem.patrolled k (s.scrubWords k) logs := by
  obtain ⟨logs, hl⟩ := s.readDram_mem (scrubCell k (s.mem.scrub k).1).1 (scrubCell k (s.mem.scrub k).1).2 true
  have hg : ¬(!s.mem.fillDone || (s.mem.scrub k).2.2 == 0 || decide (s.scrubWords k ≤ (s.mem.scrub k).1) ||
      s.power.stage != .on) = true := by
    rw [hf, hs, beq_eq_false_iff_ne.mpr hp, decide_eq_false (Nat.not_le.mpr hw)]
    decide
  refine ⟨_, logs, congrArg Host.Outcome.next (if_neg hg), ?_⟩
  dsimp only [Mem.patrolled]
  rw [← hl]
  cases k <;> dsimp only [scrubCell, Mem.scrub] <;> exact apply_ite State.mem _ _ _

/-- A word of either store after a read of a pass is what the write-back leaves of it. -/
theorem Mem.raw_patrolled (m : Mem) (k : ScrubClass) (total : Nat) (logs : Sparse SrcLog) (a b : Nat) :
    (m.patrolled k total logs).raw a b =
      let r := (scrubCell k (m.scrub k).1).1
      let o := (scrubCell k (m.scrub k).1).2
      (m.put r o (decodeWord (m.raw r o)).2.1).raw a b := by
  unfold Mem.patrolled
  dsimp only
  split <;> simp only [Mem.raw_passDone, Mem.raw_setScrub] <;> rfl

theorem Mem.patrolled_bonded_goesOn {m : Mem} {total : Nat} (logs : Sparse SrcLog) (h : m.bdPos + 1 ≠ total) :
    (m.patrolled .bonded total logs).bdPos = m.bdPos + 1 ∧ (m.patrolled .bonded total logs).bdPasses = m.bdPasses := by
  simp [Mem.patrolled, Mem.scrub, Mem.setScrub, h]

theorem Mem.patrolled_bonded_ends {m : Mem} {total : Nat} (logs : Sparse SrcLog) (h : m.bdPos + 1 = total) :
    (m.patrolled .bonded total logs).bdPasses = m.bdPasses + 1 ∧
      (m.patrolled .bonded total logs).bdLate = (m.bdLate || m.bdOver) := by
  simp [Mem.patrolled, Mem.scrub, Mem.setScrub, Mem.passDone, h]

theorem Mem.patrolled_lpddr6_goesOn {m : Mem} {total : Nat} (logs : Sparse SrcLog) (h : m.lpPos + 1 ≠ total) :
    (m.patrolled .lpddr6 total logs).lpPos = m.lpPos + 1 := by
  simp [Mem.patrolled, Mem.scrub, Mem.setScrub, h]

/-- A pass that has ended makes way for the next; one that has not is overdue from now on (09 R275). -/
theorem exec_scrubPeriodExpiry {s : State} {k : ScrubClass} (hp : (s.mem.scrub k).2.2 ≠ 0) :
    exec (.scrubPeriodExpiry k) s = .next { s with mem := (s.mem.setScrub k
      (if s.scrubWords k ≤ (s.mem.scrub k).1 then 0 else (s.mem.scrub k).1) (decide ((s.mem.scrub k).1 < s.scrubWords k))) } := by
  simp only [exec, execScrubPeriodExpiry, if_neg hp]
  by_cases h : s.scrubWords k ≤ (s.mem.scrub k).1
  · rw [if_pos h, if_pos h, decide_eq_false (Nat.not_lt.mpr h)]
  · rw [if_neg h, if_neg h, decide_eq_true (Nat.not_le.mp h)]

/-- A class whose period changes to another than 0 starts a fresh pass, and the stored words stay (09 R274). -/
theorem State.writeScrub_mem (s : State) (v : Reg) :
    let m := (s.writeScrub v).mem
    m.bdPeriod = v.extractLsb' 0 16 ∧ m.lpPeriod = v.extractLsb' 16 16 ∧
    (v.extractLsb' 0 16 ≠ 0 → v.extractLsb' 0 16 ≠ s.mem.bdPeriod → m.bdPos = 0 ∧ m.bdOver = false) ∧
    (v.extractLsb' 16 16 ≠ 0 → v.extractLsb' 16 16 ≠ s.mem.lpPeriod → m.lpPos = 0 ∧ m.lpOver = false) ∧
    m.bonded = s.mem.bonded ∧ m.lpddr = s.mem.lpddr := by
  unfold State.writeScrub
  have hbd : v.extractLsb' 0 16 ≠ 0 → v.extractLsb' 0 16 ≠ s.mem.bdPeriod →
      ¬(v.extractLsb' 0 16 = s.mem.bdPeriod ∨ v.extractLsb' 0 16 = 0) := fun h0 h1 => not_or.mpr ⟨h1, h0⟩
  have hlp : v.extractLsb' 16 16 ≠ 0 → v.extractLsb' 16 16 ≠ s.mem.lpPeriod →
      ¬(v.extractLsb' 16 16 = s.mem.lpPeriod ∨ v.extractLsb' 16 16 = 0) := fun h0 h1 => not_or.mpr ⟨h1, h0⟩
  by_cases hb : v.extractLsb' 0 16 = s.mem.bdPeriod ∨ v.extractLsb' 0 16 = 0
  · by_cases hl : v.extractLsb' 16 16 = s.mem.lpPeriod ∨ v.extractLsb' 16 16 = 0
    · simp only [hb, hl, if_true, true_and, and_true]
      exact ⟨fun h0 h1 => absurd hb (hbd h0 h1), fun h0 h1 => absurd hl (hlp h0 h1)⟩
    · simp only [Mem.setScrub, hb, hl, if_true, if_false, true_and, and_true, implies_true]
      exact fun h0 h1 => absurd hb (hbd h0 h1)
  · by_cases hl : v.extractLsb' 16 16 = s.mem.lpPeriod ∨ v.extractLsb' 16 16 = 0
    · simp only [Mem.setScrub, hb, hl, if_true, if_false, true_and, and_true, implies_true]
      exact fun h0 h1 => absurd hl (hlp h0 h1)
    · simp only [Mem.setScrub, hb, hl, if_false, true_and, implies_true]

/-! An internal fault. -/

/-- A list in rising order takes an entry before the first of a greater key. -/
theorem insertDue_eq_append {α : Type} (key : α → Nat) (x : α) (l : List α) :
    ∃ a b, l = a ++ b ∧ insertDue key x l = a ++ x :: b ∧ ∀ y r, b = y :: r → key x < key y := by
  induction l with
  | nil => exact ⟨[], [], rfl, rfl, fun _ _ h => nomatch h⟩
  | cons y r ih =>
    by_cases h : key y ≤ key x
    · obtain ⟨a, b, hr, hi, hb⟩ := ih
      exact ⟨y :: a, b, by rw [hr, List.cons_append], by rw [insertDue, if_pos h, hi, List.cons_append], hb⟩
    · refine ⟨[], y :: r, rfl, by rw [insertDue, if_neg h, List.nil_append], fun z q hz => ?_⟩
      obtain ⟨rfl, -⟩ := List.cons.inj hz
      exact Nat.not_le.mp h

/-- A record is inserted behind those of earlier control cycles: at the end where no commands share one. -/
theorem State.record_queue_insertDue {s : State} (hq : s.cairn.queue.length < 32) (ty : BitVec 16) (o : Byte) (l : List Byte) :
    ∃ n, (s.cycle = none → n = s.cairn.queue.length) ∧ (s.record ty o l).cairn.queue = s.cairn.queue.take n ++
      insertDue (fun x : CairnEntry => x.origin.toNat) { type := ty, origin := o, payload := l } (s.cairn.queue.drop n) := by
  unfold State.record
  dsimp only
  rw [if_pos hq]
  exact ⟨_, fun hc => by rw [hc, Nat.sub_zero], rfl⟩

/-- A queue with room takes a record: at its end, or before those of a greater `ORIGIN` of the same control cycle (16 R488). -/
theorem State.record_queue {s : State} (hq : s.cairn.queue.length < 32) (ty : BitVec 16) (o : Byte) (l : List Byte) :
    ∃ a b, s.cairn.queue = a ++ b ∧ (s.record ty o l).cairn.queue = a ++ { type := ty, origin := o, payload := l } :: b ∧
      (s.cycle = none → b = []) ∧ ∀ x r, b = x :: r → o.toNat < x.origin.toNat := by
  obtain ⟨n, hn, hr⟩ := State.record_queue_insertDue hq ty o l
  obtain ⟨a, b, hd, hi, hb⟩ :=
    insertDue_eq_append (fun x : CairnEntry => x.origin.toNat) { type := ty, origin := o, payload := l } (s.cairn.queue.drop n)
  refine ⟨s.cairn.queue.take n ++ a, b, ?_, ?_, fun hc => ?_, hb⟩
  · rw [List.append_assoc, ← hd, List.take_append_drop]
  · rw [List.append_assoc, ← hi, hr]
  · have he : s.cairn.queue.drop n = [] := by rw [hn hc, List.drop_length]
    exact (List.append_eq_nil_iff.mp (hd.symm.trans he)).2

/-- In the states 0x1 to 0x3 an internal fault is recorded and stops the module (13 R390). -/
theorem exec_internalFault {s : State} (hs : s.ident.state = 0x1 ∨ s.ident.state = 0x2 ∨ s.ident.state = 0x3) (st u : BitVec 16)
    (info : List Byte) : ∃ l, exec (.internalFault st u info) s = .next ((s.record 0x0030 1 l).setState 0xF) :=
  ⟨_, congrArg Host.Outcome.next (if_pos hs)⟩

/-- Settles O46: a read of a pass and a period's end by one lemma for both classes, SCRUB_CTRL by its write, the fault by its record. -/
theorem scrubsAndInternalFault : Obligations.ScrubsAndInternalFault := by
  rintro s ⟨-, -, hwf⟩
  refine ⟨fun hf hs => ⟨fun hp hw => ?_, fun hp hw => ?_⟩, fun hp => exec_scrubPeriodExpiry (k := .bonded) hp,
    fun hp => exec_scrubPeriodExpiry (k := .lpddr6) hp, fun v hl => ⟨_, State.byHost_linked hl fun s => s.writeScrub v, s.writeScrub_mem v⟩, ?_⟩
  · obtain ⟨t, logs, ht, hm⟩ := exec_patrolScrubRead (k := .bonded) hf hs hp hw
    have hr : s.mem.bdPos / 2 ^ 29 < 4 := Nat.div_lt_of_lt_mul (Nat.mul_comm 4 _ ▸ hw)
    refine ⟨t, ht, ?_, fun a b hab => ?_, fun h => ?_, fun h => ?_⟩ <;> rw [hm]
    · exact (Mem.raw_patrolled ..).trans (Mem.raw_put _ _ _ _ hwf)
    · exact (Mem.raw_patrolled ..).trans (Mem.raw_put_ne _ _ (hab.imp_right fun ha h => absurd (h.mpr hr) (Nat.not_lt.mpr ha)))
    · exact Mem.patrolled_bonded_goesOn logs (Nat.ne_of_lt h)
    · exact Mem.patrolled_bonded_ends logs h
  · obtain ⟨t, logs, ht, hm⟩ := exec_patrolScrubRead (k := .lpddr6) hf hs hp hw
    refine ⟨t, ht, ?_, fun h => ?_⟩ <;> rw [hm]
    · exact (Mem.raw_patrolled ..).trans (Mem.raw_put _ _ _ _ hwf)
    · exact Mem.patrolled_lpddr6_goesOn logs (Nat.ne_of_lt h)
  · intro st u info hs hq
    obtain ⟨l, hx⟩ := exec_internalFault hs st u info
    obtain ⟨a, b, hab, hi, hc, hb⟩ := State.record_queue hq 0x0030 1 l
    exact ⟨_, _, a, b, hx, by rw [State.setState_ident, State.record_ident], by rw [State.setState_mem, State.record_mem],
      by rw [State.setState_cores, State.record_cores], hab, by rw [State.setState_cairn, hi], hc, hb, rfl, rfl⟩

end Sys2Proof.Machine
end
